-- ==== Sys2Proof/Word.lean ====
section
/-!
DEFINITION. Word.lean: the widths the manual computes in (spec/05_scalar_control.md R110, spec/00_scope.md R5).
-/
namespace Sys2Proof

/-- A scalar register, an address, a 64-bit memory word (R110). -/
abbrev Word := BitVec 64
/-- A 32-bit element slot, control register or instruction word (R39, R140). -/
abbrev Half := BitVec 32
/-- One byte of memory (R5). -/
abbrev Byte := BitVec 8

end Sys2Proof
end

