-- ==== Sys2Proof/Machine/Tbl.lean ====
section
/-!
DEFINITION. Tbl.lean: sparse tables from numbers to values, the one shape in which the model holds register files,
memories and the parts of the package. A table lists entries by rising key; a key that is not listed reads as the
table's default. Tbl.set keeps a table free of default entries, so that equal contents are equal data.
-/

namespace Sys2Proof.Machine

/-- A sparse table. -/
abbrev Tbl (α : Type) := List (Nat × α)

/-- The value at a key: the listed one, else the default. -/
def Tbl.get (dflt : α) : Tbl α → Nat → α
  | [], _ => dflt
  | (k', v) :: t, k => if k = k' then v else Tbl.get dflt t k

/-- The table without a key. -/
def Tbl.del : Tbl α → Nat → Tbl α
  | [], _ => []
  | (k', v) :: t, k => if k = k' then Tbl.del t k else (k', v) :: Tbl.del t k

/-- An entry put before the first entry of a larger key, in a table that lists no entry of its key. -/
def Tbl.ins : Tbl α → Nat → α → Tbl α
  | [], k, v => [(k, v)]
  | (k', v') :: t, k, v => if k < k' then (k, v) :: (k', v') :: t else (k', v') :: Tbl.ins t k v

/-- The table with a value put at a key; a default value may be listed. -/
def Tbl.put (t : Tbl α) (k : Nat) (v : α) : Tbl α := (t.del k).ins k v

/-- The table with a value at a key, listed only where it differs from the default. -/
def Tbl.set [DecidableEq α] (dflt : α) (t : Tbl α) (k : Nat) (v : α) : Tbl α :=
  if v = dflt then t.del k else t.put k v

/-- The keys rise strictly and no entry is the default. -/
def Tbl.wf [DecidableEq α] (dflt : α) : Tbl α → Bool
  | [] => true
  | [(_, v)] => decide (v ≠ dflt)
  | (k, v) :: (k', v') :: t => decide (v ≠ dflt) && decide (k < k') && Tbl.wf dflt ((k', v') :: t)

/-- Values at consecutive keys from k on. -/
def Tbl.getRange (dflt : α) (t : Tbl α) (k : Nat) : Nat → List α
  | 0 => []
  | n + 1 => t.get dflt k :: Tbl.getRange dflt t (k + 1) n

/-- A list of values at consecutive keys from k on. -/
def Tbl.setRange [DecidableEq α] (dflt : α) (t : Tbl α) (k : Nat) : List α → Tbl α
  | [] => t
  | v :: vs => Tbl.setRange dflt (t.set dflt k v) (k + 1) vs

/-- The table without the keys from lo on, below hi. -/
def Tbl.clear (t : Tbl α) (lo hi : Nat) : Tbl α := t.filter fun e => e.1 < lo || hi ≤ e.1

end Sys2Proof.Machine
end

