-- ==== Sys2Proof/Syntax.lean ====
section
/-!
DEFINITION. Syntax.lean: the instructions of Henade 3 (spec/02_encoding.md R42 to R54) and the device and outside
events of the opcode table, one constructor per row of spec/opcode_table.json, with the modifier values of R44 to R49
as named alternatives. Register numbers are plain numbers; which values a field accepts is in WellFormed.lean.
-/

namespace Sys2Proof

/-- The fm field (R44). -/
inductive Fm | f64 | f32 | bf16
deriving DecidableEq, Repr

/-- The rounding modes (R44, R91). -/
inductive Rm | rne | rtz | rdn | rup
deriving DecidableEq, Repr

/-- The condition of f.cmp (R49). -/
inductive FCond | eq | lt | le | uo
deriving DecidableEq, Repr

/-- The kinds of f.cvt (R49). -/
inductive FKind | f64 | f32 | bf16 | s64 | n64 | s32 | n32
deriving DecidableEq, Repr

/-- The gr field of ln.set: the granule 1, 2, 4 or 32 (R44, R46). -/
inductive Gr | g1 | g2 | g4 | g32
deriving DecidableEq, Repr

/-- The element sizes of ln.shuttle (R46). -/
inductive Es | b1 | b2 | b4 | b8 | t6 | f4 | mx
deriving DecidableEq, Repr

/-- The order of a scalar atomic (R44). -/
inductive Ord | rlx | acq | rel | ar
deriving DecidableEq, Repr

/-- The scope of a scalar atomic (R44). -/
inductive Sco | crew | die | pkg | sys
deriving DecidableEq, Repr

/-- The scope of a fence, a stream or vector memory work (R44, R112, R179). -/
inductive YSco | hart | crew | die | pkg | sys
deriving DecidableEq, Repr

/-- The memory formats (R45). -/
inductive Fmt | s8 | n8 | s16 | n16 | s32 | n32 | f32 | ix | bf16 | e4m3 | e5m2 | t8 | t6 | e2m1 | e8m0 | pk
deriving DecidableEq, Repr

/-- The tags of vector registers; also the md values of the unary forms (R142, R49). -/
inductive Tag | s32 | n32 | fp32 | bf16 | ix | pk
deriving DecidableEq, Repr

/-- The condition of v.cmp (R48). -/
inductive VCond | eq | ne | lt | le | gt | ge | uo
deriving DecidableEq, Repr

/-- The condition of q.cmp (R49). -/
inductive QCond | lt | le | eq | ne
deriving DecidableEq, Repr

/-- The privilege levels (R6). -/
inductive Level | u | s | h | m
deriving DecidableEq, Repr

/-- A resource of the plat's attach tables (R338). -/
inductive Res | cluster (n : Nat) | hubHart (n : Nat) | channel (n : Nat)
deriving DecidableEq, Repr

/-- The fabric commands as their peer sees them (R308). -/
inductive FabKind | put | get | red
deriving DecidableEq, Repr

/-- The element traffic of a peer's command (R308): into the partition and region it names, at a virtual address of
that region's FASID, or at a scratchpad offset of a cluster; count elements of format fmt, whose codes are in data for
put and red; op is the e.red operation (0 add, 1 min, 2 max). issuer, block and ticket name the command for a record
(R313). -/
structure FabricReq where
  peer : Nat
  kind : FabKind
  part : Nat
  regid : Nat
  scratch : Bool
  cluster : Nat
  addr : Word
  fmt : Fmt
  op : Nat
  count : Nat
  data : List Nat
  issuer : Nat
  block : Word
  ticket : Half
deriving DecidableEq, Repr

/-- One constructor per row of the opcode table. -/
inductive Instr
  /-- R122: x.add, wrapping or (sat) clamped to S64. -/
  | xAdd (d : Nat) (a : Nat) (b : Nat) (sat : Bool)
  /-- R122: x.sub, wrapping or (sat) clamped to S64. -/
  | xSub (d : Nat) (a : Nat) (b : Nat) (sat : Bool)
  /-- R122: x.and. -/
  | xAnd (d : Nat) (a : Nat) (b : Nat)
  /-- R122: x.or. -/
  | xOr (d : Nat) (a : Nat) (b : Nat)
  /-- R122: x.xor. -/
  | xXor (d : Nat) (a : Nat) (b : Nat)
  /-- R122: x.andn. -/
  | xAndn (d : Nat) (a : Nat) (b : Nat)
  /-- R122: x.shl, wrapping or (sat) clamped to S64. -/
  | xShl (d : Nat) (a : Nat) (b : Nat) (sat : Bool)
  /-- R122: x.shr. -/
  | xShr (d : Nat) (a : Nat) (b : Nat)
  /-- R122: x.sar. -/
  | xSar (d : Nat) (a : Nat) (b : Nat)
  /-- R122: x.mul, wrapping or (sat) clamped to S64. -/
  | xMul (d : Nat) (a : Nat) (b : Nat) (sat : Bool)
  /-- R122: x.mulh. -/
  | xMulh (d : Nat) (a : Nat) (b : Nat)
  /-- R122: x.mulhn. -/
  | xMulhn (d : Nat) (a : Nat) (b : Nat)
  /-- R122: x.div. -/
  | xDiv (d : Nat) (a : Nat) (b : Nat)
  /-- R122: x.divn. -/
  | xDivn (d : Nat) (a : Nat) (b : Nat)
  /-- R122: x.rem. -/
  | xRem (d : Nat) (a : Nat) (b : Nat)
  /-- R122: x.remn. -/
  | xRemn (d : Nat) (a : Nat) (b : Nat)
  /-- R122: x.min. -/
  | xMin (d : Nat) (a : Nat) (b : Nat)
  /-- R122: x.max. -/
  | xMax (d : Nat) (a : Nat) (b : Nat)
  /-- R122: x.minn. -/
  | xMinn (d : Nat) (a : Nat) (b : Nat)
  /-- R122: x.maxn. -/
  | xMaxn (d : Nat) (a : Nat) (b : Nat)
  /-- R122: x.slt. -/
  | xSlt (d : Nat) (a : Nat) (b : Nat)
  /-- R122: x.sltn. -/
  | xSltn (d : Nat) (a : Nat) (b : Nat)
  /-- R122: x.seq. -/
  | xSeq (d : Nat) (a : Nat) (b : Nat)
  /-- R122: x.sel. -/
  | xSel (d : Nat) (a : Nat) (b : Nat)
  /-- R122: x.clz. -/
  | xClz (d : Nat) (a : Nat)
  /-- R122: x.ctz. -/
  | xCtz (d : Nat) (a : Nat)
  /-- R122: x.popc. -/
  | xPopc (d : Nat) (a : Nat)
  /-- R123: xi.add, imm sign-extended. -/
  | xiAdd (d : Nat) (a : Nat) (imm : BitVec 11)
  /-- R123: xi.and, imm sign-extended. -/
  | xiAnd (d : Nat) (a : Nat) (imm : BitVec 11)
  /-- R123: xi.or, imm sign-extended. -/
  | xiOr (d : Nat) (a : Nat) (imm : BitVec 11)
  /-- R123: xi.xor, imm sign-extended. -/
  | xiXor (d : Nat) (a : Nat) (imm : BitVec 11)
  /-- R123: xi.shl, count in imm 5:0. -/
  | xiShl (d : Nat) (a : Nat) (sh : BitVec 6)
  /-- R123: xi.shr, count in imm 5:0. -/
  | xiShr (d : Nat) (a : Nat) (sh : BitVec 6)
  /-- R123: xi.sar, count in imm 5:0. -/
  | xiSar (d : Nat) (a : Nat) (sh : BitVec 6)
  /-- R123: xi.slt, imm sign-extended. -/
  | xiSlt (d : Nat) (a : Nat) (imm : BitVec 11)
  /-- R124: xl.ld, two words. -/
  | xlLd (d : Nat) (imm : BitVec 32)
  /-- R124: xl.hi, two words. -/
  | xlHi (d : Nat) (imm : BitVec 32)
  /-- R125: f.add. -/
  | fAdd (d : Nat) (a : Nat) (b : Nat) (fm : Fm) (rm : Rm)
  /-- R125: f.sub. -/
  | fSub (d : Nat) (a : Nat) (b : Nat) (fm : Fm) (rm : Rm)
  /-- R125: f.mul. -/
  | fMul (d : Nat) (a : Nat) (b : Nat) (fm : Fm) (rm : Rm)
  /-- R125: f.fma. -/
  | fFma (d : Nat) (a : Nat) (b : Nat) (fm : Fm) (rm : Rm)
  /-- R125: f.div. -/
  | fDiv (d : Nat) (a : Nat) (b : Nat) (fm : Fm) (rm : Rm)
  /-- R125: f.sqrt. -/
  | fSqrt (d : Nat) (a : Nat) (fm : Fm) (rm : Rm)
  /-- R125: f.min. -/
  | fMin (d : Nat) (a : Nat) (b : Nat) (fm : Fm) (rm : Rm)
  /-- R125: f.max. -/
  | fMax (d : Nat) (a : Nat) (b : Nat) (fm : Fm) (rm : Rm)
  /-- R125: f.cmp, rm is the condition (R49). -/
  | fCmp (d : Nat) (a : Nat) (b : Nat) (fm : Fm) (cond : FCond)
  /-- R126: f.cvt.dk.sk.rm. -/
  | fCvt (d : Nat) (a : Nat) (dk : FKind) (sk : FKind) (rm : Rm)
  /-- R125: f.class; rm has no effect. -/
  | fClass (d : Nat) (a : Nat) (fm : Fm) (rm : Rm)
  /-- R128: b.eq, offset in words. -/
  | bEq (a : Nat) (b : Nat) (off : BitVec 11)
  /-- R128: b.ne, offset in words. -/
  | bNe (a : Nat) (b : Nat) (off : BitVec 11)
  /-- R128: b.lt, offset in words. -/
  | bLt (a : Nat) (b : Nat) (off : BitVec 11)
  /-- R128: b.ge, offset in words. -/
  | bGe (a : Nat) (b : Nat) (off : BitVec 11)
  /-- R128: b.ltn, offset in words. -/
  | bLtn (a : Nat) (b : Nat) (off : BitVec 11)
  /-- R128: b.gen, offset in words. -/
  | bGen (a : Nat) (b : Nat) (off : BitVec 11)
  /-- R129: j.link, offset in words. -/
  | jLink (d : Nat) (off : BitVec 18)
  /-- R129: j.ind, x[a] + 4 * off. -/
  | jInd (d : Nat) (a : Nat) (off : BitVec 12)
  /-- R132: ln.set; np has no effect. -/
  | lnSet (d : Nat) (a : Nat) (gr : Gr) (np : Nat) (kb : Bool)
  /-- R133: ln.shuttle, two words; np pointers from x[b] with sizes es0 to es3. -/
  | lnShuttle (d : Nat) (a : Nat) (b : Nat) (np : Nat) (kb : Bool) (es0 : Es) (es1 : Es) (es2 : Es) (es3 : Es) (off : BitVec 20)
  /-- R176: ln.trim. -/
  | lnTrim (d : Nat) (a : Nat)
  /-- R135: ln.rel. -/
  | lnRel
  /-- R120: cr.rd. -/
  | crRd (d : Nat) (cn : Nat)
  /-- R120: cr.wr. -/
  | crWr (d : Nat) (a : Nat) (cn : Nat)
  /-- R120: cr.set. -/
  | crSet (d : Nat) (a : Nat) (cn : Nat)
  /-- R120: cr.clr. -/
  | crClr (d : Nat) (a : Nat) (cn : Nat)
  /-- R137: ld.s8. -/
  | ldS8 (d : Nat) (a : Nat) (cls : Nat) (off : BitVec 7)
  /-- R137: ld.n8. -/
  | ldN8 (d : Nat) (a : Nat) (cls : Nat) (off : BitVec 7)
  /-- R137: ld.s16. -/
  | ldS16 (d : Nat) (a : Nat) (cls : Nat) (off : BitVec 7)
  /-- R137: ld.n16. -/
  | ldN16 (d : Nat) (a : Nat) (cls : Nat) (off : BitVec 7)
  /-- R137: ld.s32. -/
  | ldS32 (d : Nat) (a : Nat) (cls : Nat) (off : BitVec 7)
  /-- R137: ld.n32. -/
  | ldN32 (d : Nat) (a : Nat) (cls : Nat) (off : BitVec 7)
  /-- R137: ld.x64. -/
  | ldX64 (d : Nat) (a : Nat) (cls : Nat) (off : BitVec 7)
  /-- R251: st.s8. -/
  | stS8 (d : Nat) (a : Nat) (cls : Nat) (off : BitVec 7)
  /-- R251: st.s16. -/
  | stS16 (d : Nat) (a : Nat) (cls : Nat) (off : BitVec 7)
  /-- R251: st.s32. -/
  | stS32 (d : Nat) (a : Nat) (cls : Nat) (off : BitVec 7)
  /-- R251: st.x64. -/
  | stX64 (d : Nat) (a : Nat) (cls : Nat) (off : BitVec 7)
  /-- R259: am.add. -/
  | amAdd (d : Nat) (a : Nat) (b : Nat) (ord : Ord) (sco : Sco)
  /-- R259: am.and. -/
  | amAnd (d : Nat) (a : Nat) (b : Nat) (ord : Ord) (sco : Sco)
  /-- R259: am.or. -/
  | amOr (d : Nat) (a : Nat) (b : Nat) (ord : Ord) (sco : Sco)
  /-- R259: am.xor. -/
  | amXor (d : Nat) (a : Nat) (b : Nat) (ord : Ord) (sco : Sco)
  /-- R259: am.max. -/
  | amMax (d : Nat) (a : Nat) (b : Nat) (ord : Ord) (sco : Sco)
  /-- R259: am.min. -/
  | amMin (d : Nat) (a : Nat) (b : Nat) (ord : Ord) (sco : Sco)
  /-- R259: am.maxn. -/
  | amMaxn (d : Nat) (a : Nat) (b : Nat) (ord : Ord) (sco : Sco)
  /-- R259: am.minn. -/
  | amMinn (d : Nat) (a : Nat) (b : Nat) (ord : Ord) (sco : Sco)
  /-- R259: am.swap. -/
  | amSwap (d : Nat) (a : Nat) (b : Nat) (ord : Ord) (sco : Sco)
  /-- R259: am.cas. -/
  | amCas (d : Nat) (a : Nat) (b : Nat) (ord : Ord) (sco : Sco)
  /-- R259: am.ld. -/
  | amLd (d : Nat) (a : Nat) (ord : Ord) (sco : Sco)
  /-- R259: am.st. -/
  | amSt (d : Nat) (a : Nat) (ord : Ord) (sco : Sco)
  /-- R276: y.fence over the classes of cmask. -/
  | yFence (cmask : BitVec 16) (sco : YSco)
  /-- R276: y.xfence from the paths of pa to those of pb. -/
  | yXfence (pa : BitVec 8) (pb : BitVec 8) (sco : YSco)
  /-- R294: y.bar. -/
  | yBar
  /-- R295: y.end. -/
  | yEnd
  /-- R261: y.wait. -/
  | yWait (d : Nat) (a : Nat) (b : Nat)
  /-- R54: ride; pop pid if pe, push hid if he, class cls if ce. -/
  | ride (pe : Bool) (pid : Nat) (he : Bool) (hid : Nat) (ce : Bool) (cls : Nat)
  /-- R371: z.call. -/
  | zCall
  /-- R371: z.brk. -/
  | zBrk
  /-- R373: z.ret. -/
  | zRet
  /-- R374: z.hres. -/
  | zHres (d : Nat) (a : Nat)
  /-- R375: z.hstop. -/
  | zHstop (d : Nat) (a : Nat)
  /-- R328: z.inva. -/
  | zInva (a : Nat)
  /-- R328: z.invs. -/
  | zInvs (a : Nat) (b : Nat)
  /-- R328: z.invp. -/
  | zInvp
  /-- R342: z.spawn. -/
  | zSpawn (d : Nat) (a : Nat)
  /-- R343: z.kill. -/
  | zKill (d : Nat) (a : Nat) (b : Nat)
  /-- R344: z.yield. -/
  | zYield
  /-- R243: z.wsopen. -/
  | zWsopen (d : Nat) (a : Nat)
  /-- R243: z.wsclose. -/
  | zWsclose (d : Nat) (a : Nat)
  /-- R150: v.add, wrapping or (sat) clamped. -/
  | vAdd (d : Nat) (a : Nat) (b : Nat) (km : Nat) (sat : Bool)
  /-- R150: v.sub, wrapping or (sat) clamped. -/
  | vSub (d : Nat) (a : Nat) (b : Nat) (km : Nat) (sat : Bool)
  /-- R150: v.mul, wrapping or (sat) clamped. -/
  | vMul (d : Nat) (a : Nat) (b : Nat) (km : Nat) (sat : Bool)
  /-- R150: v.fma. -/
  | vFma (d : Nat) (a : Nat) (b : Nat) (km : Nat)
  /-- R150: v.fms. -/
  | vFms (d : Nat) (a : Nat) (b : Nat) (km : Nat)
  /-- R150: v.div. -/
  | vDiv (d : Nat) (a : Nat) (b : Nat) (km : Nat)
  /-- R150: v.min. -/
  | vMin (d : Nat) (a : Nat) (b : Nat) (km : Nat)
  /-- R150: v.max. -/
  | vMax (d : Nat) (a : Nat) (b : Nat) (km : Nat)
  /-- R151: v.and. -/
  | vAnd (d : Nat) (a : Nat) (b : Nat) (km : Nat)
  /-- R151: v.or. -/
  | vOr (d : Nat) (a : Nat) (b : Nat) (km : Nat)
  /-- R151: v.xor. -/
  | vXor (d : Nat) (a : Nat) (b : Nat) (km : Nat)
  /-- R151: v.shl. -/
  | vShl (d : Nat) (a : Nat) (b : Nat) (km : Nat)
  /-- R151: v.shr. -/
  | vShr (d : Nat) (a : Nat) (b : Nat) (km : Nat)
  /-- R151: v.sar. -/
  | vSar (d : Nat) (a : Nat) (b : Nat) (km : Nat)
  /-- R151: v.sel. -/
  | vSel (d : Nat) (a : Nat) (b : Nat) (km : Nat)
  /-- R157: v.slide by x[b]. -/
  | vSlide (d : Nat) (a : Nat) (b : Nat) (km : Nat)
  /-- R157: v.perm. -/
  | vPerm (d : Nat) (a : Nat) (b : Nat) (km : Nat)
  /-- R158: v.comp. -/
  | vComp (d : Nat) (a : Nat) (km : Nat)
  /-- R157: v.expd. -/
  | vExpd (d : Nat) (a : Nat) (km : Nat)
  /-- R157: v.rev. -/
  | vRev (d : Nat) (a : Nat) (km : Nat)
  /-- R157: v.iota. -/
  | vIota (d : Nat) (km : Nat)
  /-- R159: v.mvx, element x[b] of v[a] to x[d]. -/
  | vMvx (d : Nat) (a : Nat) (b : Nat)
  /-- R225: v.tr, slice of accumulator a from x[b]. -/
  | vTr (d : Nat) (a : Nat) (b : Nat) (km : Nat)
  /-- R225: v.tc, slice of accumulator a from x[b]. -/
  | vTc (d : Nat) (a : Nat) (b : Nat) (km : Nat)
  /-- R154: v.cmp to mask d. -/
  | vCmp (d : Nat) (a : Nat) (b : Nat) (km : Nat) (cond : VCond)
  /-- R152: v.abs. -/
  | vAbs (d : Nat) (a : Nat) (km : Nat)
  /-- R152: v.neg. -/
  | vNeg (d : Nat) (a : Nat) (km : Nat)
  /-- R152: v.not. -/
  | vNot (d : Nat) (a : Nat) (km : Nat)
  /-- R152: v.sqrt. -/
  | vSqrt (d : Nat) (a : Nat) (km : Nat)
  /-- R152: v.exp2. -/
  | vExp2 (d : Nat) (a : Nat) (km : Nat)
  /-- R152: v.log2. -/
  | vLog2 (d : Nat) (a : Nat) (km : Nat)
  /-- R153: v.cvt to tag md. -/
  | vCvt (d : Nat) (a : Nat) (km : Nat) (md : Tag)
  /-- R152: v.tag, tag becomes md. -/
  | vTag (d : Nat) (a : Nat) (km : Nat) (md : Tag)
  /-- R152: v.mov. -/
  | vMov (d : Nat) (a : Nat) (km : Nat)
  /-- R152: v.splat of x[a]. -/
  | vSplat (d : Nat) (a : Nat) (km : Nat) (md : Tag)
  /-- R161: vr.sum. -/
  | vrSum (d : Nat) (a : Nat) (km : Nat)
  /-- R161: vr.max. -/
  | vrMax (d : Nat) (a : Nat) (km : Nat)
  /-- R161: vr.min. -/
  | vrMin (d : Nat) (a : Nat) (km : Nat)
  /-- R161: vr.and. -/
  | vrAnd (d : Nat) (a : Nat) (km : Nat)
  /-- R161: vr.or. -/
  | vrOr (d : Nat) (a : Nat) (km : Nat)
  /-- R172: k.and. -/
  | kAnd (d : Nat) (a : Nat) (b : Nat)
  /-- R172: k.or. -/
  | kOr (d : Nat) (a : Nat) (b : Nat)
  /-- R172: k.xor. -/
  | kXor (d : Nat) (a : Nat) (b : Nat)
  /-- R172: k.andn. -/
  | kAndn (d : Nat) (a : Nat) (b : Nat)
  /-- R172: k.not. -/
  | kNot (d : Nat) (a : Nat)
  /-- R172: k.mov. -/
  | kMov (d : Nat) (a : Nat)
  /-- R172: k.while x[a], x[b]. -/
  | kWhile (d : Nat) (a : Nat) (b : Nat)
  /-- R172: k.brka. -/
  | kBrka (d : Nat) (a : Nat)
  /-- R172: k.brkb. -/
  | kBrkb (d : Nat) (a : Nat)
  /-- R173: k.cnt to x[d]. -/
  | kCnt (d : Nat) (a : Nat)
  /-- R173: k.first to x[d]. -/
  | kFirst (d : Nat) (a : Nat)
  /-- R163: vld.un. -/
  | vldUn (d : Nat) (a : Nat) (km : Nat) (fmt : Fmt)
  /-- R163: vld.sd with byte stride x[b]. -/
  | vldSd (d : Nat) (a : Nat) (b : Nat) (km : Nat) (fmt : Fmt)
  /-- R163: vld.x with indices v[b]. -/
  | vldX (d : Nat) (a : Nat) (b : Nat) (km : Nat) (fmt : Fmt)
  /-- R167: vld.sm from stream a. -/
  | vldSm (d : Nat) (a : Nat) (km : Nat)
  /-- R209: qld.un. -/
  | qldUn (d : Nat) (a : Nat) (km : Nat)
  /-- R209: qld.sd with byte stride x[b]. -/
  | qldSd (d : Nat) (a : Nat) (b : Nat) (km : Nat)
  /-- R252: vst.un. -/
  | vstUn (d : Nat) (a : Nat) (km : Nat) (fmt : Fmt)
  /-- R252: vst.sd with byte stride x[b]. -/
  | vstSd (d : Nat) (a : Nat) (b : Nat) (km : Nat) (fmt : Fmt)
  /-- R256: vst.x with indices v[b]. -/
  | vstX (d : Nat) (a : Nat) (b : Nat) (km : Nat) (fmt : Fmt)
  /-- R257: vst.xa, formats s32, n32, f32. -/
  | vstXa (d : Nat) (a : Nat) (b : Nat) (km : Nat) (fmt : Fmt)
  /-- R255: vst.sm to stream a. -/
  | vstSm (d : Nat) (a : Nat) (km : Nat)
  /-- R254: vst.qun. -/
  | vstQun (d : Nat) (a : Nat) (km : Nat)
  /-- R254: vst.qsd with byte stride x[b]. -/
  | vstQsd (d : Nat) (a : Nat) (b : Nat) (km : Nat)
  /-- R260: vam.add. -/
  | vamAdd (d : Nat) (a : Nat) (b : Nat) (km : Nat)
  /-- R260: vam.min. -/
  | vamMin (d : Nat) (a : Nat) (b : Nat) (km : Nat)
  /-- R260: vam.max. -/
  | vamMax (d : Nat) (a : Nat) (b : Nat) (km : Nat)
  /-- R260: vam.and. -/
  | vamAnd (d : Nat) (a : Nat) (b : Nat) (km : Nat)
  /-- R260: vam.or. -/
  | vamOr (d : Nat) (a : Nat) (b : Nat) (km : Nat)
  /-- R260: vam.xor. -/
  | vamXor (d : Nat) (a : Nat) (b : Nat) (km : Nat)
  /-- R260: vam.swap. -/
  | vamSwap (d : Nat) (a : Nat) (b : Nat) (km : Nat)
  /-- R182: s.bind. -/
  | sBind (d : Nat) (a : Nat)
  /-- R184: s.rel. -/
  | sRel (d : Nat)
  /-- R185: s.skip. -/
  | sSkip (d : Nat) (a : Nat)
  /-- R185: s.pos. -/
  | sPos (d : Nat) (a : Nat)
  /-- R199, R202: q.add, contractor if c. -/
  | qAdd (d : Nat) (a : Nat) (b : Nat) (c : Bool)
  /-- R199, R202: q.sub, contractor if c. -/
  | qSub (d : Nat) (a : Nat) (b : Nat) (c : Bool)
  /-- R199, R202: q.mul, contractor if c. -/
  | qMul (d : Nat) (a : Nat) (b : Nat) (c : Bool)
  /-- R199, R202: q.div, contractor if c. -/
  | qDiv (d : Nat) (a : Nat) (b : Nat) (c : Bool)
  /-- R199, R202: q.sqr, contractor if c. -/
  | qSqr (d : Nat) (a : Nat) (c : Bool)
  /-- R199, R202: q.sqrt, contractor if c. -/
  | qSqrt (d : Nat) (a : Nat) (c : Bool)
  /-- R199, R202: q.exp, contractor if c. -/
  | qExp (d : Nat) (a : Nat) (c : Bool)
  /-- R199, R202: q.log, contractor if c. -/
  | qLog (d : Nat) (a : Nat) (c : Bool)
  /-- R199, R202: q.min, contractor if c. -/
  | qMin (d : Nat) (a : Nat) (b : Nat) (c : Bool)
  /-- R199, R202: q.max, contractor if c. -/
  | qMax (d : Nat) (a : Nat) (b : Nat) (c : Bool)
  /-- R201: q.hull. -/
  | qHull (d : Nat) (a : Nat) (b : Nat)
  /-- R201: q.meet. -/
  | qMeet (d : Nat) (a : Nat) (b : Nat)
  /-- R207: q.split. -/
  | qSplit (d : Nat) (a : Nat)
  /-- R208: q.cmp to masks d, d + 1. -/
  | qCmp (d : Nat) (a : Nat) (b : Nat) (cond : QCond)
  /-- R205: q.mk. -/
  | qMk (d : Nat) (a : Nat) (b : Nat)
  /-- R205: q.pt. -/
  | qPt (d : Nat) (a : Nat)
  /-- R206: q.lo. -/
  | qLo (d : Nat) (a : Nat)
  /-- R206: q.hi. -/
  | qHi (d : Nat) (a : Nat)
  /-- R206: q.wid. -/
  | qWid (d : Nat) (a : Nat)
  /-- R206: q.mid. -/
  | qMid (d : Nat) (a : Nat)
  /-- R200, R202: q.axpy, contractor if c. -/
  | qAxpy (d : Nat) (a : Nat) (b : Nat) (w : Nat) (c : Bool)
  /-- R215: m.cfg. -/
  | mCfg (a : Nat)
  /-- R222: m.zero. -/
  | mZero (d : Nat)
  /-- R218: m.op. -/
  | mOp (d : Nat) (a : Nat) (b : Nat) (pp : Nat)
  /-- R218, R220: m.opc. -/
  | mOpc (d : Nat) (a : Nat) (b : Nat) (pp : Nat)
  /-- R229: m.ops, tile at x[a]. -/
  | mOps (d : Nat) (a : Nat) (b : Nat) (pp : Nat)
  /-- R230: m.prep. -/
  | mPrep (a : Nat)
  /-- R222: m.st. -/
  | mSt (d : Nat) (a : Nat)
  /-- R222: m.ld. -/
  | mLd (d : Nat) (a : Nat)
  /-- R234: m.inv. -/
  | mInv (a : Nat) (b : Nat)
  /-- R306: e.cpy. -/
  | eCpy (d : Nat) (a : Nat)
  /-- R306: e.wsl. -/
  | eWsl (d : Nat) (a : Nat)
  /-- R306: e.put. -/
  | ePut (d : Nat) (a : Nat)
  /-- R306: e.get. -/
  | eGet (d : Nat) (a : Nat)
  /-- R306: e.red. -/
  | eRed (d : Nat) (a : Nat)
  /-- R309: e.wait. -/
  | eWait (d : Nat) (a : Nat)
  /-- R51: a word of major 0x01, a no-op. -/
  | hint (h : BitVec 26)
  /-- R51: a word of majors 0x30 to 0x3B. -/
  | emulate (w : Nat)
  /-- R51: a word that is no instruction. -/
  | illegalWord (w : Nat)
  /-- R367: window command, vector state to VAREA. -/
  | vsave (core : Nat)
  /-- R367: window command, vector state from VAREA. -/
  | vload (core : Nat)
  /-- R367: window command, vector state to zero. -/
  | vclear (core : Nat)
  /-- R367: window command, tile state to TAREA. -/
  | tsave (core : Nat)
  /-- R367: window command, tile state from TAREA. -/
  | tload (core : Nat)
  /-- R367: window command, tile enable. -/
  | tenable (core : Nat)
  /-- R367: window command, tile disable. -/
  | tdisable (core : Nat)
  /-- R367: a window command ends. -/
  | windowCommandDone (core : Nat)
  /-- R398: QUIET is set once every context is saved. -/
  | recoveryQuiet (part : Nat)
  /-- R399: recovery command save. -/
  | recoverySave (part : Nat)
  /-- R399: recovery command restore. -/
  | recoveryRestore (part : Nat)
  /-- R399: a recovery command finishes. -/
  | recoveryCommandDone (part : Nat)
  /-- R339: a draining resource becomes offline. -/
  | resourceDrained (res : Res)
  /-- R34, R35: the surveyor requests pre-emption of a core, to make room for a region. -/
  | preemptRequest (core : Nat) (forReg : Nat)
  /-- R347, R348, R349: the surveyor tries the ready set of a partition. -/
  | placement (part : Nat)
  /-- R299: an engine command begins. -/
  | engineCommandStart (cluster : Nat) (idx : Nat)
  /-- R304: an engine command completes. -/
  | engineCommandComplete (cluster : Nat) (idx : Nat)
  /-- R228: a heddle compile finishes. -/
  | patternCompileDone (cluster : Nat) (idx : Nat)
  /-- R281: a translation invalidation is acknowledged. -/
  | invalidationAck (hub : Nat)
  /-- R352: a gang crew starts late on its cluster. -/
  | gangLateStart (part : Nat) (gang : Nat) (crew : Nat)
  /-- R189, R190: a stream translates ahead. -/
  | streamTranslateAhead (core : Nat) (sr : Nat)
  /-- R36: the surveyor re-grants a hart's lanes. -/
  | regrantRequest (core : Nat) (lanes : Nat) (base : Nat) (forReg : Nat)
  /-- R351: the surveyor raises a hart's grant. -/
  | laneRegrantRaise (core : Nat) (lanes : Nat) (base : Nat)
  /-- R289: a reply is written to its register. -/
  | replyWrite (core : Nat)
  /-- R34: 2,048 cycles after a request the core is stopped in place. -/
  | preemptFallback (core : Nat)
  /-- R345: a budget period starts. -/
  | budgetPeriodStart
  /-- R352: pre-emption of the occupants before a slice. -/
  | gangPreempt (part : Nat) (gang : Nat)
  /-- R352: a slice starts. -/
  | gangSliceStart (part : Nat) (gang : Nat)
  /-- R352: a slice ends. -/
  | gangSliceEnd (part : Nat) (gang : Nat)
  /-- R242: the refresh of the next bank of a die begins. -/
  | refreshStart (die : Nat)
  /-- R242: the refresh of a bank ends. -/
  | refreshEnd (die : Nat)
  /-- R261: y.wait reads its word again. -/
  | waitReread (core : Nat)
  /-- R291: a waiting pop proceeds. -/
  | tokenPopResume (core : Nat)
  /-- R291: a waiting push proceeds. -/
  | tokenPushResume (core : Nat)
  /-- R294: every participant of the crew's barrier continues. -/
  | barrierRelease (core : Nat)
  /-- R295: a core waiting in y.end ends. -/
  | endComplete (core : Nat)
  /-- R287, R288: a stalled dispatch proceeds; the oldest held instruction retires. -/
  | dispatchResume (core : Nat)
  /-- R309: e.wait completes. -/
  | eWaitDone (core : Nat)
  /-- R188: a read stream reads ahead. -/
  | streamReadAhead (core : Nat) (sr : Nat)
  /-- R376: a hub hart takes a pending interrupt. -/
  | interruptTake (hub : Nat)
  /-- R365: an 8-byte write to a trap-window field. -/
  | windowFieldWrite (core : Nat) (off : Nat) (val : BitVec 64)
  /-- R339: a write to the plat or an attach table by a level of a partition. -/
  | platWrite (level : Level) (part : Option Nat) (addr : Nat) (size : Nat) (val : BitVec 64)
  /-- R340: firmware scrubs and frees a resource. -/
  | firmwareScrub (res : Res)
  /-- R357: a write to SEL. -/
  | budgetSnapshot (part : Nat) (regid : BitVec 64)
  /-- R398: a write to HOLD. -/
  | recoveryHold (part : Nat) (hold : Bool)
  /-- R6: a write to a device register with no row of its own. -/
  | deviceRegisterWrite (level : Level) (part : Option Nat) (addr : Nat) (size : Nat) (val : BitVec 64)
  /-- R390: a posted host write into VF BAR0. -/
  | hostWrite (vf : Nat) (off : Nat) (size : Nat) (val : BitVec 64)
  /-- R390: a host read of VF BAR0. -/
  | hostRead (vf : Nat) (off : Nat) (size : Nat)
  /-- R391: Function Level Reset of a VF. -/
  | vfFlr (vf : Nat)
  /-- R391: Function Level Reset of the PF. -/
  | pfFlr
  /-- R404: package reset and boot. -/
  | packageReset
  /-- R406: an attestation request with a nonce. -/
  | attestationRequest (nonce : BitVec 256)
  /-- R408: the mailbox sets PL. -/
  | powerCapSet (watts : Nat)
  /-- R393: a flit of a loom port fails its CRC and is resent. -/
  | flitResend (port : Nat)
  /-- R396: a time message arrives, over Ethernet or loom. -/
  | timeMessage (offs : BitVec 32) (eth : Bool)
  /-- R408, R410: firmware adjusts the duty on the measured power and temperature. -/
  | throttleAdjust (watts : Nat) (celsius : Nat)
  /-- R409: a junction reaches 115 degrees. -/
  | thermalTrip
  /-- R409: issue resumes. -/
  | tripEnd
  /-- R359: firmware rewrites the health fields of a die. -/
  | healthUpdate (die : Nat) (drift : BitVec 32) (margin : BitVec 16) (eye0 : BitVec 16) (eye1 : BitVec 16) (eol : BitVec 32)
  /-- R308: the element traffic of a peer's command arrives. -/
  | fabricRequestReceive (req : FabricReq)
  /-- R405: the recovery mailbox accepts a new image. -/
  | recoveryImageLoad (image : Nat)
  /-- R405: firmware raises a fused minimum. -/
  | securityVersionRaise (version : Nat)
  /-- R393: firmware retrains a port that is down. -/
  | loomPortRetrain (port : Nat)
deriving DecidableEq, Repr

end Sys2Proof
end

