-- ==== Sys2Proof/Machine/State.lean ====
section
/-!
DEFINITION. State.lean: everything the manual gives the machine to remember, as plain data, and the machine right
after package reset. One home for each register; the operations that read and write them are in Ops.lean. Cores are
numbered: slot s of cluster c is core 9c + s (slot 8 is the treadle, R118, R363), hub hart n is core 7200 + n.
-/

namespace Sys2Proof.Machine

/-! ## Streams (spec/07_masks_streams.md R178 to R192) -/

/-- The State field of a stream register (R178). -/
inductive StreamState | unbound | read | write
deriving DecidableEq, Repr

/-- A stream descriptor as s.bind copied it (R179). -/
structure Desc where
  base : Word
  sbase : Word
  scope : Nat
  cls : Nat
  ndim : Nat
  scratch : Bool
  scaled : Bool
  fmt : Fmt
  counts : List Nat
  strides : List Int
deriving DecidableEq, Repr

/-- One element held ahead: its index, its code in the stream's format, its scale code, and the runs of memory they were
read from (R188). -/
structure Ahead where
  index : Nat
  code : Nat
  scale : Nat
  runs : List (Nat × Nat)
deriving DecidableEq, Repr

/-- A stream register: state, descriptor and position (R178), the address its descriptor was bound from (R313), the
pages noticed in this binding (R190), and the elements held ahead (R188). -/
structure Stream where
  state : StreamState
  desc : Desc
  pos : Nat
  addr : Word
  noticed : List Nat
  ahead : List Ahead
deriving DecidableEq, Repr

/-! ## Cores -/

/-- The strip registers: vl, vg, vff, vfs, vfl, G on a hart and kl, kg, kff, kfs, kfl on a treadle, with vclamp or
kclamp, and the treadle's kpos (spec/05_scalar_control.md R110, R131; spec/09_tiles.md R213). -/
structure Strip where
  len : Half
  granted : Half
  ff : Half
  fs : Half
  floor : Half
  clamp : Half
  gran : Nat
  kpos : Half
deriving DecidableEq, Repr

/-- The mode and status registers: vcfg, vstat (tstat on a treadle), qthr, qstat (R112, R113, R115, R116). -/
structure Modes where
  vcfg : Half
  stat : Half
  qthr : Half
  qstat : Half
deriving DecidableEq, Repr

/-- The vector, mask and interval registers (R140, R169, R193). Element i of register r has key 512 r + i; an interval
element is hi in bits 63:32 and lo in bits 31:0. -/
structure Vec where
  elems : Tbl Half
  tags : Tbl Tag
  masks : Tbl Bool
  pairs : Tbl Word
deriving DecidableEq, Repr

/-- Identity and grant: asid, regid, the halves of crewid, the hart's index in its crew (8 for a treadle), and the
fields of vlanes (R117, R118, R290). -/
structure Ident where
  asid : BitVec 16
  regid : Half
  crew : BitVec 16
  ncrew : BitVec 16
  hidx : Nat
  lanes : Nat
  base : Nat
deriving DecidableEq, Repr

/-- The KIND field of a trap window (spec/16_events.md R364). -/
inductive StopKind | running | lead | tail | hstop
deriving DecidableEq, Repr

/-- The fields of a trap window that are not registers of the core (R363, R364); newPc is a new value written to PC since
the stop (R374). -/
structure Window where
  kind : StopKind
  cause : Nat
  latch : Bool
  tval : Word
  prog : Nat
  ctx : BitVec 16
  vown : BitVec 16
  cmd : Nat
  cmdstat : Nat
  varea : Word
  tarea : Word
  newPc : Option Word
deriving DecidableEq, Repr

/-- What an instruction that reaches the lanes or the array took when it issued (R144, R146): the strip length, the
source tags, the scalar operands, the index it starts or resumes at (R26), qthr (R203) and the tile configuration
(R218); queued says that it was dispatched into the core's queue and has not started, so that its tags and configuration
are those the instructions before it leave (R287); io says that an element it has performed raises the floor (R164, R253). -/
structure Issue where
  n : Nat
  ta : Tag
  tb : Tag
  td : Tag
  xa : Word
  xb : Word
  xc : Word
  start : Nat
  qthr : Half
  cfg : Half
  queued : Bool
  io : Bool
deriving DecidableEq, Repr

/-- An instruction that stands in a core's queue (R287, R288), held there while the core is stopped (R361). -/
structure Held where
  instr : Instr
  issue : Issue
  pc : Word
deriving DecidableEq, Repr

/-- A reserved reply slot (R289): the register and the value to write. -/
structure Reply where
  reg : Nat
  value : Word
deriving DecidableEq, Repr

/-- A rider that waits for its carrier (R54, R55): its address and fields, and whether its pop has been performed. -/
structure Rider where
  pc : Word
  word : Nat
  pop : Option Nat
  push : Option Nat
  cls : Option Nat
  popped : Bool
deriving DecidableEq, Repr

/-- A pending pre-emption (R34): the row boundary the strip shortens to, if there is one below its length, and the
region the core makes room for (R315). -/
structure Preempt where
  bound : Option Nat
  forReg : Nat
deriving DecidableEq, Repr

/-- A re-grant that waits for the next length instruction (R36). -/
structure Regrant where
  lanes : Nat
  base : Nat
deriving DecidableEq, Repr

/-- One set of hub hart trap registers: cause, epc, tval, vec, stat (R110, R368). -/
structure TrapRegs where
  cause : Word
  epc : Word
  tval : Word
  vec : Word
  stat : Word
deriving DecidableEq, Repr

/-- A line of an L1D: its number (memory key div 64) and its bytes as they were when it was filled (R247). -/
structure Line where
  key : Nat
  bytes : List Byte
deriving DecidableEq, Repr

/-- A register of a core that SECDED cannot correct (R401): a scalar register, a control register by its number, a tag, a
stream register, or an entry of the core's queues or reply slots. -/
inductive BadReg | x (r : Nat) | ctl (cn : Nat) | tag (r : Nat) | stream (r : Nat) | queue | reply
deriving DecidableEq, Repr

/-- Whether a core has a program: none placed, running (or waiting), or stopped by a trap or the supervisor (R362,
R375). -/
inductive Run | absent | running | stopped
deriving DecidableEq, Repr

/-- What a running core waits for before its next instruction can go on; not a stop condition (R261, R276, R289,
R291, R294, R295, R298, R309, R346, R243, R281). -/
inductive Wait
  | none | pop | push | word | barrier | ending | engine | queue | budget | service | dispatch | inval | wsclose | compile
deriving DecidableEq, Repr

/-- A core: a cluster hart, a treadle or a hub hart. badRegs are the registers that cannot be corrected (R401). requested
is a pre-emption request that waits for the end of a thermal trip, with the region it makes room for (R409); released
says that the hart has executed ln.rel, so that its grant is 0 until it ends (R14); services is the number of its fault
services that a spent budget holds, until which have been charged it issues nothing (R346). -/
structure Core where
  run : Run
  wait : Wait
  level : Level
  pc : Word
  x : Tbl Word
  strip : Strip
  modes : Modes
  vec : Vec
  streams : Tbl Stream
  ident : Ident
  instret : Word
  ticket : Half
  win : Window
  rider : Option Rider
  push : Option Nat
  resume : Option Issue
  preempt : Option Preempt
  requested : Option Nat
  regrant : Option Regrant
  held : List Held
  replies : List Reply
  trapS : TrapRegs
  trapH : TrapRegs
  trapM : TrapRegs
  l1d : List Line
  events : Tbl Word
  arrived : Bool
  badRegs : List BadReg
  released : Bool
  services : Nat
deriving DecidableEq, Repr

/-! ## Clusters -/

/-- What the heddle keeps of a compiled pattern tile (spec/09_tiles.md R228): the key, the extent, the format, the
bitmap rows, and whether it is dense. -/
structure Pattern where
  part : Nat
  asid : Nat
  addr : Nat
  gen : Word
  size : Nat
  fmt : Fmt
  rows : List Word
  sched : Nat
  dense : Bool
  die : Option Nat
deriving DecidableEq, Repr

/-- A compile in flight (R228): the entry it will cache, and whether an invalidation has reached it (R232). -/
structure Compile where
  entry : Pattern
  discarded : Bool
deriving DecidableEq, Repr

/-- The engine commands (spec/12_queues.md R306). -/
inductive CmdKind | cpy | wsl | put | get | red
deriving DecidableEq, Repr

/-- A layout step (R302). -/
structure LStep where
  op : Nat
  a : Nat
  b : Nat
  p : Nat
  v0 : Nat
  v1 : Nat
  v2 : Int
deriving DecidableEq, Repr

/-- A command block as it was read at issue (R300, R301). -/
structure Block where
  src : Word
  dst : Word
  ssca : Word
  dsca : Word
  nsrc : Nat
  steps : List LStep
  push : Bool
  pid : Nat
  waitt : Bool
  dsc : Bool
  ssc : Bool
  dspace : Nat
  sspace : Nat
  op : Nat
  dfmt : Fmt
  sfmt : Fmt
  pad : Half
  scl : Nat
  dcl : Nat
  peer : Word
deriving DecidableEq, Repr

/-- A command in an engine queue (R298): its kind, issuer, ticket, block and block address, its place in the order in
which the package accepted commands (R299), whether it has started, its progress index (R305), and the hub harts whose
z.wsclose waits for it (R243). -/
structure Cmd where
  kind : CmdKind
  core : Nat
  part : Nat
  regid : Nat
  asid : Nat
  ticket : Half
  addr : Word
  block : Block
  order : Nat
  started : Bool
  prog : Nat
  awaited : List Nat
deriving DecidableEq, Repr

/-- A register slot whose parity fails (R147): file 0 for v, 1 for k, 2 and 3 for the lo and hi of q; its register,
slot index and lane (32 is the XOR lane). -/
structure BadSlot where
  file : Nat
  reg : Nat
  slot : Nat
  lane : Nat
deriving DecidableEq, Repr

/-- A cluster: the tile state of its crew with a treadle (R212; element [r][c] of accumulator a has key
4096 a + 64 r + c), the elements with an error that SECDED cannot correct and those with one it can (R212), its token
FIFOs (R290; FIFO id of the crew of region g has key 32 g + id), engine queue, heddle, event counters, failing slots. -/
structure Cluster where
  enable : Bool
  cfg : Half
  acc : Tbl Half
  badAcc : List Nat
  softAcc : List Nat
  fifos : Tbl Nat
  cmds : List Cmd
  patterns : List Pattern
  compiles : List Compile
  events : Tbl Word
  badSlots : List BadSlot
deriving DecidableEq, Repr

/-! ## Partitions -/

/-- The fields of a region control block (spec/14_regions_scheduling.md R336), with the effective values of R337 and
the budgets the region has of its own. -/
structure Rcb where
  launch : Bool
  parent : Nat
  prio : Nat
  lclass : Nat
  fpol : Nat
  asid : Nat
  fasid : Nat
  wsmask : Nat
  sroot : Nat
  needs : Nat
  budgets : List (Option Nat)
  cword : Word
  ncrew : Nat
  ssize : Nat
  tentry : Word
  hentry : List Word
  lanes : List Nat
  minlanes : List Nat
  params : Word
  data : Word
  stack : Word
  gang : Nat
  glen : Nat
  gstart : Nat
  gper : Nat
deriving DecidableEq, Repr

/-- Where a region stands: a group, a launch in the ready set, placed, or being pre-empted for a region (R347, R349). -/
inductive Phase | group | ready | placed | vacating (forReg : Nat)
deriving DecidableEq, Repr

/-- The saved context of one core (spec/16_events.md R378): its crew, its index in the crew (8 the treadle), its
registers, whether vector registers are live (R37), and its engine commands. -/
structure SavedCore where
  crew : Nat
  hidx : Nat
  core : Core
  live : Bool
  cmds : List Cmd
deriving DecidableEq, Repr

/-- What is saved with a whole crew (R292, R378): tile state and token counts by the crew's own FIFO ids; lost says that
the saved tile state cannot be corrected when it is read (R382). -/
structure SavedCrew where
  crew : Nat
  enable : Bool
  cfg : Half
  acc : Tbl Half
  badAcc : List Nat
  fifos : Tbl Nat
  lost : Bool
deriving DecidableEq, Repr

/-- A region of the region table (R335): its REGID, depth, RCB, budget counters, phase, the time and order in which it
entered the ready set, its clusters by crew, the completion value the surveyor holds (R297), its core count (R295),
whether it has been started, the crews of a gang's launch that have not (R352), and its saved contexts. -/
structure Region where
  regid : Nat
  depth : Nat
  rcb : Rcb
  used : List Nat
  phase : Phase
  order : Nat
  since : Nat
  placedAt : Nat
  clusters : List Nat
  word : Word
  cores : Nat
  started : Bool
  fresh : List Nat
  saved : List SavedCore
  savedCrews : List SavedCrew
deriving DecidableEq, Repr

/-- The budget window's snapshot (spec/15_counters.md R357). -/
structure Snapshot where
  sel : Word
  used : List Nat
  period : Nat
  own : Nat
deriving DecidableEq, Repr

/-- The recovery block (spec/17_outside.md R398), with the command in progress. -/
structure Recovery where
  hold : Bool
  quiet : Bool
  img : Word
  cmd : Nat
  stat : Nat
  size : Nat
deriving DecidableEq, Repr

/-- What a recovery image records of one cluster (R399). -/
structure ClusterImage where
  cluster : Nat
  scratch : List Host.Cell
  acc : Tbl Half
  fifos : Tbl Nat
deriving DecidableEq, Repr

/-- A recovery image (R399): the partition that saved it, its bytes, by the free value they come from and their number, and
what they hold: the region table with every saved context, and the clusters. -/
structure Image where
  part : Nat
  seed : Nat
  size : Nat
  regions : List Region
  clusters : List ClusterImage
deriving DecidableEq, Repr

/-- A gang crew's place (R352): its launch's REGID, its number, and its cluster. -/
structure GangSeat where
  regid : Nat
  crew : Nat
  cluster : Nat
deriving DecidableEq, Repr

/-- A gang (R352): its number, its current or next slice, whether the slice runs, its clusters, the crews that wait for
theirs, whether one has started late, the launches displaced for it, and those of an ended slice that have not left their
clusters yet. -/
structure Gang where
  gang : Nat
  slice : Nat
  live : Bool
  seats : List GangSeat
  waiting : List GangSeat
  late : Bool
  displaced : List Nat
  overdue : List Nat
deriving DecidableEq, Repr

/-- A plat entry (R338) with everything its partition owns in the device. -/
structure Part where
  state : Nat
  vf : Nat
  feat : Nat
  nch : Nat
  stage : Nat
  wsdies : Nat
  root : Word
  asiddir : Word
  fqcb : Word
  tqcb : Word
  cacb : Word
  map : Tbl Byte
  lbase : Word
  lsize : Word
  regions : List Region
  nextReg : Nat
  faultSeq : Nat
  cairnSeq : Nat
  readySeq : Nat
  snap : Snapshot
  recov : Recovery
  gangs : List Gang
  stopped : Bool
deriving DecidableEq, Repr

/-! ## The package -/

/-- An entry of an attach table (R338): STATE, PART and, for a cluster, HUB. -/
structure Attach where
  state : Nat
  part : Nat
  hub : Nat
deriving DecidableEq, Repr

/-- A die's refresh sequencer (spec/10_memories.md R242): the bank in refresh, or the next one. -/
structure Refresh where
  busy : Bool
  bank : Nat
deriving DecidableEq, Repr

/-- A loom port (spec/17_outside.md R393, spec/15_counters.md R358): down, resends of the present flit, and counters. -/
structure Port where
  down : Bool
  resends : Nat
  rawb : Word
  sentb : Word
  blkc : Word
  blkr : Word
deriving DecidableEq, Repr

/-- A die health block (R359). -/
structure Health where
  wscorr : Word
  wsunc : Word
  gcrc : Word
  drift : Half
  margin : BitVec 16
  eye0 : BitVec 16
  eye1 : BitVec 16
  eol : Half
  updated : Word
deriving DecidableEq, Repr

/-- The power status register (spec/18_reliability_security.md R410). -/
structure Power where
  pl : Nat
  pwr : Nat
  tj : Nat
  duty : Nat
  trips : BitVec 8
  trip : Bool
deriving DecidableEq, Repr

/-- The time base (R396): time in ns, the two clock counts (R119), and the time status register. -/
structure Clock where
  time : Nat
  cycleWeave : Nat
  cycleHub : Nat
  offs : Half
  src : Bool
  lock : Bool
deriving DecidableEq, Repr

/-- A report in the PF management mailbox (R397, R402, R387): of an uncorrectable word of memory, or of a register slot or
accumulator element of a cluster (7200 and above: of a core); of a Function Level Reset of a VF, or of the PF. -/
inductive Report
  | portDown (port : Nat) | uncorrectable (addr : Nat) | badRegister (cluster : Nat) | partitionStop (part : Nat)
  | flr (vf : Option Nat) | trip
  | attestation (nonce : BitVec 256) (meas : List (BitVec 384)) (versions : List Nat) (plat : List (Nat × Nat × Nat))
      (ecdsa : BitVec 768) (lms : BitVec 768)
  | refusedAttestation | imageAccepted (image : Nat) | imageRefused (image : Nat)
deriving DecidableEq, Repr

/-- Firmware and the root of trust (R404 to R406): the images in the two slots and the hypervisor's, each by a number
that stands for its contents, the running firmware image (none before it runs and in recovery), whether the ROM waits for
a recovery image, the fused minimum security version, the measurement registers, and the leaf counters of the two LMS
trees. -/
structure Firmware where
  slotA : Nat
  slotB : Nat
  hypervisor : Nat
  running : Option Nat
  recovery : Bool
  minVersion : Nat
  meas : List (BitVec 384)
  lowerLeaf : Nat
  upperLeaf : Nat
deriving DecidableEq, Repr

/-- The state of the package outside its cores, clusters and partitions. areas holds, by memory key, where VSAVE has
written, with the held instructions it wrote there (R381). images are the recovery images saved so far, newest first, by
whichever partition; an image is where its bytes stand (R399). badWords and softWords are the 16-byte words of memory, by key
div 16, with an error that cannot, and that can, be corrected (R401); linkFails counts, by channel, the CRC failures in a
row that the next transfer of its GDDR-7 link meets (R401); pfOut are the MSI-X messages of the PF (R397); accepted is the
number of engine commands accepted so far, the order of R299. -/
structure Hub where
  clusterAtt : Tbl Attach
  hubAtt : Tbl Attach
  chanAtt : Tbl Attach
  windows : Tbl Bool
  refresh : Tbl Refresh
  ports : Tbl Port
  health : Tbl Health
  power : Power
  clock : Clock
  mailbox : List Report
  firmware : Firmware
  pkg : Nat
  badWords : List Nat
  softWords : List Nat
  linkFails : Tbl Nat
  pfOut : Nat
  accepted : Nat
  areas : Tbl (List Held)
  images : List Image
deriving DecidableEq, Repr

/-- A held translation (spec/13_translation.md R316, R326): what holds it (a core's own TLB by the core's number, a
cluster's as 10000 + cluster, stream i of a core as 20000 + 16 core + i), its partition and ASID, the page it maps, of
128 KiB or, big, of 2 GiB, and the leaf's frame and attribute bits. -/
structure TlbEntry where
  holder : Nat
  part : Nat
  asid : Nat
  big : Bool
  page : Nat
  frame : Nat
  attrs : Nat
deriving DecidableEq, Repr

/-- An entry of a die's walk cache (R316, R326; die 8 is the hub die): the table that a directory entry (level 0) or a
non-leaf entry leads to, for the addresses whose bits 56:45 (level 1) or 56:31 (level 2) are prefix. -/
structure WalkEntry where
  die : Nat
  part : Nat
  asid : Nat
  level : Nat
  pre : Nat
  table : Nat
deriving DecidableEq, Repr

/-- A request that left through the host window (R389): a write with its value, or a read. -/
structure HostMsg where
  write : Bool
  vf : Nat
  addr : Nat
  size : Nat
  val : Word
deriving DecidableEq, Repr

/-- How a host access to a VF BAR ended (R388, R390, R402): a read's data, Unsupported Request, or Completer Abort. -/
inductive HostAns | data (vf off size val : Nat) | unsupported (vf off : Nat) | abort (vf off : Nat)
deriving DecidableEq, Repr

/-- What left for a peer package (R308): an element of a command, for a virtual address or a scratchpad offset of a
cluster there; or the answer to a peer's command: the elements applied, the cause, and the values read. -/
inductive FabMsg
  | element (peer : Word) (kind : CmdKind) (scratch : Option Nat) (addr : Nat) (fmt : Fmt) (op val : Nat)
  | answer (count cause : Nat) (data : List Nat)
deriving DecidableEq, Repr

/-- What orders an access among those of its core: its path (R262), its class (R264), and the stream it is of, 16 for none
(R182). -/
structure Key where
  path : Nat
  cls : Nat
  stream : Nat
deriving DecidableEq, Repr

/-- An instruction that has issued and whose accesses have not taken effect (R269): the instruction, its core as it issued,
and the pattern that its lookup found (R229). -/
structure Redo where
  instr : Instr
  core : Core
  pattern : Option Pattern
deriving DecidableEq, Repr

/-- A write to memory that has not performed (R265): its core, the partition, ASID and virtual address it was made with, the
runs of memory, and their bytes. -/
structure Store where
  core : Nat
  part : Nat
  asid : Nat
  va : Nat
  runs : List (Nat × Nat)
  bytes : List Byte
deriving DecidableEq, Repr

/-- What waits: a write; the accesses of an instruction; or nothing, but an order (R182, R276): of the accesses before it on
paths pre in classes preCls, and those after it on paths post in classes postCls, of one stream where it names one. -/
inductive Pending
  | write (w : Store)
  | owed (r : Redo)
  | fence (pre preCls post postCls : List Nat) (stream : Option Nat)
deriving DecidableEq, Repr

/-- An entry among the accesses of a core that have not taken effect (R269): the core, its count of retired instructions
when the instruction issued, the keys of the accesses, and what waits. -/
structure Late where
  core : Nat
  seq : Word
  keys : List Key
  act : Pending
deriving DecidableEq, Repr

/-- How the accesses of a turn are made (R269): writes are put off, and what is read counts for nothing; or they take effect
as their core sees it, of an instruction that issues now, or of one that issued before. -/
inductive LagMode | defer | now | again
deriving DecidableEq, Repr

/-- What holds within a turn whose accesses need not take effect in program order (R269): their keys, how they are made, and
whether one has been made that may not wait (to an I/O page, the host or a device register). -/
structure Lag where
  keys : List Key
  mode : LagMode
  fixed : Bool
deriving DecidableEq, Repr

/-- Who moves next: a core; an event of the opcode table; the front end of a core, which dispatches one more instruction
into its queue (R287); a core whose accesses need not take effect yet (R269); the accesses at a place in State.late, which
take effect as their core sees it; or the write at a place in State.stores, which performs. -/
inductive Turn
  | core (n : Nat) | event (i : Instr) | ahead (n : Nat) | lag (n : Nat) | effect (k : Nat) | perform (k : Nat)
deriving DecidableEq, Repr

/-- The state of a Tolisk 9 package. late holds the accesses that have not taken effect, in program order (R269); stores holds
the writes that have taken effect as their core sees it and have not performed, in that order (R265, R268). cur, agenda,
free and lag are the model's own: the core whose turn it is, the turns that come next, the number of free values used so
far, and, only within a turn whose accesses need not take effect in program order, what holds of them. -/
structure State where
  cur : Nat
  agenda : List Turn
  free : Nat
  cores : Tbl Core
  clusters : Tbl Cluster
  parts : Tbl Part
  mem : List Host.Cell
  hub : Hub
  tlb : List TlbEntry
  walks : List WalkEntry
  late : List Late
  stores : List Store
  lag : Option Lag
  hostOut : List HostMsg
  hostAns : List HostAns
  fabOut : List FabMsg
deriving DecidableEq, Repr

/-- Why the machine stops. idle: no turn is due and no core of the package can run; raised by step alone; safe, the
hardware would wait for an event from outside. -/
inductive Fault | idle
deriving DecidableEq, Repr

/-- Why the model has no meaning. notModelled: an instruction whose meaning is not written; raised by exec's arms
alone; safe, no claim about it can be proved. -/
inductive Refusal | notModelled (mnemonic : String)
deriving DecidableEq, Repr

/-! ## Reset values -/

/-- An unbound stream register (R178). DESIGN CHOICE: the descriptor, for which no reset value is given, is zero. -/
def Stream.reset : Stream :=
  ⟨.unbound, ⟨0, 0, 0, 0, 0, false, false, .s8, [0, 0, 0, 0], [0, 0, 0, 0]⟩, 0, 0, [], []⟩

/-- The strip registers of a hart or hub hart at start (R110). -/
def Strip.hart : Strip := ⟨0, 0, 0, 0, 0, 512, 1, 0⟩

/-- The strip registers of a treadle at start (R110, R131). -/
def Strip.treadle : Strip := ⟨0, 0, 0, 0, 0, 0xFFFFFFFF, 8, 0⟩

/-- The mode registers at start (R110, R112, R113, R115, R116). -/
def Modes.reset : Modes := ⟨0x00002000, 0, 0x3E000000, 0⟩

/-- Vector, mask and interval registers of a starting hart (R145, R170, R194). -/
def Vec.reset : Vec := ⟨[], [], [], []⟩

/-- A trap window that holds no stop (R363, R364). -/
def Window.reset : Window := ⟨.running, 0, false, 0, 0, 0, 0, 0, 0, 0, 0, none⟩

/-- Trap registers at reset (R110). -/
def TrapRegs.reset : TrapRegs := ⟨0, 0, 0, 0, 0⟩

/-- A core with no program: every register at its reset value. DESIGN CHOICE: asid, regid and crewid, set at
placement, are zero before. -/
def Core.absent : Core where
  run := .absent
  wait := .none
  level := .u
  pc := 0
  x := []
  strip := Strip.hart
  modes := Modes.reset
  vec := Vec.reset
  streams := []
  ident := ⟨0, 0, 0, 0, 0, 0, 0⟩
  instret := 0
  ticket := 0
  win := Window.reset
  rider := none
  push := none
  resume := none
  preempt := none
  requested := none
  regrant := none
  held := []
  replies := []
  trapS := TrapRegs.reset
  trapH := TrapRegs.reset
  trapM := TrapRegs.reset
  l1d := []
  events := []
  arrived := false
  badRegs := []
  released := false
  services := 0

/-- A treadle with no program. -/
def Core.absentTreadle : Core :=
  { Core.absent with strip := Strip.treadle, ident := ⟨0, 0, 0, 0, 8, 0, 0⟩ }

/-- A scrubbed core (R340): every register zero. -/
def Core.scrubbed : Core := { Core.absent with strip := ⟨0, 0, 0, 0, 0, 0, 0, 0⟩, modes := ⟨0, 0, 0, 0⟩ }

/-- A cluster at package reset (R212): DESIGN CHOICE, accumulators, given only at tile enable, are zero before. -/
def Cluster.reset : Cluster := ⟨false, 0x00003F3F, [], [], [], [], [], [], [], [], []⟩

/-- A scrubbed cluster (R340): every register zero. -/
def Cluster.scrubbed : Cluster := { Cluster.reset with cfg := 0 }

/-- A recovery block at reset; DESIGN CHOICE, the manual gives no reset values. -/
def Recovery.reset : Recovery := ⟨false, false, 0, 0, 0, 0⟩

/-- A free plat entry (R335). -/
def Part.free : Part where
  state := 0
  vf := 0
  feat := 0
  nch := 0
  stage := 0
  wsdies := 0
  root := 0
  asiddir := 0
  fqcb := 0
  tqcb := 0
  cacb := 0
  map := []
  lbase := 0
  lsize := 0
  regions := []
  nextReg := 1
  faultSeq := 0
  cairnSeq := 0
  readySeq := 0
  snap := ⟨0, [0, 0, 0, 0, 0], 0, 0⟩
  recov := Recovery.reset
  gangs := []
  stopped := false

/-- An unassigned resource (R338). -/
def Attach.none : Attach := ⟨0, 0, 0⟩

/-- A loom port at package reset (R353, R393). -/
def Port.reset : Port := ⟨false, 0, 0, 0, 0, 0⟩

/-- A die health block at package reset (R353). -/
def Health.reset : Health := ⟨0, 0, 0, 0, 0, 0, 0, 0, 0⟩

/-- The power status register at reset (R410). -/
def Power.reset : Power := ⟨2400, 0, 0, 8, 0, false⟩

/-- The package outside its cores at package reset (R335, R353, R404, R406). DESIGN CHOICE: time, the security version
and the leaf counters, for which no reset value is given, are zero. No firmware runs yet. -/
def Hub.reset : Hub where
  clusterAtt := []
  hubAtt := []
  chanAtt := []
  windows := []
  refresh := []
  ports := []
  health := []
  power := Power.reset
  clock := ⟨0, 0, 0, 0, false, false⟩
  mailbox := []
  firmware := ⟨0, 1, 2, none, false, 0, [0, 0, 0, 0, 0, 0, 0, 0], 0, 0⟩
  pkg := 0
  badWords := []
  softWords := []
  linkFails := []
  pfOut := 0
  accepted := 0
  areas := []
  images := []

/-- Hub hart 0 at package reset: it runs the hub ROM at M (R404). DESIGN CHOICE: at pc 0, which the manual does not
give. -/
def Core.boot : Core := { Core.absent with run := .running, level := .m }

/-- The machine right after package reset (R404): hub hart 0 runs at M, the plat is free, nothing is placed, memory
lists nothing. -/
def State.reset : State where
  cur := 7200
  agenda := []
  free := 0
  cores := [(7200, Core.boot)]
  clusters := []
  parts := []
  mem := []
  hub := Hub.reset
  tlb := []
  walks := []
  late := []
  stores := []
  lag := none
  hostOut := []
  hostAns := []
  fabOut := []

end Sys2Proof.Machine
end

