-- ==== Sys2Proof/Config.lean ====
section
/-!
DEFINITION. Config.lean: what the manual leaves open, as constants without a body. A free value is one of these
functions applied to State.free, the number of free values used so far, or to the operands it depends on; nothing can
be proved about it but what holds for every value.
-/

namespace Sys2Proof.Config

/-- DESIGN CHOICE (log 11): clocks or nanoseconds that pass before a reading of a clock or of a cycle counter. -/
opaque elapsed : Nat → Nat
/-- DESIGN CHOICE (log 11): the NEXT field of wswin (R117, R242). -/
opaque refreshNext : Nat → BitVec 12
/-- DESIGN CHOICE (log 11): the LEFT field of wswin while a bank is in refresh (R117, R242). -/
opaque refreshLeft : Nat → BitVec 9
/-- DESIGN CHOICE (log 4): whether a scalar load is served from a held L1D line that memory has overtaken (R270). -/
opaque servesStale : Nat → Bool
/-- DESIGN CHOICE (log 5): which of the usable translations an access takes (R282). -/
opaque translationPick : Nat → Nat
/-- DESIGN CHOICE (log 13): what the host answers to a read through the host window (R389). -/
opaque hostReads : Nat → BitVec 64
/-- DESIGN CHOICE (log 13): whether the host ends a request with Unsupported Request or Completer Abort (R389). -/
opaque hostRefuses : Nat → Bool
/-- DESIGN CHOICE (log 13): where in the PF's BAR0 the mirror of the hub counter block lies, and what its other bytes
read as (R388). -/
opaque mirrorPlace : Nat
opaque mailboxReads : Nat → BitVec 64
/-- The mirror's base: a multiple of 8 from which its 2,560 bytes lie in the 16 MiB of BAR0 (R388, R353). -/
def mirrorBase : Nat := 8 * (mirrorPlace % 2096832)
/-- DESIGN CHOICE (log 14): what a peer package answers to an element of e.get (R308). -/
opaque peerReads : Nat → Nat
/-- DESIGN CHOICE (log 14): whether a package number is one of the system's (R308). -/
opaque inSystem : Nat → Bool
/-- DESIGN CHOICE (log 14): whether a peer package is in this one's scale-up domain (R394). -/
opaque peerInDomain : Nat → Bool
/-- DESIGN CHOICE (log 14): the cause with which a peer package ends an element and whether it wrote a record (R308). -/
opaque peerCause : Nat → Nat × Bool
/-- DESIGN CHOICE (log 15): whether an image's signatures and key hashes verify (R405). -/
opaque imageVerifies : Nat → Bool
/-- DESIGN CHOICE (log 15): an image's security version (R405). -/
opaque imageVersion : Nat → Nat
/-- DESIGN CHOICE (log 15): an image's SHA-384 digest (R405, R406). -/
opaque imageDigest : Nat → BitVec 384
/-- DESIGN CHOICE (log 15): the two attestation signatures over a nonce and the reported values (R406). -/
opaque signEcdsa : BitVec 256 → Nat → BitVec 768
opaque signLms : BitVec 256 → Nat → BitVec 768
/-- DESIGN CHOICE (log 16): the address of a tile save area that cannot be read (R382, R402). -/
opaque lostArea : Nat → Nat
/-- DESIGN CHOICE (log 2): how many of the instructions after a tail stop have been dispatched (R361). -/
opaque dispatched : Nat → Nat
/-- DESIGN CHOICE (log 2): the progress index at which a tile instruction is stopped in flight (R224). -/
opaque progress : Nat → Nat
/-- DESIGN CHOICE (log 2): the bytes of the held-instruction entries of a vector save area (R381). -/
opaque heldByte : Nat → Nat → BitVec 8
/-- DESIGN CHOICE (log 2): the vector state after a VLOAD of an area VSAVE did not write (R381): the tag code of a
register, and the slots of v, k and q registers. -/
opaque undefinedTag : Nat → Nat → Nat
opaque undefinedSlot : Nat → Nat → BitVec 32
opaque undefinedMask : Nat → Nat → Bool
opaque undefinedPair : Nat → Nat → BitVec 64
/-- DESIGN CHOICE (log 24): an accumulator's element after TDISABLE (R367). -/
opaque undefinedAcc : Nat → Nat → BitVec 32
/-- DESIGN CHOICE (log 11): by how much firmware changes the duty, or sets it after a trip (R408, R409). -/
opaque dutyStep : Nat → Nat
/-- DESIGN CHOICE (log 21): the size and the bytes of a recovery image (R399). -/
opaque imageSize : Nat → Nat
opaque imageByte : Nat → Nat → BitVec 8
/-- DESIGN CHOICE (log 21): the size and the contents of a recovery image that another package saved (R399), by its first 64
bytes and by all of them; its layout is not given. -/
opaque foreignSize : List Byte → Nat
opaque foreignImage : List Byte → Option Machine.Image
end Sys2Proof.Config
end

