-- ==== Sys2Proof/WellFormed.lean ====
section
/-!
DEFINITION. WellFormed.lean: which field values an instruction accepts (spec/02_encoding.md R43 to R49, R54;
spec/07_masks_streams.md R171; spec/08_intervals.md R198, R207, R208). What depends on the core that executes it
(R47, R50, the treadle's eight streams) is checked when it issues.
-/

namespace Sys2Proof

/-- The memory formats packed below one byte, which only unit-stride forms take (R49). -/
def Fmt.packed : Fmt → Bool
  | .t6 | .e2m1 => true
  | _ => false

/-- The formats of vst.xa (R49). -/
def Fmt.addable : Fmt → Bool
  | .s32 | .n32 | .f32 => true
  | _ => false

/-- The integer kinds of f.cvt (R49). -/
def FKind.isInt : FKind → Bool
  | .s64 | .n64 | .s32 | .n32 => true
  | _ => false

/-- A mask destination, k1 to k23 (R43). -/
def maskDst (d : Nat) : Bool := decide (1 ≤ d) && decide (d ≤ 23)

/-- The mask pair of q.cmp: an even number from 2 to 22 (R208). -/
def maskPair (d : Nat) : Bool := decide (2 ≤ d) && decide (d ≤ 22) && decide (d % 2 = 0)

/-- The pointers of ln.shuttle: at most four registers from x1 to x31, no element size at or beyond np, and no
pointer register named when there is none (R49). -/
def shuttleOk (b np : Nat) (es0 es1 es2 es3 : Es) : Bool :=
  decide (np ≤ 4) &&
  (if np = 0 then decide (b = 0) else decide (1 ≤ b) && decide (b + np ≤ 32)) &&
  (decide (1 ≤ np) || decide (es0 = .b1)) && (decide (2 ≤ np) || decide (es1 = .b1)) &&
  (decide (3 ≤ np) || decide (es2 = .b1)) && (decide (4 ≤ np) || decide (es3 = .b1))

/-- The fields of ride: FIFO ids below 26, an unused field 0, and at least one request (R54). -/
def rideOk (pe : Bool) (pid : Nat) (he : Bool) (hid : Nat) (ce : Bool) (cls : Nat) : Bool :=
  decide (pid ≤ 25) && decide (hid ≤ 25) && decide (cls ≤ 15) &&
  (pe || decide (pid = 0)) && (he || decide (hid = 0)) && (ce || decide (cls = 0)) && (pe || he || ce)

/-- The field values of an instruction are ones its encoding accepts. An event has no encoding and is well-formed. -/
def WellFormed : Instr → Bool
  | .xAdd d a b _ => decide (d ≤ 31) && decide (a ≤ 31) && decide (b ≤ 31)
  | .xSub d a b _ => decide (d ≤ 31) && decide (a ≤ 31) && decide (b ≤ 31)
  | .xAnd d a b => decide (d ≤ 31) && decide (a ≤ 31) && decide (b ≤ 31)
  | .xOr d a b => decide (d ≤ 31) && decide (a ≤ 31) && decide (b ≤ 31)
  | .xXor d a b => decide (d ≤ 31) && decide (a ≤ 31) && decide (b ≤ 31)
  | .xAndn d a b => decide (d ≤ 31) && decide (a ≤ 31) && decide (b ≤ 31)
  | .xShl d a b _ => decide (d ≤ 31) && decide (a ≤ 31) && decide (b ≤ 31)
  | .xShr d a b => decide (d ≤ 31) && decide (a ≤ 31) && decide (b ≤ 31)
  | .xSar d a b => decide (d ≤ 31) && decide (a ≤ 31) && decide (b ≤ 31)
  | .xMul d a b _ => decide (d ≤ 31) && decide (a ≤ 31) && decide (b ≤ 31)
  | .xMulh d a b => decide (d ≤ 31) && decide (a ≤ 31) && decide (b ≤ 31)
  | .xMulhn d a b => decide (d ≤ 31) && decide (a ≤ 31) && decide (b ≤ 31)
  | .xDiv d a b => decide (d ≤ 31) && decide (a ≤ 31) && decide (b ≤ 31)
  | .xDivn d a b => decide (d ≤ 31) && decide (a ≤ 31) && decide (b ≤ 31)
  | .xRem d a b => decide (d ≤ 31) && decide (a ≤ 31) && decide (b ≤ 31)
  | .xRemn d a b => decide (d ≤ 31) && decide (a ≤ 31) && decide (b ≤ 31)
  | .xMin d a b => decide (d ≤ 31) && decide (a ≤ 31) && decide (b ≤ 31)
  | .xMax d a b => decide (d ≤ 31) && decide (a ≤ 31) && decide (b ≤ 31)
  | .xMinn d a b => decide (d ≤ 31) && decide (a ≤ 31) && decide (b ≤ 31)
  | .xMaxn d a b => decide (d ≤ 31) && decide (a ≤ 31) && decide (b ≤ 31)
  | .xSlt d a b => decide (d ≤ 31) && decide (a ≤ 31) && decide (b ≤ 31)
  | .xSltn d a b => decide (d ≤ 31) && decide (a ≤ 31) && decide (b ≤ 31)
  | .xSeq d a b => decide (d ≤ 31) && decide (a ≤ 31) && decide (b ≤ 31)
  | .xSel d a b => decide (d ≤ 31) && decide (a ≤ 31) && decide (b ≤ 31)
  | .xClz d a => decide (d ≤ 31) && decide (a ≤ 31)
  | .xCtz d a => decide (d ≤ 31) && decide (a ≤ 31)
  | .xPopc d a => decide (d ≤ 31) && decide (a ≤ 31)
  | .xiAdd d a _ => decide (d ≤ 31) && decide (a ≤ 31)
  | .xiAnd d a _ => decide (d ≤ 31) && decide (a ≤ 31)
  | .xiOr d a _ => decide (d ≤ 31) && decide (a ≤ 31)
  | .xiXor d a _ => decide (d ≤ 31) && decide (a ≤ 31)
  | .xiShl d a _ => decide (d ≤ 31) && decide (a ≤ 31)
  | .xiShr d a _ => decide (d ≤ 31) && decide (a ≤ 31)
  | .xiSar d a _ => decide (d ≤ 31) && decide (a ≤ 31)
  | .xiSlt d a _ => decide (d ≤ 31) && decide (a ≤ 31)
  | .xlLd d _ => decide (d ≤ 31)
  | .xlHi d _ => decide (d ≤ 31)
  | .fAdd d a b _ _ => decide (d ≤ 31) && decide (a ≤ 31) && decide (b ≤ 31)
  | .fSub d a b _ _ => decide (d ≤ 31) && decide (a ≤ 31) && decide (b ≤ 31)
  | .fMul d a b _ _ => decide (d ≤ 31) && decide (a ≤ 31) && decide (b ≤ 31)
  | .fFma d a b _ _ => decide (d ≤ 31) && decide (a ≤ 31) && decide (b ≤ 31)
  | .fDiv d a b _ _ => decide (d ≤ 31) && decide (a ≤ 31) && decide (b ≤ 31)
  | .fSqrt d a _ _ => decide (d ≤ 31) && decide (a ≤ 31)
  | .fMin d a b _ _ => decide (d ≤ 31) && decide (a ≤ 31) && decide (b ≤ 31)
  | .fMax d a b _ _ => decide (d ≤ 31) && decide (a ≤ 31) && decide (b ≤ 31)
  | .fCmp d a b _ _ => decide (d ≤ 31) && decide (a ≤ 31) && decide (b ≤ 31)
  | .fCvt d a dk sk _ => decide (d ≤ 31) && decide (a ≤ 31) && decide (dk ≠ sk) && !(dk.isInt && sk.isInt)
  | .fClass d a _ _ => decide (d ≤ 31) && decide (a ≤ 31)
  | .bEq a b _ => decide (a ≤ 31) && decide (b ≤ 31)
  | .bNe a b _ => decide (a ≤ 31) && decide (b ≤ 31)
  | .bLt a b _ => decide (a ≤ 31) && decide (b ≤ 31)
  | .bGe a b _ => decide (a ≤ 31) && decide (b ≤ 31)
  | .bLtn a b _ => decide (a ≤ 31) && decide (b ≤ 31)
  | .bGen a b _ => decide (a ≤ 31) && decide (b ≤ 31)
  | .jLink d _ => decide (d ≤ 31)
  | .jInd d a _ => decide (d ≤ 31) && decide (a ≤ 31)
  | .lnSet d a _ np _ => decide (d ≤ 31) && decide (a ≤ 31) && decide (np ≤ 4)
  | .lnShuttle d a b np _ es0 es1 es2 es3 _ => decide (d ≤ 31) && decide (a ≤ 31) && shuttleOk b np es0 es1 es2 es3
  | .lnTrim d a => decide (d ≤ 31) && decide (a ≤ 31)
  | .lnRel => true
  | .crRd d cn => decide (d ≤ 31) && decide (cn ≤ 4095)
  | .crWr d a cn => decide (d ≤ 31) && decide (a ≤ 31) && decide (cn ≤ 4095)
  | .crSet d a cn => decide (d ≤ 31) && decide (a ≤ 31) && decide (cn ≤ 4095)
  | .crClr d a cn => decide (d ≤ 31) && decide (a ≤ 31) && decide (cn ≤ 4095)
  | .ldS8 d a cls _ => decide (d ≤ 31) && decide (a ≤ 31) && decide (cls ≤ 15)
  | .ldN8 d a cls _ => decide (d ≤ 31) && decide (a ≤ 31) && decide (cls ≤ 15)
  | .ldS16 d a cls _ => decide (d ≤ 31) && decide (a ≤ 31) && decide (cls ≤ 15)
  | .ldN16 d a cls _ => decide (d ≤ 31) && decide (a ≤ 31) && decide (cls ≤ 15)
  | .ldS32 d a cls _ => decide (d ≤ 31) && decide (a ≤ 31) && decide (cls ≤ 15)
  | .ldN32 d a cls _ => decide (d ≤ 31) && decide (a ≤ 31) && decide (cls ≤ 15)
  | .ldX64 d a cls _ => decide (d ≤ 31) && decide (a ≤ 31) && decide (cls ≤ 15)
  | .stS8 d a cls _ => decide (d ≤ 31) && decide (a ≤ 31) && decide (cls ≤ 15)
  | .stS16 d a cls _ => decide (d ≤ 31) && decide (a ≤ 31) && decide (cls ≤ 15)
  | .stS32 d a cls _ => decide (d ≤ 31) && decide (a ≤ 31) && decide (cls ≤ 15)
  | .stX64 d a cls _ => decide (d ≤ 31) && decide (a ≤ 31) && decide (cls ≤ 15)
  | .amAdd d a b _ _ => decide (d ≤ 31) && decide (a ≤ 31) && decide (b ≤ 31)
  | .amAnd d a b _ _ => decide (d ≤ 31) && decide (a ≤ 31) && decide (b ≤ 31)
  | .amOr d a b _ _ => decide (d ≤ 31) && decide (a ≤ 31) && decide (b ≤ 31)
  | .amXor d a b _ _ => decide (d ≤ 31) && decide (a ≤ 31) && decide (b ≤ 31)
  | .amMax d a b _ _ => decide (d ≤ 31) && decide (a ≤ 31) && decide (b ≤ 31)
  | .amMin d a b _ _ => decide (d ≤ 31) && decide (a ≤ 31) && decide (b ≤ 31)
  | .amMaxn d a b _ _ => decide (d ≤ 31) && decide (a ≤ 31) && decide (b ≤ 31)
  | .amMinn d a b _ _ => decide (d ≤ 31) && decide (a ≤ 31) && decide (b ≤ 31)
  | .amSwap d a b _ _ => decide (d ≤ 31) && decide (a ≤ 31) && decide (b ≤ 31)
  | .amCas d a b _ _ => decide (d ≤ 31) && decide (a ≤ 31) && decide (b ≤ 31)
  | .amLd d a ord _ => decide (d ≤ 31) && decide (a ≤ 31) && !(ord == .rel || ord == .ar)
  | .amSt d a ord _ => decide (d ≤ 31) && decide (a ≤ 31) && !(ord == .acq || ord == .ar)
  | .yFence _ _ => true
  | .yXfence pa pb _ => decide (pa ≠ 0) && decide (pb ≠ 0)
  | .yBar => true
  | .yEnd => true
  | .yWait d a b => decide (d ≤ 31) && decide (a ≤ 31) && decide (b ≤ 31)
  | .ride pe pid he hid ce cls => rideOk pe pid he hid ce cls
  | .zCall => true
  | .zBrk => true
  | .zRet => true
  | .zHres d a => decide (d ≤ 31) && decide (a ≤ 31)
  | .zHstop d a => decide (d ≤ 31) && decide (a ≤ 31)
  | .zInva a => decide (a ≤ 31)
  | .zInvs a b => decide (a ≤ 31) && decide (b ≤ 31)
  | .zInvp => true
  | .zSpawn d a => decide (d ≤ 31) && decide (a ≤ 31)
  | .zKill d a b => decide (d ≤ 31) && decide (a ≤ 31) && decide (b ≤ 31)
  | .zYield => true
  | .zWsopen d a => decide (d ≤ 31) && decide (a ≤ 31)
  | .zWsclose d a => decide (d ≤ 31) && decide (a ≤ 31)
  | .vAdd d a b km _ => decide (d ≤ 63) && decide (a ≤ 63) && decide (b ≤ 63) && decide (km ≤ 23)
  | .vSub d a b km _ => decide (d ≤ 63) && decide (a ≤ 63) && decide (b ≤ 63) && decide (km ≤ 23)
  | .vMul d a b km _ => decide (d ≤ 63) && decide (a ≤ 63) && decide (b ≤ 63) && decide (km ≤ 23)
  | .vFma d a b km => decide (d ≤ 63) && decide (a ≤ 63) && decide (b ≤ 63) && decide (km ≤ 23)
  | .vFms d a b km => decide (d ≤ 63) && decide (a ≤ 63) && decide (b ≤ 63) && decide (km ≤ 23)
  | .vDiv d a b km => decide (d ≤ 63) && decide (a ≤ 63) && decide (b ≤ 63) && decide (km ≤ 23)
  | .vMin d a b km => decide (d ≤ 63) && decide (a ≤ 63) && decide (b ≤ 63) && decide (km ≤ 23)
  | .vMax d a b km => decide (d ≤ 63) && decide (a ≤ 63) && decide (b ≤ 63) && decide (km ≤ 23)
  | .vAnd d a b km => decide (d ≤ 63) && decide (a ≤ 63) && decide (b ≤ 63) && decide (km ≤ 23)
  | .vOr d a b km => decide (d ≤ 63) && decide (a ≤ 63) && decide (b ≤ 63) && decide (km ≤ 23)
  | .vXor d a b km => decide (d ≤ 63) && decide (a ≤ 63) && decide (b ≤ 63) && decide (km ≤ 23)
  | .vShl d a b km => decide (d ≤ 63) && decide (a ≤ 63) && decide (b ≤ 63) && decide (km ≤ 23)
  | .vShr d a b km => decide (d ≤ 63) && decide (a ≤ 63) && decide (b ≤ 63) && decide (km ≤ 23)
  | .vSar d a b km => decide (d ≤ 63) && decide (a ≤ 63) && decide (b ≤ 63) && decide (km ≤ 23)
  | .vSel d a b km => decide (d ≤ 63) && decide (a ≤ 63) && decide (b ≤ 63) && decide (km ≤ 23)
  | .vSlide d a b km => decide (d ≤ 63) && decide (a ≤ 63) && decide (b ≤ 31) && decide (km ≤ 23)
  | .vPerm d a b km => decide (d ≤ 63) && decide (a ≤ 63) && decide (b ≤ 63) && decide (km ≤ 23)
  | .vComp d a km => decide (d ≤ 63) && decide (a ≤ 63) && decide (km ≤ 23)
  | .vExpd d a km => decide (d ≤ 63) && decide (a ≤ 63) && decide (km ≤ 23)
  | .vRev d a km => decide (d ≤ 63) && decide (a ≤ 63) && decide (km ≤ 23)
  | .vIota d km => decide (d ≤ 63) && decide (km ≤ 23)
  | .vMvx d a b => decide (d ≤ 31) && decide (b ≤ 31) && decide (a ≤ 63)
  | .vTr d a b km => decide (d ≤ 63) && decide (a ≤ 7) && decide (b ≤ 31) && decide (km ≤ 23)
  | .vTc d a b km => decide (d ≤ 63) && decide (a ≤ 7) && decide (b ≤ 31) && decide (km ≤ 23)
  | .vCmp d a b km _ => maskDst d && decide (a ≤ 63) && decide (b ≤ 63) && decide (km ≤ 23)
  | .vAbs d a km => decide (d ≤ 63) && decide (a ≤ 63) && decide (km ≤ 23)
  | .vNeg d a km => decide (d ≤ 63) && decide (a ≤ 63) && decide (km ≤ 23)
  | .vNot d a km => decide (d ≤ 63) && decide (a ≤ 63) && decide (km ≤ 23)
  | .vSqrt d a km => decide (d ≤ 63) && decide (a ≤ 63) && decide (km ≤ 23)
  | .vExp2 d a km => decide (d ≤ 63) && decide (a ≤ 63) && decide (km ≤ 23)
  | .vLog2 d a km => decide (d ≤ 63) && decide (a ≤ 63) && decide (km ≤ 23)
  | .vCvt d a km md => decide (d ≤ 63) && decide (a ≤ 63) && decide (km ≤ 23) && decide (md ≠ .pk)
  | .vTag d a km _ => decide (d ≤ 63) && decide (a ≤ 63) && decide (km ≤ 23)
  | .vMov d a km => decide (d ≤ 63) && decide (a ≤ 63) && decide (km ≤ 23)
  | .vSplat d a km md => decide (d ≤ 63) && decide (a ≤ 31) && decide (km ≤ 23) && decide (md ≠ .pk)
  | .vrSum d a km => decide (d ≤ 63) && decide (a ≤ 63) && decide (km ≤ 23)
  | .vrMax d a km => decide (d ≤ 63) && decide (a ≤ 63) && decide (km ≤ 23)
  | .vrMin d a km => decide (d ≤ 63) && decide (a ≤ 63) && decide (km ≤ 23)
  | .vrAnd d a km => decide (d ≤ 63) && decide (a ≤ 63) && decide (km ≤ 23)
  | .vrOr d a km => decide (d ≤ 63) && decide (a ≤ 63) && decide (km ≤ 23)
  | .kAnd d a b => maskDst d && decide (a ≤ 23) && decide (b ≤ 23)
  | .kOr d a b => maskDst d && decide (a ≤ 23) && decide (b ≤ 23)
  | .kXor d a b => maskDst d && decide (a ≤ 23) && decide (b ≤ 23)
  | .kAndn d a b => maskDst d && decide (a ≤ 23) && decide (b ≤ 23)
  | .kNot d a => maskDst d && decide (a ≤ 23)
  | .kMov d a => maskDst d && decide (a ≤ 23)
  | .kWhile d a b => maskDst d && decide (a ≤ 31) && decide (b ≤ 31)
  | .kBrka d a => maskDst d && decide (a ≤ 23)
  | .kBrkb d a => maskDst d && decide (a ≤ 23)
  | .kCnt d a => decide (d ≤ 31) && decide (a ≤ 23)
  | .kFirst d a => decide (d ≤ 31) && decide (a ≤ 23)
  | .vldUn d a km _ => decide (d ≤ 63) && decide (a ≤ 31) && decide (km ≤ 23)
  | .vldSd d a b km fmt => decide (d ≤ 63) && decide (a ≤ 31) && decide (b ≤ 31) && decide (km ≤ 23) && !fmt.packed
  | .vldX d a b km fmt => decide (d ≤ 63) && decide (b ≤ 63) && decide (a ≤ 31) && decide (km ≤ 23) && !fmt.packed
  | .vldSm d a km => decide (d ≤ 63) && decide (a ≤ 15) && decide (km ≤ 23)
  | .qldUn d a km => decide (d ≤ 15) && decide (a ≤ 31) && decide (km ≤ 23)
  | .qldSd d a b km => decide (d ≤ 15) && decide (a ≤ 31) && decide (b ≤ 31) && decide (km ≤ 23)
  | .vstUn d a km _ => decide (d ≤ 63) && decide (a ≤ 31) && decide (km ≤ 23)
  | .vstSd d a b km fmt => decide (d ≤ 63) && decide (a ≤ 31) && decide (b ≤ 31) && decide (km ≤ 23) && !fmt.packed
  | .vstX d a b km fmt => decide (d ≤ 63) && decide (b ≤ 63) && decide (a ≤ 31) && decide (km ≤ 23) && !fmt.packed
  | .vstXa d a b km fmt => decide (d ≤ 63) && decide (b ≤ 63) && decide (a ≤ 31) && decide (km ≤ 23) && fmt.addable
  | .vstSm d a km => decide (d ≤ 63) && decide (a ≤ 15) && decide (km ≤ 23)
  | .vstQun d a km => decide (d ≤ 15) && decide (a ≤ 31) && decide (km ≤ 23)
  | .vstQsd d a b km => decide (d ≤ 15) && decide (a ≤ 31) && decide (b ≤ 31) && decide (km ≤ 23)
  | .vamAdd d a b km => decide (d ≤ 63) && decide (b ≤ 63) && decide (a ≤ 31) && decide (km ≤ 23)
  | .vamMin d a b km => decide (d ≤ 63) && decide (b ≤ 63) && decide (a ≤ 31) && decide (km ≤ 23)
  | .vamMax d a b km => decide (d ≤ 63) && decide (b ≤ 63) && decide (a ≤ 31) && decide (km ≤ 23)
  | .vamAnd d a b km => decide (d ≤ 63) && decide (b ≤ 63) && decide (a ≤ 31) && decide (km ≤ 23)
  | .vamOr d a b km => decide (d ≤ 63) && decide (b ≤ 63) && decide (a ≤ 31) && decide (km ≤ 23)
  | .vamXor d a b km => decide (d ≤ 63) && decide (b ≤ 63) && decide (a ≤ 31) && decide (km ≤ 23)
  | .vamSwap d a b km => decide (d ≤ 63) && decide (b ≤ 63) && decide (a ≤ 31) && decide (km ≤ 23)
  | .sBind d a => decide (d ≤ 15) && decide (a ≤ 31)
  | .sRel d => decide (d ≤ 15)
  | .sSkip d a => decide (d ≤ 15) && decide (a ≤ 31)
  | .sPos d a => decide (d ≤ 31) && decide (a ≤ 15)
  | .qAdd d a b _ => decide (d ≤ 15) && decide (a ≤ 15) && decide (b ≤ 15)
  | .qSub d a b _ => decide (d ≤ 15) && decide (a ≤ 15) && decide (b ≤ 15)
  | .qMul d a b _ => decide (d ≤ 15) && decide (a ≤ 15) && decide (b ≤ 15)
  | .qDiv d a b _ => decide (d ≤ 15) && decide (a ≤ 15) && decide (b ≤ 15)
  | .qSqr d a _ => decide (d ≤ 15) && decide (a ≤ 15)
  | .qSqrt d a _ => decide (d ≤ 15) && decide (a ≤ 15)
  | .qExp d a _ => decide (d ≤ 15) && decide (a ≤ 15)
  | .qLog d a _ => decide (d ≤ 15) && decide (a ≤ 15)
  | .qMin d a b _ => decide (d ≤ 15) && decide (a ≤ 15) && decide (b ≤ 15)
  | .qMax d a b _ => decide (d ≤ 15) && decide (a ≤ 15) && decide (b ≤ 15)
  | .qHull d a b => decide (d ≤ 15) && decide (a ≤ 15) && decide (b ≤ 15)
  | .qMeet d a b => decide (d ≤ 15) && decide (a ≤ 15) && decide (b ≤ 15)
  | .qSplit d a => decide (d ≤ 15) && decide (a ≤ 15) && decide (a ≠ d)
  | .qCmp d a b _ => maskPair d && decide (a ≤ 15) && decide (b ≤ 15)
  | .qMk d a b => decide (d ≤ 15) && decide (a ≤ 63) && decide (b ≤ 63)
  | .qPt d a => decide (d ≤ 15) && decide (a ≤ 63)
  | .qLo d a => decide (d ≤ 63) && decide (a ≤ 15)
  | .qHi d a => decide (d ≤ 63) && decide (a ≤ 15)
  | .qWid d a => decide (d ≤ 63) && decide (a ≤ 15)
  | .qMid d a => decide (d ≤ 63) && decide (a ≤ 15)
  | .qAxpy d a b w _ => decide (d ≤ 15) && decide (a ≤ 15) && decide (b ≤ 15) && decide (w ≤ 31)
  | .mCfg a => decide (a ≤ 31)
  | .mZero d => decide (d ≤ 7)
  | .mOp d a b pp => decide (d ≤ 7) && decide (a ≤ 7) && decide (b ≤ 7) && decide (pp ≤ 15)
  | .mOpc d a b pp => decide (d ≤ 7) && decide (a ≤ 7) && decide (b ≤ 7) && decide (pp ≤ 15)
  | .mOps d a b pp => decide (d ≤ 7) && decide (b ≤ 7) && decide (a ≤ 31) && decide (pp ≤ 15)
  | .mPrep a => decide (a ≤ 31)
  | .mSt d a => decide (d ≤ 7) && decide (a ≤ 7)
  | .mLd d a => decide (d ≤ 7) && decide (a ≤ 7)
  | .mInv a b => decide (a ≤ 31) && decide (b ≤ 31)
  | .eCpy d a => decide (d ≤ 31) && decide (a ≤ 31)
  | .eWsl d a => decide (d ≤ 31) && decide (a ≤ 31)
  | .ePut d a => decide (d ≤ 31) && decide (a ≤ 31)
  | .eGet d a => decide (d ≤ 31) && decide (a ≤ 31)
  | .eRed d a => decide (d ≤ 31) && decide (a ≤ 31)
  | .eWait d a => decide (d ≤ 31) && decide (a ≤ 31)
  | .hint _ => true
  | .emulate w => decide (0x30 * 67108864 ≤ w) && decide (w < 0x3C * 67108864)
  | .illegalWord w => decide (w < 4294967296)
  | .vsave _ => true
  | .vload _ => true
  | .vclear _ => true
  | .tsave _ => true
  | .tload _ => true
  | .tenable _ => true
  | .tdisable _ => true
  | .windowCommandDone _ => true
  | .recoveryQuiet _ => true
  | .recoverySave _ => true
  | .recoveryRestore _ => true
  | .recoveryCommandDone _ => true
  | .resourceDrained _ => true
  | .preemptRequest _ _ => true
  | .placement _ => true
  | .engineCommandStart _ _ => true
  | .engineCommandComplete _ _ => true
  | .patternCompileDone _ _ => true
  | .invalidationAck _ => true
  | .gangLateStart _ _ _ => true
  | .streamTranslateAhead _ _ => true
  | .regrantRequest _ _ _ _ => true
  | .laneRegrantRaise _ _ _ => true
  | .preemptFallback _ => true
  | .budgetPeriodStart => true
  | .gangPreempt _ _ => true
  | .gangSliceStart _ _ => true
  | .gangSliceEnd _ _ => true
  | .refreshStart _ => true
  | .refreshEnd _ => true
  | .waitReread _ => true
  | .tokenPopResume _ => true
  | .tokenPushResume _ => true
  | .barrierRelease _ => true
  | .endComplete _ => true
  | .dispatchResume _ => true
  | .replyWrite _ => true
  | .eWaitDone _ => true
  | .streamReadAhead _ _ => true
  | .interruptTake _ => true
  | .windowFieldWrite _ _ _ => true
  | .platWrite _ _ _ _ _ => true
  | .firmwareScrub _ => true
  | .budgetSnapshot _ _ => true
  | .recoveryHold _ _ => true
  | .deviceRegisterWrite _ _ _ _ _ => true
  | .hostWrite _ _ _ _ => true
  | .hostRead _ _ _ => true
  | .vfFlr _ => true
  | .pfFlr => true
  | .packageReset => true
  | .attestationRequest _ => true
  | .powerCapSet _ => true
  | .flitResend _ => true
  | .timeMessage _ _ => true
  | .throttleAdjust _ _ => true
  | .thermalTrip => true
  | .tripEnd => true
  | .healthUpdate _ _ _ _ _ _ => true
  | .fabricRequestReceive _ => true
  | .recoveryImageLoad _ => true
  | .securityVersionRaise _ => true
  | .loomPortRetrain _ => true

end Sys2Proof
end

