-- ==== Sys2Proof/Decode.lean ====
section
/-!
DEFINITION. Decode.lean: from the words of memory to an instruction or a named rejection (spec/02_encoding.md R39 to
R54), and the encoder. Field extraction happens here once; the machine never sees an encoded field.
-/

namespace Sys2Proof

/-- Why a word is no instruction (R51): its major, its function code, a register number, a modifier value, a
combination of R49 or R54, a bit shown as 0, or too few bytes to hold a word. -/
inductive DecodeError
  | illegalMajor | unlistedFunction | badRegister | badModifier | badCombination | reservedBits | truncated
deriving DecidableEq, Repr

/-! The codes of the modifier fields (R44 to R49). -/

def Fm.code : Fm → Nat
  | .f64 => 0 | .f32 => 1 | .bf16 => 2
def Rm.code : Rm → Nat
  | .rne => 0 | .rtz => 1 | .rdn => 2 | .rup => 3
def FCond.code : FCond → Nat
  | .eq => 0 | .lt => 1 | .le => 2 | .uo => 3
def FKind.code : FKind → Nat
  | .f64 => 0 | .f32 => 1 | .bf16 => 2 | .s64 => 3 | .n64 => 4 | .s32 => 5 | .n32 => 6
def Gr.code : Gr → Nat
  | .g1 => 0 | .g2 => 1 | .g4 => 2 | .g32 => 3
def Es.code : Es → Nat
  | .b1 => 0 | .b2 => 1 | .b4 => 2 | .b8 => 3 | .t6 => 4 | .f4 => 5 | .mx => 6
def Ord.code : Ord → Nat
  | .rlx => 0 | .acq => 1 | .rel => 2 | .ar => 3
def Sco.code : Sco → Nat
  | .crew => 0 | .die => 1 | .pkg => 2 | .sys => 3
def YSco.code : YSco → Nat
  | .hart => 0 | .crew => 1 | .die => 2 | .pkg => 3 | .sys => 4
def Fmt.code : Fmt → Nat
  | .s8 => 0 | .n8 => 1 | .s16 => 2 | .n16 => 3 | .s32 => 4 | .n32 => 5 | .f32 => 6 | .ix => 7
  | .bf16 => 8 | .e4m3 => 9 | .e5m2 => 10 | .t8 => 11 | .t6 => 12 | .e2m1 => 13 | .e8m0 => 14 | .pk => 15
def Tag.code : Tag → Nat
  | .s32 => 0 | .n32 => 1 | .fp32 => 2 | .bf16 => 3 | .ix => 4 | .pk => 5
def VCond.code : VCond → Nat
  | .eq => 0 | .ne => 1 | .lt => 2 | .le => 3 | .gt => 4 | .ge => 5 | .uo => 6
def QCond.code : QCond → Nat
  | .lt => 0 | .le => 1 | .eq => 2 | .ne => 3
def Level.code : Level → Nat
  | .u => 0 | .s => 1 | .h => 2 | .m => 3

/-! What each code stands for; none where the manual calls the value illegal. -/

def fmOf : Nat → Option Fm
  | 0 => some .f64 | 1 => some .f32 | 2 => some .bf16 | _ => none
def rmOf : Nat → Rm
  | 0 => .rne | 1 => .rtz | 2 => .rdn | _ => .rup
def fcondOf : Nat → FCond
  | 0 => .eq | 1 => .lt | 2 => .le | _ => .uo
def fkindOf : Nat → Option FKind
  | 0 => some .f64 | 1 => some .f32 | 2 => some .bf16 | 3 => some .s64 | 4 => some .n64 | 5 => some .s32
  | 6 => some .n32 | _ => none
def grOf : Nat → Gr
  | 0 => .g1 | 1 => .g2 | 2 => .g4 | _ => .g32
def esOf : Nat → Option Es
  | 0 => some .b1 | 1 => some .b2 | 2 => some .b4 | 3 => some .b8 | 4 => some .t6 | 5 => some .f4
  | 6 => some .mx | _ => none
def ordOf : Nat → Ord
  | 0 => .rlx | 1 => .acq | 2 => .rel | _ => .ar
def scoOf : Nat → Sco
  | 0 => .crew | 1 => .die | 2 => .pkg | _ => .sys
def yscoOf : Nat → Option YSco
  | 0 => some .hart | 1 => some .crew | 2 => some .die | 3 => some .pkg | 4 => some .sys | _ => none
def fmtOf : Nat → Fmt
  | 0 => .s8 | 1 => .n8 | 2 => .s16 | 3 => .n16 | 4 => .s32 | 5 => .n32 | 6 => .f32 | 7 => .ix
  | 8 => .bf16 | 9 => .e4m3 | 10 => .e5m2 | 11 => .t8 | 12 => .t6 | 13 => .e2m1 | 14 => .e8m0 | _ => .pk
def tagOf : Nat → Option Tag
  | 0 => some .s32 | 1 => some .n32 | 2 => some .fp32 | 3 => some .bf16 | 4 => some .ix | 5 => some .pk | _ => none
def vcondOf : Nat → Option VCond
  | 0 => some .eq | 1 => some .ne | 2 => some .lt | 3 => some .le | 4 => some .gt | 5 => some .ge | 6 => some .uo
  | _ => none
def qcondOf : Nat → QCond
  | 0 => .lt | 1 => .le | 2 => .eq | _ => .ne
def levelOf : Nat → Level
  | 0 => .u | 1 => .s | 2 => .h | _ => .m

/-! Fields. -/

/-- The fields every format shares (R41): the major, d, a, b, and bits 7:0. -/
structure Fields where
  op : Nat
  d : Nat
  a : Nat
  b : Nat
  lo : Nat
deriving DecidableEq, Repr

/-- The fields of a 32-bit word (R41). -/
def fieldsOf (w : Nat) : Fields :=
  ⟨w / 67108864 % 64, w / 1048576 % 64, w / 16384 % 64, w / 256 % 64, w % 256⟩

/-- The word with these fields (R41). -/
def word (op d a b lo : Nat) : Nat := op * 67108864 + d * 1048576 + a * 16384 + b * 256 + lo

/-- A decoder's check: go on when it holds, else reject by name. -/
def need (c : Bool) (e : DecodeError) (k : Except DecodeError Instr) : Except DecodeError Instr :=
  match c with
  | true => k
  | false => .error e

/-- A decoder's modifier: go on with what the code stands for, else reject. -/
def modifier (o : Option α) (k : α → Except DecodeError Instr) : Except DecodeError Instr :=
  match o with
  | some v => k v
  | none => .error .badModifier

/-- Go on with an instruction whose field values R43 to R49 accept, else reject by name. -/
def checked (e : DecodeError) (i : Instr) : Except DecodeError Instr := need (WellFormed i) e (.ok i)

/-! One decoder per major (R47, R48). -/

/-- Major 0x02 (R122): sat only on add, sub, mul and shl, b = 0 on the unary forms (R49). -/
def decodeX (f : Fields) : Except DecodeError Instr :=
  need (f.lo % 4 == 0) .reservedBits <|
  let sat := f.lo / 4 % 2 == 1
  let plain (i : Instr) := need (!sat) .badCombination (checked .badRegister i)
  let unary (i : Instr) := need (f.b == 0) .badCombination (plain i)
  match f.lo / 8 with
  | 0 => checked .badRegister (.xAdd f.d f.a f.b sat)
  | 1 => checked .badRegister (.xSub f.d f.a f.b sat)
  | 2 => plain (.xAnd f.d f.a f.b)
  | 3 => plain (.xOr f.d f.a f.b)
  | 4 => plain (.xXor f.d f.a f.b)
  | 5 => plain (.xAndn f.d f.a f.b)
  | 6 => checked .badRegister (.xShl f.d f.a f.b sat)
  | 7 => plain (.xShr f.d f.a f.b)
  | 8 => plain (.xSar f.d f.a f.b)
  | 9 => checked .badRegister (.xMul f.d f.a f.b sat)
  | 10 => plain (.xMulh f.d f.a f.b)
  | 11 => plain (.xMulhn f.d f.a f.b)
  | 12 => plain (.xDiv f.d f.a f.b)
  | 13 => plain (.xDivn f.d f.a f.b)
  | 14 => plain (.xRem f.d f.a f.b)
  | 15 => plain (.xRemn f.d f.a f.b)
  | 16 => plain (.xMin f.d f.a f.b)
  | 17 => plain (.xMax f.d f.a f.b)
  | 18 => plain (.xMinn f.d f.a f.b)
  | 19 => plain (.xMaxn f.d f.a f.b)
  | 20 => plain (.xSlt f.d f.a f.b)
  | 21 => plain (.xSltn f.d f.a f.b)
  | 22 => plain (.xSeq f.d f.a f.b)
  | 23 => plain (.xSel f.d f.a f.b)
  | 24 => unary (.xClz f.d f.a)
  | 25 => unary (.xCtz f.d f.a)
  | 26 => unary (.xPopc f.d f.a)
  | _ => .error .unlistedFunction

/-- Major 0x03 (R123): fn 13:11, imm 10:0; imm 10:6 zero on the shifts (R49). -/
def decodeXi (f : Fields) : Except DecodeError Instr :=
  let imm : BitVec 11 := .ofNat 11 (f.b % 8 * 256 + f.lo)
  let shift (k : BitVec 6 → Instr) := need (f.b % 8 == 0 && f.lo / 64 == 0) .badCombination
    (checked .badRegister (k (.ofNat 6 f.lo)))
  match f.b / 8 with
  | 0 => checked .badRegister (.xiAdd f.d f.a imm)
  | 1 => checked .badRegister (.xiAnd f.d f.a imm)
  | 2 => checked .badRegister (.xiOr f.d f.a imm)
  | 3 => checked .badRegister (.xiXor f.d f.a imm)
  | 4 => shift (.xiShl f.d f.a)
  | 5 => shift (.xiShr f.d f.a)
  | 6 => shift (.xiSar f.d f.a)
  | _ => checked .badRegister (.xiSlt f.d f.a imm)

/-- Major 0x04 (R124): the constant is in word 1; a = 0 and bits 7:0 zero (R42, R49). -/
def decodeXl (f : Fields) (w1 : Nat) : Except DecodeError Instr :=
  need (f.lo == 0 && f.a == 0) .reservedBits <|
  match f.b with
  | 0 => checked .badRegister (.xlLd f.d (.ofNat 32 w1))
  | 1 => checked .badRegister (.xlHi f.d (.ofNat 32 w1))
  | _ => .error .unlistedFunction

/-- Major 0x05 (R125, R126): fn 7:4, fm 3:2, rm 1:0. -/
def decodeF (f : Fields) : Except DecodeError Instr :=
  let rm := rmOf (f.lo % 4)
  let m := f.lo / 4 % 4
  let three (k : Fm → Instr) := modifier (fmOf m) fun fm => checked .badRegister (k fm)
  let two (k : Fm → Instr) := need (f.b == 0) .badCombination (three k)
  match f.lo / 16 with
  | 0 => three fun fm => .fAdd f.d f.a f.b fm rm
  | 1 => three fun fm => .fSub f.d f.a f.b fm rm
  | 2 => three fun fm => .fMul f.d f.a f.b fm rm
  | 3 => three fun fm => .fFma f.d f.a f.b fm rm
  | 4 => three fun fm => .fDiv f.d f.a f.b fm rm
  | 5 => two fun fm => .fSqrt f.d f.a fm rm
  | 6 => three fun fm => .fMin f.d f.a f.b fm rm
  | 7 => three fun fm => .fMax f.d f.a f.b fm rm
  | 8 => three fun fm => .fCmp f.d f.a f.b fm (fcondOf (f.lo % 4))
  | 9 => need (m == 0) .badCombination <| modifier (fkindOf (f.b / 8)) fun dk =>
      modifier (fkindOf (f.b % 8)) fun sk => checked .badCombination (.fCvt f.d f.a dk sk rm)
  | 10 => two fun fm => .fClass f.d f.a fm rm
  | _ => .error .unlistedFunction

/-- Major 0x06 (R128): the offset is split over bits 25:20 and 7:3. -/
def decodeB (f : Fields) : Except DecodeError Instr :=
  let off : BitVec 11 := .ofNat 11 (f.d * 32 + f.lo / 8)
  match f.lo % 8 with
  | 0 => checked .badRegister (.bEq f.a f.b off)
  | 1 => checked .badRegister (.bNe f.a f.b off)
  | 2 => checked .badRegister (.bLt f.a f.b off)
  | 3 => checked .badRegister (.bGe f.a f.b off)
  | 4 => checked .badRegister (.bLtn f.a f.b off)
  | 5 => checked .badRegister (.bGen f.a f.b off)
  | _ => .error .unlistedFunction

/-- Major 0x07 (R129). -/
def decodeJ (f : Fields) : Except DecodeError Instr :=
  match f.lo % 4 with
  | 0 => checked .badRegister (.jLink f.d (.ofNat 18 (f.a * 4096 + f.b * 64 + f.lo / 4)))
  | 1 => checked .badRegister (.jInd f.d f.a (.ofNat 12 (f.b * 64 + f.lo / 4)))
  | _ => .error .unlistedFunction

/-- Major 0x08 (R42, R131 to R133, R135, R176). -/
def decodeLn (f : Fields) (w1 : Nat) : Except DecodeError Instr :=
  let np := f.lo / 32
  let kb := f.lo / 16 % 2 == 1
  need (f.lo / 8 % 2 == 0) .reservedBits <|
  match f.lo % 8 with
  | 0 => need (f.b % 16 == 0) .reservedBits (checked .badCombination (.lnSet f.d f.a (grOf (f.b / 16)) np kb))
  | 1 => modifier (esOf (w1 / 536870912 % 8)) fun es0 => modifier (esOf (w1 / 67108864 % 8)) fun es1 =>
      modifier (esOf (w1 / 8388608 % 8)) fun es2 => modifier (esOf (w1 / 1048576 % 8)) fun es3 =>
        checked .badCombination (.lnShuttle f.d f.a f.b np kb es0 es1 es2 es3 (.ofNat 20 w1))
  | 2 => need (f.b == 0 && f.lo / 8 == 0) .reservedBits (checked .badRegister (.lnTrim f.d f.a))
  | 3 => need (f.d == 0 && f.a == 0 && f.b == 0 && f.lo / 8 == 0) .reservedBits (.ok .lnRel)
  | _ => .error .unlistedFunction

/-- Major 0x09 (R120): cn 13:2; a = 0 on a read (R43). -/
def decodeCr (f : Fields) : Except DecodeError Instr :=
  let cn := f.b * 64 + f.lo / 4
  match f.lo % 4 with
  | 0 => need (f.a == 0) .reservedBits (checked .badRegister (.crRd f.d cn))
  | 1 => checked .badRegister (.crWr f.d f.a cn)
  | 2 => checked .badRegister (.crSet f.d f.a cn)
  | _ => checked .badRegister (.crClr f.d f.a cn)

/-- Major 0x0A (R137): sz 13:11, cls 10:7, off 6:0. -/
def decodeLd (f : Fields) : Except DecodeError Instr :=
  let cls := f.b % 8 * 2 + f.lo / 128
  let off : BitVec 7 := .ofNat 7 f.lo
  match f.b / 8 with
  | 0 => checked .badRegister (.ldS8 f.d f.a cls off)
  | 1 => checked .badRegister (.ldN8 f.d f.a cls off)
  | 2 => checked .badRegister (.ldS16 f.d f.a cls off)
  | 3 => checked .badRegister (.ldN16 f.d f.a cls off)
  | 4 => checked .badRegister (.ldS32 f.d f.a cls off)
  | 5 => checked .badRegister (.ldN32 f.d f.a cls off)
  | 6 => checked .badRegister (.ldX64 f.d f.a cls off)
  | _ => .error .badModifier

/-- Major 0x0B (R251): an even sz below 7 (R49). -/
def decodeSt (f : Fields) : Except DecodeError Instr :=
  let cls := f.b % 8 * 2 + f.lo / 128
  let off : BitVec 7 := .ofNat 7 f.lo
  match f.b / 8 with
  | 0 => checked .badRegister (.stS8 f.d f.a cls off)
  | 2 => checked .badRegister (.stS16 f.d f.a cls off)
  | 4 => checked .badRegister (.stS32 f.d f.a cls off)
  | 6 => checked .badRegister (.stX64 f.d f.a cls off)
  | _ => .error .badCombination

/-- Major 0x0C (R259): fn 7:4, ord 3:2, sco 1:0. -/
def decodeAm (f : Fields) : Except DecodeError Instr :=
  let o := ordOf (f.lo / 4 % 4)
  let c := scoOf (f.lo % 4)
  match f.lo / 16 with
  | 0 => checked .badRegister (.amAdd f.d f.a f.b o c)
  | 1 => checked .badRegister (.amAnd f.d f.a f.b o c)
  | 2 => checked .badRegister (.amOr f.d f.a f.b o c)
  | 3 => checked .badRegister (.amXor f.d f.a f.b o c)
  | 4 => checked .badRegister (.amMax f.d f.a f.b o c)
  | 5 => checked .badRegister (.amMin f.d f.a f.b o c)
  | 6 => checked .badRegister (.amMaxn f.d f.a f.b o c)
  | 7 => checked .badRegister (.amMinn f.d f.a f.b o c)
  | 8 => checked .badRegister (.amSwap f.d f.a f.b o c)
  | 9 => checked .badRegister (.amCas f.d f.a f.b o c)
  | 10 => need (f.b == 0) .badCombination (checked .badCombination (.amLd f.d f.a o c))
  | 11 => need (f.b == 0) .badCombination (checked .badCombination (.amSt f.d f.a o c))
  | _ => .error .unlistedFunction

/-- Major 0x0D (R42, R261, R276, R294, R295). -/
def decodeY (f : Fields) : Except DecodeError Instr :=
  let zero := f.lo / 8 % 16 == 0
  let sco := yscoOf (f.b % 4 * 2 + f.lo / 128)
  match f.lo % 8 with
  | 0 => need zero .reservedBits <| modifier sco fun c =>
      .ok (.yFence (.ofNat 16 (f.d * 1024 + f.a * 16 + f.b / 4)) c)
  | 1 => need zero .reservedBits <| modifier sco fun c => checked .badCombination
      (.yXfence (.ofNat 8 (f.d * 4 + f.a / 16)) (.ofNat 8 (f.a % 16 * 16 + f.b / 4)) c)
  | 2 => need (f.d == 0 && f.a == 0 && f.b == 0 && f.lo / 8 == 0) .reservedBits (.ok .yBar)
  | 3 => need (f.d == 0 && f.a == 0 && f.b == 0 && f.lo / 8 == 0) .reservedBits (.ok .yEnd)
  | 4 => need (f.lo / 8 == 0) .reservedBits (checked .badRegister (.yWait f.d f.a f.b))
  | _ => .error .unlistedFunction

/-- Major 0x0E (R54). -/
def decodeRide (f : Fields) : Except DecodeError Instr :=
  need (f.lo == 0 && f.b % 2 == 0) .reservedBits <|
  checked .badCombination (.ride (f.d / 32 == 1) (f.d % 32) (f.a / 32 == 1) (f.a % 32) (f.b / 32 == 1) (f.b / 2 % 16))

/-- Major 0x0F (R328, R341, R371, R243): fn 7:3; fields a form does not use are zero (R43). -/
def decodeZ (f : Fields) : Except DecodeError Instr :=
  need (f.lo % 8 == 0) .reservedBits <|
  let b0 (k : Except DecodeError Instr) := need (f.b == 0) .reservedBits k
  let d0 (k : Except DecodeError Instr) := need (f.d == 0) .reservedBits k
  let none (i : Instr) := need (f.a == 0) .reservedBits (d0 (b0 (.ok i)))
  match f.lo / 8 with
  | 0 => none .zCall
  | 1 => none .zBrk
  | 2 => none .zRet
  | 3 => b0 (checked .badRegister (.zHres f.d f.a))
  | 4 => b0 (checked .badRegister (.zHstop f.d f.a))
  | 5 => d0 (b0 (checked .badRegister (.zInva f.a)))
  | 6 => d0 (checked .badRegister (.zInvs f.a f.b))
  | 7 => none .zInvp
  | 8 => b0 (checked .badRegister (.zSpawn f.d f.a))
  | 9 => checked .badRegister (.zKill f.d f.a f.b)
  | 10 => none .zYield
  | 11 => b0 (checked .badRegister (.zWsopen f.d f.a))
  | 12 => b0 (checked .badRegister (.zWsclose f.d f.a))
  | _ => .error .unlistedFunction

/-- Majors 0x10 and 0x11 (R150): sat only on add, sub and mul (R49). -/
def decodeV (f : Fields) (sat : Bool) : Except DecodeError Instr :=
  let km := f.lo / 8
  let plain (i : Instr) := need (!sat) .badCombination (checked .badRegister i)
  match f.lo % 8 with
  | 0 => checked .badRegister (.vAdd f.d f.a f.b km sat)
  | 1 => checked .badRegister (.vSub f.d f.a f.b km sat)
  | 2 => checked .badRegister (.vMul f.d f.a f.b km sat)
  | 3 => plain (.vFma f.d f.a f.b km)
  | 4 => plain (.vFms f.d f.a f.b km)
  | 5 => plain (.vDiv f.d f.a f.b km)
  | 6 => plain (.vMin f.d f.a f.b km)
  | _ => plain (.vMax f.d f.a f.b km)

/-- Major 0x12 (R151). -/
def decodeVLogic (f : Fields) : Except DecodeError Instr :=
  let km := f.lo / 8
  match f.lo % 8 with
  | 0 => checked .badRegister (.vAnd f.d f.a f.b km)
  | 1 => checked .badRegister (.vOr f.d f.a f.b km)
  | 2 => checked .badRegister (.vXor f.d f.a f.b km)
  | 3 => checked .badRegister (.vShl f.d f.a f.b km)
  | 4 => checked .badRegister (.vShr f.d f.a f.b km)
  | 5 => checked .badRegister (.vSar f.d f.a f.b km)
  | 6 => checked .badRegister (.vSel f.d f.a f.b km)
  | _ => checked .badRegister (.vSlide f.d f.a f.b km)

/-- Major 0x13 (R156 to R159, R225). -/
def decodeVPerm (f : Fields) : Except DecodeError Instr :=
  let km := f.lo / 8
  let b0 (i : Instr) := need (f.b == 0) .reservedBits (checked .badRegister i)
  match f.lo % 8 with
  | 0 => checked .badRegister (.vPerm f.d f.a f.b km)
  | 1 => b0 (.vComp f.d f.a km)
  | 2 => b0 (.vExpd f.d f.a km)
  | 3 => b0 (.vRev f.d f.a km)
  | 4 => need (f.a == 0) .reservedBits (b0 (.vIota f.d km))
  | 5 => need (km == 0) .reservedBits (checked .badRegister (.vMvx f.d f.a f.b))
  | 6 => checked .badRegister (.vTr f.d f.a f.b km)
  | _ => checked .badRegister (.vTc f.d f.a f.b km)

/-- Major 0x15 (R152): fu in field b, md in bits 2:0. -/
def decodeVu (f : Fields) : Except DecodeError Instr :=
  let km := f.lo / 8
  let md0 (i : Instr) := need (f.lo % 8 == 0) .badCombination (checked .badRegister i)
  let withMd (k : Tag → Instr) := modifier (tagOf (f.lo % 8)) fun md => checked .badCombination (k md)
  match f.b with
  | 0 => md0 (.vAbs f.d f.a km)
  | 1 => md0 (.vNeg f.d f.a km)
  | 2 => md0 (.vNot f.d f.a km)
  | 3 => md0 (.vSqrt f.d f.a km)
  | 4 => md0 (.vExp2 f.d f.a km)
  | 5 => md0 (.vLog2 f.d f.a km)
  | 6 => withMd (.vCvt f.d f.a km)
  | 7 => withMd (.vTag f.d f.a km)
  | 8 => md0 (.vMov f.d f.a km)
  | 9 => withMd (.vSplat f.d f.a km)
  | _ => .error .unlistedFunction

/-- Major 0x16 (R161): b = 0 (R49). -/
def decodeVr (f : Fields) : Except DecodeError Instr :=
  let km := f.lo / 8
  need (f.b == 0) .badCombination <|
  match f.lo % 8 with
  | 0 => checked .badRegister (.vrSum f.d f.a km)
  | 1 => checked .badRegister (.vrMax f.d f.a km)
  | 2 => checked .badRegister (.vrMin f.d f.a km)
  | 3 => checked .badRegister (.vrAnd f.d f.a km)
  | 4 => checked .badRegister (.vrOr f.d f.a km)
  | _ => .error .unlistedFunction

/-- Major 0x17 (R171). -/
def decodeK (f : Fields) : Except DecodeError Instr :=
  let b0 (i : Instr) := need (f.b == 0) .reservedBits (checked .badRegister i)
  need (f.lo % 8 == 0) .reservedBits <|
  match f.lo / 8 with
  | 0 => checked .badRegister (.kAnd f.d f.a f.b)
  | 1 => checked .badRegister (.kOr f.d f.a f.b)
  | 2 => checked .badRegister (.kXor f.d f.a f.b)
  | 3 => checked .badRegister (.kAndn f.d f.a f.b)
  | 4 => b0 (.kNot f.d f.a)
  | 5 => b0 (.kMov f.d f.a)
  | 6 => checked .badRegister (.kWhile f.d f.a f.b)
  | 7 => b0 (.kBrka f.d f.a)
  | 8 => b0 (.kBrkb f.d f.a)
  | 9 => b0 (.kCnt f.d f.a)
  | 10 => b0 (.kFirst f.d f.a)
  | _ => .error .unlistedFunction

/-- A vector load or store whose memory format code is the op bit c8 joined to bits 2:0 (R42). -/
def decodeVm (f : Fields) (c8 : Nat) (unit : Bool) (k : Nat → Nat → Nat → Nat → Fmt → Instr) : Except DecodeError Instr :=
  need (!unit || f.b == 0) .reservedBits
    (checked .badCombination (k f.d f.a f.b (f.lo / 8) (fmtOf (8 * c8 + f.lo % 8))))

/-- A form of fixed format with b = 0 and bits 2:0 zero (R49). -/
def decodeSm (f : Fields) (k : Nat → Nat → Nat → Instr) : Except DecodeError Instr :=
  need (f.b == 0 && f.lo % 8 == 0) .reservedBits (checked .badRegister (k f.d f.a (f.lo / 8)))

/-- The interval load and store (R48, R209, R252): fl 0 unit, fl 1 strided. -/
def decodeQm (f : Fields) (un : Nat → Nat → Nat → Instr) (sd : Nat → Nat → Nat → Nat → Instr) :
    Except DecodeError Instr :=
  match f.lo % 8 with
  | 0 => need (f.b == 0) .reservedBits (checked .badRegister (un f.d f.a (f.lo / 8)))
  | 1 => checked .badRegister (sd f.d f.a f.b (f.lo / 8))
  | _ => .error .unlistedFunction

/-- Major 0x29 (R260): function 7 is illegal. -/
def decodeVam (f : Fields) : Except DecodeError Instr :=
  let km := f.lo / 8
  match f.lo % 8 with
  | 0 => checked .badRegister (.vamAdd f.d f.a f.b km)
  | 1 => checked .badRegister (.vamMin f.d f.a f.b km)
  | 2 => checked .badRegister (.vamMax f.d f.a f.b km)
  | 3 => checked .badRegister (.vamAnd f.d f.a f.b km)
  | 4 => checked .badRegister (.vamOr f.d f.a f.b km)
  | 5 => checked .badRegister (.vamXor f.d f.a f.b km)
  | 6 => checked .badRegister (.vamSwap f.d f.a f.b km)
  | _ => .error .unlistedFunction

/-- Major 0x2A (R181). -/
def decodeS (f : Fields) : Except DecodeError Instr :=
  need (f.lo % 32 == 0 && f.b == 0) .reservedBits <|
  match f.lo / 32 with
  | 0 => checked .badRegister (.sBind f.d f.a)
  | 1 => need (f.a == 0) .reservedBits (checked .badRegister (.sRel f.d))
  | 2 => checked .badRegister (.sSkip f.d f.a)
  | 3 => checked .badRegister (.sPos f.d f.a)
  | _ => .error .unlistedFunction

/-- Major 0x2B (R198): c only below function 10, cq only on cmp (R49). -/
def decodeQ (f : Fields) : Except DecodeError Instr :=
  let c := f.lo / 4 % 2 == 1
  let b0 (k : Except DecodeError Instr) := need (f.b == 0) .reservedBits k
  let c0 (k : Except DecodeError Instr) := need (!c) .badCombination k
  let ok (i : Instr) := checked .badRegister i
  need (f.lo % 4 == 0 || f.lo / 8 == 13) .badCombination <|
  match f.lo / 8 with
  | 0 => ok (.qAdd f.d f.a f.b c)
  | 1 => ok (.qSub f.d f.a f.b c)
  | 2 => ok (.qMul f.d f.a f.b c)
  | 3 => ok (.qDiv f.d f.a f.b c)
  | 4 => b0 (ok (.qSqr f.d f.a c))
  | 5 => b0 (ok (.qSqrt f.d f.a c))
  | 6 => b0 (ok (.qExp f.d f.a c))
  | 7 => b0 (ok (.qLog f.d f.a c))
  | 8 => ok (.qMin f.d f.a f.b c)
  | 9 => ok (.qMax f.d f.a f.b c)
  | 10 => c0 (ok (.qHull f.d f.a f.b))
  | 11 => c0 (ok (.qMeet f.d f.a f.b))
  | 12 => c0 (b0 (ok (.qSplit f.d f.a)))
  | 13 => c0 (ok (.qCmp f.d f.a f.b (qcondOf (f.lo % 4))))
  | 14 => c0 (ok (.qMk f.d f.a f.b))
  | 15 => c0 (b0 (ok (.qPt f.d f.a)))
  | 16 => c0 (b0 (ok (.qLo f.d f.a)))
  | 17 => c0 (b0 (ok (.qHi f.d f.a)))
  | 18 => c0 (b0 (ok (.qWid f.d f.a)))
  | 19 => c0 (b0 (ok (.qMid f.d f.a)))
  | _ => .error .unlistedFunction

/-- Major 0x2C (R215 to R234): pp only on op, opc and ops (R49). -/
def decodeM (f : Fields) : Except DecodeError Instr :=
  let pp := f.lo % 16
  let p0 (k : Except DecodeError Instr) := need (pp == 0) .badCombination k
  let b0 (k : Except DecodeError Instr) := need (f.b == 0) .reservedBits k
  let d0 (k : Except DecodeError Instr) := need (f.d == 0) .reservedBits k
  let a0 (k : Except DecodeError Instr) := need (f.a == 0) .reservedBits k
  let ok (i : Instr) := checked .badRegister i
  match f.lo / 16 with
  | 0 => p0 (b0 (d0 (ok (.mCfg f.a))))
  | 1 => p0 (b0 (a0 (ok (.mZero f.d))))
  | 2 => ok (.mOp f.d f.a f.b pp)
  | 3 => ok (.mOpc f.d f.a f.b pp)
  | 4 => ok (.mOps f.d f.a f.b pp)
  | 5 => p0 (b0 (d0 (ok (.mPrep f.a))))
  | 6 => p0 (b0 (ok (.mSt f.d f.a)))
  | 7 => p0 (b0 (ok (.mLd f.d f.a)))
  | 8 => p0 (d0 (ok (.mInv f.a f.b)))
  | _ => .error .unlistedFunction

/-- Major 0x2D (R306). -/
def decodeE (f : Fields) : Except DecodeError Instr :=
  need (f.lo % 32 == 0 && f.b == 0) .reservedBits <|
  match f.lo / 32 with
  | 0 => checked .badRegister (.eCpy f.d f.a)
  | 1 => checked .badRegister (.eWsl f.d f.a)
  | 2 => checked .badRegister (.ePut f.d f.a)
  | 3 => checked .badRegister (.eGet f.d f.a)
  | 4 => checked .badRegister (.eRed f.d f.a)
  | 5 => checked .badRegister (.eWait f.d f.a)
  | _ => .error .unlistedFunction

/-- The instruction a first word w and, for the two-word instructions, the word w1 after it stand for (R47, R51). -/
def decodeWord (w w1 : Nat) : Except DecodeError Instr :=
  let f := fieldsOf w
  match f.op with
  | 0x01 => .ok (.hint (.ofNat 26 w))
  | 0x02 => decodeX f
  | 0x03 => decodeXi f
  | 0x04 => decodeXl f w1
  | 0x05 => decodeF f
  | 0x06 => decodeB f
  | 0x07 => decodeJ f
  | 0x08 => decodeLn f w1
  | 0x09 => decodeCr f
  | 0x0A => decodeLd f
  | 0x0B => decodeSt f
  | 0x0C => decodeAm f
  | 0x0D => decodeY f
  | 0x0E => decodeRide f
  | 0x0F => decodeZ f
  | 0x10 => decodeV f false
  | 0x11 => decodeV f true
  | 0x12 => decodeVLogic f
  | 0x13 => decodeVPerm f
  | 0x14 => modifier (vcondOf (f.lo % 8)) fun c => checked .badRegister (.vCmp f.d f.a f.b (f.lo / 8) c)
  | 0x15 => decodeVu f
  | 0x16 => decodeVr f
  | 0x17 => decodeK f
  | 0x18 => decodeVm f 0 true fun d a _ km fmt => .vldUn d a km fmt
  | 0x19 => decodeVm f 1 true fun d a _ km fmt => .vldUn d a km fmt
  | 0x1A => decodeVm f 0 false .vldSd
  | 0x1B => decodeVm f 1 false .vldSd
  | 0x1C => decodeVm f 0 false .vldX
  | 0x1D => decodeVm f 1 false .vldX
  | 0x1E => decodeSm f .vldSm
  | 0x1F => decodeQm f .qldUn .qldSd
  | 0x20 => decodeVm f 0 true fun d a _ km fmt => .vstUn d a km fmt
  | 0x21 => decodeVm f 1 true fun d a _ km fmt => .vstUn d a km fmt
  | 0x22 => decodeVm f 0 false .vstSd
  | 0x23 => decodeVm f 1 false .vstSd
  | 0x24 => decodeVm f 0 false .vstX
  | 0x25 => decodeVm f 1 false .vstX
  | 0x26 => decodeVm f 0 false .vstXa
  | 0x27 => decodeSm f .vstSm
  | 0x28 => decodeQm f .vstQun .vstQsd
  | 0x29 => decodeVam f
  | 0x2A => decodeS f
  | 0x2B => decodeQ f
  | 0x2C => decodeM f
  | 0x2D => decodeE f
  | 0x2E => need (f.lo % 4 == 0) .reservedBits
      (checked .badRegister (.qAxpy f.d f.a f.b (f.lo / 8) (f.lo / 4 % 2 == 1)))
  | 0x30 | 0x31 | 0x32 | 0x33 | 0x34 | 0x35 | 0x36 | 0x37 | 0x38 | 0x39 | 0x3A | 0x3B => .ok (.emulate (w % 4294967296))
  | _ => .error .illegalMajor

/-- The word begins an instruction of two words: xl.ld, xl.hi or ln.shuttle (R40). -/
def isTwoWord (w : Nat) : Bool :=
  let f := fieldsOf w
  (f.op == 4 && (f.b == 0 || f.b == 1)) || (f.op == 8 && f.lo % 8 == 1)

/-- The 32-bit little-endian word at the head of a list of bytes, with the rest (R39). -/
def takeWord : List Byte → Option (Nat × List Byte)
  | b0 :: b1 :: b2 :: b3 :: rest =>
    some (b0.toNat + 256 * b1.toNat + 65536 * b2.toNat + 16777216 * b3.toNat, rest)
  | _ => none

/-- The instruction at the head of a list of bytes, with the bytes after it; total, rejecting by name (R51). -/
def decode (bytes : List Byte) : Except DecodeError (Instr × List Byte) :=
  match takeWord bytes with
  | none => .error .truncated
  | some (w, rest) =>
    match isTwoWord w with
    | false => (decodeWord w 0).map fun i => (i, rest)
    | true =>
      match takeWord rest with
      | none => .error .truncated
      | some (w1, rest1) => (decodeWord w w1).map fun i => (i, rest1)

/-! The encoder. -/

/-- The words of an instruction (R42, R48); an event of the opcode table has none. -/
def encodeWords : Instr → List Nat
  | .xAdd d a b sat => [word 0x02 d a b (0 + 4 * sat.toNat)]
  | .xSub d a b sat => [word 0x02 d a b (8 + 4 * sat.toNat)]
  | .xAnd d a b => [word 0x02 d a b 16]
  | .xOr d a b => [word 0x02 d a b 24]
  | .xXor d a b => [word 0x02 d a b 32]
  | .xAndn d a b => [word 0x02 d a b 40]
  | .xShl d a b sat => [word 0x02 d a b (48 + 4 * sat.toNat)]
  | .xShr d a b => [word 0x02 d a b 56]
  | .xSar d a b => [word 0x02 d a b 64]
  | .xMul d a b sat => [word 0x02 d a b (72 + 4 * sat.toNat)]
  | .xMulh d a b => [word 0x02 d a b 80]
  | .xMulhn d a b => [word 0x02 d a b 88]
  | .xDiv d a b => [word 0x02 d a b 96]
  | .xDivn d a b => [word 0x02 d a b 104]
  | .xRem d a b => [word 0x02 d a b 112]
  | .xRemn d a b => [word 0x02 d a b 120]
  | .xMin d a b => [word 0x02 d a b 128]
  | .xMax d a b => [word 0x02 d a b 136]
  | .xMinn d a b => [word 0x02 d a b 144]
  | .xMaxn d a b => [word 0x02 d a b 152]
  | .xSlt d a b => [word 0x02 d a b 160]
  | .xSltn d a b => [word 0x02 d a b 168]
  | .xSeq d a b => [word 0x02 d a b 176]
  | .xSel d a b => [word 0x02 d a b 184]
  | .xClz d a => [word 0x02 d a 0 192]
  | .xCtz d a => [word 0x02 d a 0 200]
  | .xPopc d a => [word 0x02 d a 0 208]
  | .xiAdd d a imm => [word 0x03 d a (0 + imm.toNat / 256) (imm.toNat % 256)]
  | .xiAnd d a imm => [word 0x03 d a (8 + imm.toNat / 256) (imm.toNat % 256)]
  | .xiOr d a imm => [word 0x03 d a (16 + imm.toNat / 256) (imm.toNat % 256)]
  | .xiXor d a imm => [word 0x03 d a (24 + imm.toNat / 256) (imm.toNat % 256)]
  | .xiShl d a sh => [word 0x03 d a 32 sh.toNat]
  | .xiShr d a sh => [word 0x03 d a 40 sh.toNat]
  | .xiSar d a sh => [word 0x03 d a 48 sh.toNat]
  | .xiSlt d a imm => [word 0x03 d a (56 + imm.toNat / 256) (imm.toNat % 256)]
  | .xlLd d imm => [word 0x04 d 0 0 0, imm.toNat]
  | .xlHi d imm => [word 0x04 d 0 1 0, imm.toNat]
  | .fAdd d a b fm rm => [word 0x05 d a b (0 + 4 * fm.code + rm.code)]
  | .fSub d a b fm rm => [word 0x05 d a b (16 + 4 * fm.code + rm.code)]
  | .fMul d a b fm rm => [word 0x05 d a b (32 + 4 * fm.code + rm.code)]
  | .fFma d a b fm rm => [word 0x05 d a b (48 + 4 * fm.code + rm.code)]
  | .fDiv d a b fm rm => [word 0x05 d a b (64 + 4 * fm.code + rm.code)]
  | .fSqrt d a fm rm => [word 0x05 d a 0 (80 + 4 * fm.code + rm.code)]
  | .fMin d a b fm rm => [word 0x05 d a b (96 + 4 * fm.code + rm.code)]
  | .fMax d a b fm rm => [word 0x05 d a b (112 + 4 * fm.code + rm.code)]
  | .fCmp d a b fm cond => [word 0x05 d a b (128 + 4 * fm.code + cond.code)]
  | .fCvt d a dk sk rm => [word 0x05 d a (8 * dk.code + sk.code) (144 + rm.code)]
  | .fClass d a fm rm => [word 0x05 d a 0 (160 + 4 * fm.code + rm.code)]
  | .bEq a b off => [word 0x06 (off.toNat / 32) a b (8 * (off.toNat % 32) + 0)]
  | .bNe a b off => [word 0x06 (off.toNat / 32) a b (8 * (off.toNat % 32) + 1)]
  | .bLt a b off => [word 0x06 (off.toNat / 32) a b (8 * (off.toNat % 32) + 2)]
  | .bGe a b off => [word 0x06 (off.toNat / 32) a b (8 * (off.toNat % 32) + 3)]
  | .bLtn a b off => [word 0x06 (off.toNat / 32) a b (8 * (off.toNat % 32) + 4)]
  | .bGen a b off => [word 0x06 (off.toNat / 32) a b (8 * (off.toNat % 32) + 5)]
  | .jLink d off => [word 0x07 d (off.toNat / 4096) (off.toNat / 64 % 64) (4 * (off.toNat % 64))]
  | .jInd d a off => [word 0x07 d a (off.toNat / 64) (4 * (off.toNat % 64) + 1)]
  | .lnSet d a gr np kb => [word 0x08 d a (16 * gr.code) (32 * np + 16 * kb.toNat)]
  | .lnShuttle d a b np kb es0 es1 es2 es3 off => [word 0x08 d a b (32 * np + 16 * kb.toNat + 1), es0.code * 536870912 + es1.code * 67108864 + es2.code * 8388608 + es3.code * 1048576 + off.toNat]
  | .lnTrim d a => [word 0x08 d a 0 2]
  | .lnRel => [word 0x08 0 0 0 3]
  | .crRd d cn => [word 0x09 d 0 (cn / 64) (4 * (cn % 64))]
  | .crWr d a cn => [word 0x09 d a (cn / 64) (4 * (cn % 64) + 1)]
  | .crSet d a cn => [word 0x09 d a (cn / 64) (4 * (cn % 64) + 2)]
  | .crClr d a cn => [word 0x09 d a (cn / 64) (4 * (cn % 64) + 3)]
  | .ldS8 d a cls off => [word 0x0A d a (0 + cls / 2) (128 * (cls % 2) + off.toNat)]
  | .ldN8 d a cls off => [word 0x0A d a (8 + cls / 2) (128 * (cls % 2) + off.toNat)]
  | .ldS16 d a cls off => [word 0x0A d a (16 + cls / 2) (128 * (cls % 2) + off.toNat)]
  | .ldN16 d a cls off => [word 0x0A d a (24 + cls / 2) (128 * (cls % 2) + off.toNat)]
  | .ldS32 d a cls off => [word 0x0A d a (32 + cls / 2) (128 * (cls % 2) + off.toNat)]
  | .ldN32 d a cls off => [word 0x0A d a (40 + cls / 2) (128 * (cls % 2) + off.toNat)]
  | .ldX64 d a cls off => [word 0x0A d a (48 + cls / 2) (128 * (cls % 2) + off.toNat)]
  | .stS8 d a cls off => [word 0x0B d a (0 + cls / 2) (128 * (cls % 2) + off.toNat)]
  | .stS16 d a cls off => [word 0x0B d a (16 + cls / 2) (128 * (cls % 2) + off.toNat)]
  | .stS32 d a cls off => [word 0x0B d a (32 + cls / 2) (128 * (cls % 2) + off.toNat)]
  | .stX64 d a cls off => [word 0x0B d a (48 + cls / 2) (128 * (cls % 2) + off.toNat)]
  | .amAdd d a b ord sco => [word 0x0C d a b (0 + 4 * ord.code + sco.code)]
  | .amAnd d a b ord sco => [word 0x0C d a b (16 + 4 * ord.code + sco.code)]
  | .amOr d a b ord sco => [word 0x0C d a b (32 + 4 * ord.code + sco.code)]
  | .amXor d a b ord sco => [word 0x0C d a b (48 + 4 * ord.code + sco.code)]
  | .amMax d a b ord sco => [word 0x0C d a b (64 + 4 * ord.code + sco.code)]
  | .amMin d a b ord sco => [word 0x0C d a b (80 + 4 * ord.code + sco.code)]
  | .amMaxn d a b ord sco => [word 0x0C d a b (96 + 4 * ord.code + sco.code)]
  | .amMinn d a b ord sco => [word 0x0C d a b (112 + 4 * ord.code + sco.code)]
  | .amSwap d a b ord sco => [word 0x0C d a b (128 + 4 * ord.code + sco.code)]
  | .amCas d a b ord sco => [word 0x0C d a b (144 + 4 * ord.code + sco.code)]
  | .amLd d a ord sco => [word 0x0C d a 0 (160 + 4 * ord.code + sco.code)]
  | .amSt d a ord sco => [word 0x0C d a 0 (176 + 4 * ord.code + sco.code)]
  | .yFence cmask sco => [word 0x0D (cmask.toNat / 1024) (cmask.toNat / 16 % 64) (4 * (cmask.toNat % 16) + sco.code / 2) (128 * (sco.code % 2))]
  | .yXfence pa pb sco => [word 0x0D (pa.toNat / 4) (16 * (pa.toNat % 4) + pb.toNat / 16) (4 * (pb.toNat % 16) + sco.code / 2) (128 * (sco.code % 2) + 1)]
  | .yBar => [word 0x0D 0 0 0 2]
  | .yEnd => [word 0x0D 0 0 0 3]
  | .yWait d a b => [word 0x0D d a b 4]
  | .ride pe pid he hid ce cls => [word 0x0E (32 * pe.toNat + pid) (32 * he.toNat + hid) (32 * ce.toNat + 2 * cls) 0]
  | .zCall => [word 0x0F 0 0 0 0]
  | .zBrk => [word 0x0F 0 0 0 8]
  | .zRet => [word 0x0F 0 0 0 16]
  | .zHres d a => [word 0x0F d a 0 24]
  | .zHstop d a => [word 0x0F d a 0 32]
  | .zInva a => [word 0x0F 0 a 0 40]
  | .zInvs a b => [word 0x0F 0 a b 48]
  | .zInvp => [word 0x0F 0 0 0 56]
  | .zSpawn d a => [word 0x0F d a 0 64]
  | .zKill d a b => [word 0x0F d a b 72]
  | .zYield => [word 0x0F 0 0 0 80]
  | .zWsopen d a => [word 0x0F d a 0 88]
  | .zWsclose d a => [word 0x0F d a 0 96]
  | .vAdd d a b km sat => [word (0x10 + sat.toNat) d a b (8 * km + 0)]
  | .vSub d a b km sat => [word (0x10 + sat.toNat) d a b (8 * km + 1)]
  | .vMul d a b km sat => [word (0x10 + sat.toNat) d a b (8 * km + 2)]
  | .vFma d a b km => [word 0x10 d a b (8 * km + 3)]
  | .vFms d a b km => [word 0x10 d a b (8 * km + 4)]
  | .vDiv d a b km => [word 0x10 d a b (8 * km + 5)]
  | .vMin d a b km => [word 0x10 d a b (8 * km + 6)]
  | .vMax d a b km => [word 0x10 d a b (8 * km + 7)]
  | .vAnd d a b km => [word 0x12 d a b (8 * km + 0)]
  | .vOr d a b km => [word 0x12 d a b (8 * km + 1)]
  | .vXor d a b km => [word 0x12 d a b (8 * km + 2)]
  | .vShl d a b km => [word 0x12 d a b (8 * km + 3)]
  | .vShr d a b km => [word 0x12 d a b (8 * km + 4)]
  | .vSar d a b km => [word 0x12 d a b (8 * km + 5)]
  | .vSel d a b km => [word 0x12 d a b (8 * km + 6)]
  | .vSlide d a b km => [word 0x12 d a b (8 * km + 7)]
  | .vPerm d a b km => [word 0x13 d a b (8 * km)]
  | .vComp d a km => [word 0x13 d a 0 (8 * km + 1)]
  | .vExpd d a km => [word 0x13 d a 0 (8 * km + 2)]
  | .vRev d a km => [word 0x13 d a 0 (8 * km + 3)]
  | .vIota d km => [word 0x13 d 0 0 (8 * km + 4)]
  | .vMvx d a b => [word 0x13 d a b 5]
  | .vTr d a b km => [word 0x13 d a b (8 * km + 6)]
  | .vTc d a b km => [word 0x13 d a b (8 * km + 7)]
  | .vCmp d a b km cond => [word 0x14 d a b (8 * km + cond.code)]
  | .vAbs d a km => [word 0x15 d a 0 (8 * km)]
  | .vNeg d a km => [word 0x15 d a 1 (8 * km)]
  | .vNot d a km => [word 0x15 d a 2 (8 * km)]
  | .vSqrt d a km => [word 0x15 d a 3 (8 * km)]
  | .vExp2 d a km => [word 0x15 d a 4 (8 * km)]
  | .vLog2 d a km => [word 0x15 d a 5 (8 * km)]
  | .vCvt d a km md => [word 0x15 d a 6 (8 * km + md.code)]
  | .vTag d a km md => [word 0x15 d a 7 (8 * km + md.code)]
  | .vMov d a km => [word 0x15 d a 8 (8 * km)]
  | .vSplat d a km md => [word 0x15 d a 9 (8 * km + md.code)]
  | .vrSum d a km => [word 0x16 d a 0 (8 * km + 0)]
  | .vrMax d a km => [word 0x16 d a 0 (8 * km + 1)]
  | .vrMin d a km => [word 0x16 d a 0 (8 * km + 2)]
  | .vrAnd d a km => [word 0x16 d a 0 (8 * km + 3)]
  | .vrOr d a km => [word 0x16 d a 0 (8 * km + 4)]
  | .kAnd d a b => [word 0x17 d a b 0]
  | .kOr d a b => [word 0x17 d a b 8]
  | .kXor d a b => [word 0x17 d a b 16]
  | .kAndn d a b => [word 0x17 d a b 24]
  | .kNot d a => [word 0x17 d a 0 32]
  | .kMov d a => [word 0x17 d a 0 40]
  | .kWhile d a b => [word 0x17 d a b 48]
  | .kBrka d a => [word 0x17 d a 0 56]
  | .kBrkb d a => [word 0x17 d a 0 64]
  | .kCnt d a => [word 0x17 d a 0 72]
  | .kFirst d a => [word 0x17 d a 0 80]
  | .vldUn d a km fmt => [word (0x18 + fmt.code / 8) d a 0 (8 * km + fmt.code % 8)]
  | .vldSd d a b km fmt => [word (0x1A + fmt.code / 8) d a b (8 * km + fmt.code % 8)]
  | .vldX d a b km fmt => [word (0x1C + fmt.code / 8) d a b (8 * km + fmt.code % 8)]
  | .vldSm d a km => [word 0x1E d a 0 (8 * km)]
  | .qldUn d a km => [word 0x1F d a 0 (8 * km)]
  | .qldSd d a b km => [word 0x1F d a b (8 * km + 1)]
  | .vstUn d a km fmt => [word (0x20 + fmt.code / 8) d a 0 (8 * km + fmt.code % 8)]
  | .vstSd d a b km fmt => [word (0x22 + fmt.code / 8) d a b (8 * km + fmt.code % 8)]
  | .vstX d a b km fmt => [word (0x24 + fmt.code / 8) d a b (8 * km + fmt.code % 8)]
  | .vstXa d a b km fmt => [word 0x26 d a b (8 * km + fmt.code)]
  | .vstSm d a km => [word 0x27 d a 0 (8 * km)]
  | .vstQun d a km => [word 0x28 d a 0 (8 * km)]
  | .vstQsd d a b km => [word 0x28 d a b (8 * km + 1)]
  | .vamAdd d a b km => [word 0x29 d a b (8 * km + 0)]
  | .vamMin d a b km => [word 0x29 d a b (8 * km + 1)]
  | .vamMax d a b km => [word 0x29 d a b (8 * km + 2)]
  | .vamAnd d a b km => [word 0x29 d a b (8 * km + 3)]
  | .vamOr d a b km => [word 0x29 d a b (8 * km + 4)]
  | .vamXor d a b km => [word 0x29 d a b (8 * km + 5)]
  | .vamSwap d a b km => [word 0x29 d a b (8 * km + 6)]
  | .sBind d a => [word 0x2A d a 0 0]
  | .sRel d => [word 0x2A d 0 0 32]
  | .sSkip d a => [word 0x2A d a 0 64]
  | .sPos d a => [word 0x2A d a 0 96]
  | .qAdd d a b c => [word 0x2B d a b (0 + 4 * c.toNat)]
  | .qSub d a b c => [word 0x2B d a b (8 + 4 * c.toNat)]
  | .qMul d a b c => [word 0x2B d a b (16 + 4 * c.toNat)]
  | .qDiv d a b c => [word 0x2B d a b (24 + 4 * c.toNat)]
  | .qSqr d a c => [word 0x2B d a 0 (32 + 4 * c.toNat)]
  | .qSqrt d a c => [word 0x2B d a 0 (40 + 4 * c.toNat)]
  | .qExp d a c => [word 0x2B d a 0 (48 + 4 * c.toNat)]
  | .qLog d a c => [word 0x2B d a 0 (56 + 4 * c.toNat)]
  | .qMin d a b c => [word 0x2B d a b (64 + 4 * c.toNat)]
  | .qMax d a b c => [word 0x2B d a b (72 + 4 * c.toNat)]
  | .qHull d a b => [word 0x2B d a b 80]
  | .qMeet d a b => [word 0x2B d a b 88]
  | .qSplit d a => [word 0x2B d a 0 96]
  | .qCmp d a b cond => [word 0x2B d a b (104 + cond.code)]
  | .qMk d a b => [word 0x2B d a b 112]
  | .qPt d a => [word 0x2B d a 0 120]
  | .qLo d a => [word 0x2B d a 0 128]
  | .qHi d a => [word 0x2B d a 0 136]
  | .qWid d a => [word 0x2B d a 0 144]
  | .qMid d a => [word 0x2B d a 0 152]
  | .qAxpy d a b w c => [word 0x2E d a b (8 * w + 4 * c.toNat)]
  | .mCfg a => [word 0x2C 0 a 0 0]
  | .mZero d => [word 0x2C d 0 0 16]
  | .mOp d a b pp => [word 0x2C d a b (32 + pp)]
  | .mOpc d a b pp => [word 0x2C d a b (48 + pp)]
  | .mOps d a b pp => [word 0x2C d a b (64 + pp)]
  | .mPrep a => [word 0x2C 0 a 0 80]
  | .mSt d a => [word 0x2C d a 0 96]
  | .mLd d a => [word 0x2C d a 0 112]
  | .mInv a b => [word 0x2C 0 a b 128]
  | .eCpy d a => [word 0x2D d a 0 0]
  | .eWsl d a => [word 0x2D d a 0 32]
  | .ePut d a => [word 0x2D d a 0 64]
  | .eGet d a => [word 0x2D d a 0 96]
  | .eRed d a => [word 0x2D d a 0 128]
  | .eWait d a => [word 0x2D d a 0 160]
  | .hint h => [0x01 * 67108864 + h.toNat]
  | .emulate w => [w]
  | .illegalWord w => [w]
  | .vsave _ => []
  | .vload _ => []
  | .vclear _ => []
  | .tsave _ => []
  | .tload _ => []
  | .tenable _ => []
  | .tdisable _ => []
  | .windowCommandDone _ => []
  | .recoveryQuiet _ => []
  | .recoverySave _ => []
  | .recoveryRestore _ => []
  | .recoveryCommandDone _ => []
  | .resourceDrained _ => []
  | .preemptRequest _ _ => []
  | .placement _ => []
  | .engineCommandStart _ _ => []
  | .engineCommandComplete _ _ => []
  | .patternCompileDone _ _ => []
  | .invalidationAck _ => []
  | .gangLateStart _ _ _ => []
  | .streamTranslateAhead _ _ => []
  | .regrantRequest _ _ _ _ => []
  | .laneRegrantRaise _ _ _ => []
  | .preemptFallback _ => []
  | .budgetPeriodStart => []
  | .gangPreempt _ _ => []
  | .gangSliceStart _ _ => []
  | .gangSliceEnd _ _ => []
  | .refreshStart _ => []
  | .refreshEnd _ => []
  | .waitReread _ => []
  | .tokenPopResume _ => []
  | .tokenPushResume _ => []
  | .barrierRelease _ => []
  | .endComplete _ => []
  | .dispatchResume _ => []
  | .replyWrite _ => []
  | .eWaitDone _ => []
  | .streamReadAhead _ _ => []
  | .interruptTake _ => []
  | .windowFieldWrite _ _ _ => []
  | .platWrite _ _ _ _ _ => []
  | .firmwareScrub _ => []
  | .budgetSnapshot _ _ => []
  | .recoveryHold _ _ => []
  | .deviceRegisterWrite _ _ _ _ _ => []
  | .hostWrite _ _ _ _ => []
  | .hostRead _ _ _ => []
  | .vfFlr _ => []
  | .pfFlr => []
  | .packageReset => []
  | .attestationRequest _ => []
  | .powerCapSet _ => []
  | .flitResend _ => []
  | .timeMessage _ _ => []
  | .throttleAdjust _ _ => []
  | .thermalTrip => []
  | .tripEnd => []
  | .healthUpdate _ _ _ _ _ _ => []
  | .fabricRequestReceive _ => []
  | .recoveryImageLoad _ => []
  | .securityVersionRaise _ => []
  | .loomPortRetrain _ => []

/-- The four bytes of a word, lowest address first (R39). -/
def wordBytes (w : Nat) : List Byte :=
  [.ofNat 8 w, .ofNat 8 (w / 256), .ofNat 8 (w / 65536), .ofNat 8 (w / 16777216)]

/-- The bytes of an instruction (R39). -/
def encode (i : Instr) : List Byte := (encodeWords i).flatMap wordBytes

/-- The first word of an instruction, 0 for an event. -/
def firstWord (i : Instr) : Nat := (encodeWords i).headD 0

/-- The bytes an instruction occupies (R40): 4, or 8 for a two-word instruction. -/
def lengthOf (i : Instr) : Nat := 4 * (encodeWords i).length

/-- The instruction whose bits, numbered as the opcode table numbers them, are w: the first word in bits 31:0, the
second, if there is one, in bits 63:32. -/
def decodeTableWord (_nbits w : Nat) : Option Instr :=
  match decode (wordBytes w ++ wordBytes (w / 4294967296)) with
  | .ok (i, _) => some i
  | .error _ => none

end Sys2Proof
end

