-- ==== Sys2Proof/Machine/Num.lean ====
section
/-!
DEFINITION. Num.lean: exact values, and rounding them into IEEE formats (spec/04_numbers.md R85 to R91, R100, R103,
R104, R107). A finite value is a sign, a natural number and a power of two; a result that is not a dyadic number (a
quotient, a root, a logarithm) is carried to more bits than any format holds, with its last bit set to say that
something follows, which rounds as the exact value does.
-/

namespace Sys2Proof.Machine

/-- Arithmetic flags: SAT 5, NV 4, DZ 3, OF 2, UF 1, NX 0 (R85, R113). -/
abbrev Flags := BitVec 6

def Flags.nx : Flags := 1
def Flags.uf : Flags := 2
def Flags.of : Flags := 4
def Flags.dz : Flags := 8
def Flags.nv : Flags := 16
def Flags.sat : Flags := 32

/-- A floating format: precision with the hidden bit, and exponent bits (R88). -/
structure Fl where
  prec : Nat
  ebits : Nat
deriving DecidableEq, Repr

def Fl.f64 : Fl := ⟨53, 11⟩
def Fl.f32 : Fl := ⟨24, 8⟩
def Fl.bf16 : Fl := ⟨8, 8⟩

/-- The format a fm field names (R44). -/
def flOf : Fm → Fl
  | .f64 => Fl.f64
  | .f32 => Fl.f32
  | .bf16 => Fl.bf16

/-- An exact value: NaN (signalling or not), an infinity, or (-1)^neg m 2^e. -/
inductive Val | nan (signalling : Bool) | inf (neg : Bool) | fin (neg : Bool) (m : Nat) (e : Int)
deriving DecidableEq, Repr

/-- The exponent of the least significant bit of a subnormal. -/
def Fl.qmin (f : Fl) : Int := 2 - (2 ^ (f.ebits - 1) : Nat) - ((f.prec - 1 : Nat) : Int)
/-- The encoding of +infinity. -/
def Fl.infBits (f : Fl) : Nat := (2 ^ f.ebits - 1) * 2 ^ (f.prec - 1)
/-- The canonical NaN (R89). -/
def Fl.nanBits (f : Fl) : Nat := f.infBits + 2 ^ (f.prec - 2)
/-- The sign bit's weight. -/
def Fl.signBit (f : Fl) : Nat := 2 ^ (f.prec - 1 + f.ebits)
/-- An encoding with a sign. -/
def Fl.withSign (f : Fl) (neg : Bool) (bits : Nat) : Nat := if neg then f.signBit + bits else bits

/-- The value of an encoding (R88). -/
def unpack (f : Fl) (bits : Nat) : Val :=
  let frac := bits % 2 ^ (f.prec - 1)
  let ex := bits / 2 ^ (f.prec - 1) % 2 ^ f.ebits
  let neg := bits / f.signBit % 2 == 1
  if ex = 2 ^ f.ebits - 1 then
    if frac = 0 then .inf neg else .nan (decide (frac < 2 ^ (f.prec - 2)))
  else if ex = 0 then .fin neg frac f.qmin
  else .fin neg (frac + 2 ^ (f.prec - 1)) (f.qmin + (ex - 1 : Nat))

/-- m shifted right and rounded, with whether anything was lost (R91); a shift past every bit of m rounds as a shift
by two more than its length does. -/
def roundShift (mode : Rm) (neg : Bool) (m shift : Nat) : Nat × Bool :=
  let sh := min shift (m.log2 + 2)
  let q := m / 2 ^ sh
  let r := m % 2 ^ sh
  let up := match mode with
    | .rne => decide (2 ^ sh < 2 * r) || (decide (2 ^ sh = 2 * r) && q % 2 == 1)
    | .rtz => false
    | .rdn => neg && decide (r ≠ 0)
    | .rup => !neg && decide (r ≠ 0)
  (if up then q + 1 else q, decide (r ≠ 0))

/-- m 2^e as a multiple of 2^q, rounded. -/
def roundAt (mode : Rm) (neg : Bool) (m : Nat) (e q : Int) : Nat × Bool :=
  if q ≤ e then (m * 2 ^ (e - q).toNat, false) else roundShift mode neg m (q - e).toNat

/-- Overflow gives infinity in the modes that round away, else the largest finite value (R91). -/
def overflowBits (f : Fl) (mode : Rm) (neg : Bool) : Nat :=
  match mode, neg with
  | .rtz, _ | .rdn, false | .rup, true => f.infBits - 1
  | _, _ => f.infBits

/-- A non-zero finite value rounded into a format, with its flags; tininess is detected after rounding (R85). -/
def roundFin (f : Fl) (mode : Rm) (neg : Bool) (m : Nat) (e : Int) : Nat × Flags :=
  let top := e + (m.log2 : Nat)
  let p1 : Int := (f.prec - 1 : Nat)
  let q := max (top - p1) f.qmin
  let (n, inexact) := roundAt mode neg m e q
  let bits := (q - f.qmin).toNat * 2 ^ (f.prec - 1) + n
  if f.infBits ≤ bits then (f.withSign neg (overflowBits f mode neg), Flags.of ||| Flags.nx)
  else
    let free := (roundAt mode neg m e (top - p1)).1
    let emin := f.qmin + p1
    let tiny := decide (top < emin) && !(decide (top + 1 = emin) && decide (free = 2 ^ f.prec))
    let fl : Flags := if inexact then (if tiny then Flags.uf ||| Flags.nx else Flags.nx) else 0
    (f.withSign neg bits, fl)

/-- A value encoded in a format (R89, R100). -/
def pack (f : Fl) (mode : Rm) : Val → Nat × Flags
  | .nan s => (f.nanBits, if s then Flags.nv else 0)
  | .inf neg => (f.withSign neg f.infBits, 0)
  | .fin neg 0 _ => (f.withSign neg 0, 0)
  | .fin neg (m + 1) e => roundFin f mode neg (m + 1) e

/-! ## Exact operations -/

/-- The signed integer m 2^(e - q), for q at most e. -/
def scaled (neg : Bool) (m : Nat) (e q : Int) : Int :=
  let v : Int := (m * 2 ^ (e - q).toNat : Nat)
  if neg then -v else v

/-- A NaN operand was signalling. -/
def Val.signals : Val → Bool
  | .nan s => s
  | _ => false

def Val.isNan : Val → Bool
  | .nan _ => true
  | _ => false

def Val.negate : Val → Val
  | .nan s => .nan s
  | .inf n => .inf (!n)
  | .fin n m e => .fin (!n) m e

def Val.neg? : Val → Bool
  | .nan _ => false
  | .inf n => n
  | .fin n _ _ => n

def Val.isZero : Val → Bool
  | .fin _ 0 _ => true
  | _ => false

/-- The quiet NaN with the invalid flag. -/
def invalid : Val × Flags := (.nan false, Flags.nv)

/-- The quiet NaN, invalid where an operand was signalling (R89). -/
def nanOf (vs : List Val) : Val × Flags := (.nan false, if vs.any Val.signals then Flags.nv else 0)

/-- The exact sum of two finite values; the sign of a zero sum depends on the mode (IEEE 754). -/
def addFin (mode : Rm) (n1 : Bool) (m1 : Nat) (e1 : Int) (n2 : Bool) (m2 : Nat) (e2 : Int) : Val :=
  let q := min e1 e2
  let s := scaled n1 m1 e1 q + scaled n2 m2 e2 q
  if s = 0 then .fin (if n1 = n2 then n1 else mode == .rdn) 0 q else .fin (decide (s < 0)) s.natAbs q

def addV (mode : Rm) : Val → Val → Val × Flags
  | .fin n1 m1 e1, .fin n2 m2 e2 => (addFin mode n1 m1 e1 n2 m2 e2, 0)
  | .inf n1, .inf n2 => if n1 = n2 then (.inf n1, 0) else invalid
  | .inf n, .fin _ _ _ => (.inf n, 0)
  | .fin _ _ _, .inf n => (.inf n, 0)
  | a, b => nanOf [a, b]

def mulV : Val → Val → Val × Flags
  | .fin n1 m1 e1, .fin n2 m2 e2 => (.fin (n1 != n2) (m1 * m2) (e1 + e2), 0)
  | .inf n1, .inf n2 => (.inf (n1 != n2), 0)
  | .inf n1, .fin n2 m _ => if m = 0 then invalid else (.inf (n1 != n2), 0)
  | .fin n1 m _, .inf n2 => if m = 0 then invalid else (.inf (n1 != n2), 0)
  | a, b => nanOf [a, b]

/-- a b + c with one rounding; 0 times infinity is invalid whatever c is (R104). -/
def fmaV (mode : Rm) (a b c : Val) : Val × Flags :=
  let (p, fl) := mulV a b
  if p.isNan then (.nan false, fl ||| (nanOf [c]).2)
  else
    let (s, fl2) := addV mode p c
    (s, fl ||| fl2)

/-- Bits a quotient or root is carried to; more than the widest precision plus two. -/
def workBits : Nat := 72

/-- The quotient of two finite values, the second non-zero, with a last bit for the rest. -/
def divFin (neg : Bool) (m1 : Nat) (e1 : Int) (m2 : Nat) (e2 : Int) : Val :=
  let sh := workBits + m2.log2
  let num := m1 * 2 ^ sh
  .fin neg (2 * (num / m2) + (if num % m2 = 0 then 0 else 1)) (e1 - e2 - sh - 1)

def divV : Val → Val → Val × Flags
  | .fin n1 m1 e1, .fin n2 m2 e2 =>
    if m2 = 0 then (if m1 = 0 then invalid else (.inf (n1 != n2), Flags.dz))
    else if m1 = 0 then (.fin (n1 != n2) 0 0, 0)
    else (divFin (n1 != n2) m1 e1 m2 e2, 0)
  | .inf n1, .fin n2 _ _ => (.inf (n1 != n2), 0)
  | .fin n1 _ _, .inf n2 => (.fin (n1 != n2) 0 0, 0)
  | .inf _, .inf _ => invalid
  | a, b => nanOf [a, b]

/-- The largest r with r r at most n, found bit by bit from bit k down. -/
def isqrtFrom (n : Nat) : Nat → Nat → Nat
  | 0, r => r
  | k + 1, r => isqrtFrom n k (if (r + 2 ^ k) * (r + 2 ^ k) ≤ n then r + 2 ^ k else r)

def isqrt (n : Nat) : Nat := isqrtFrom n (n.log2 / 2 + 1) 0

/-- The root of a positive finite value, with a last bit for the rest. -/
def sqrtFin (m : Nat) (e : Int) : Val :=
  let sh := 2 * workBits + (e % 2).toNat
  let n := m * 2 ^ sh
  let r := isqrt n
  .fin false (2 * r + (if r * r = n then 0 else 1)) ((e - sh) / 2 - 1)

def sqrtV : Val → Val × Flags
  | .fin n m e => if m = 0 then (.fin n 0 e, 0) else if n then invalid else (sqrtFin m e, 0)
  | .inf n => if n then invalid else (.inf false, 0)
  | .nan s => nanOf [.nan s]

/-! ## Order -/

/-- a is below b, as extended reals; false when either is a NaN. -/
def Val.lt : Val → Val → Bool
  | .fin n1 m1 e1, .fin n2 m2 e2 =>
    let q := min e1 e2
    decide (scaled n1 m1 e1 q < scaled n2 m2 e2 q)
  | .inf n, .fin _ _ _ => n
  | .fin _ _ _, .inf n => !n
  | .inf n1, .inf n2 => n1 && !n2
  | _, _ => false

/-- a equals b; zeros of either sign are equal, NaN equals nothing (R90). -/
def Val.eq : Val → Val → Bool
  | .fin n1 m1 e1, .fin n2 m2 e2 =>
    let q := min e1 e2
    decide (scaled n1 m1 e1 q = scaled n2 m2 e2 q)
  | .inf n1, .inf n2 => n1 == n2
  | _, _ => false

def Val.le (a b : Val) : Bool := a.lt b || a.eq b

/-- min or max by R90: a NaN loses to a number, and -0 is below +0. -/
def minMaxV (max : Bool) (a b : Val) : Val × Flags :=
  let fl : Flags := if a.signals || b.signals then Flags.nv else 0
  match a.isNan, b.isNan with
  | true, true => (.nan false, fl)
  | true, false => (b, fl)
  | false, true => (a, fl)
  | false, false =>
    let aFirst := a.lt b || (a.eq b && a.neg?)
    (if aFirst == max then b else a, fl)

/-! ## Integers -/

/-- A finite value rounded to an integer, with whether it changed. -/
def roundInt (mode : Rm) (neg : Bool) (m : Nat) (e : Int) : Int × Bool :=
  let (n, inexact) := roundAt mode neg m e 0
  (if neg then -(n : Int) else n, inexact)

/-- A float converted to an integer between lo and hi (R103). -/
def toIntV (mode : Rm) (lo hi : Int) : Val → Int × Flags
  | .nan _ => (0, Flags.nv)
  | .inf neg => (if neg then lo else hi, Flags.nv)
  | .fin neg m e =>
    let (v, inexact) := roundInt mode neg m e
    if v < lo then (lo, Flags.nv) else if hi < v then (hi, Flags.nv)
    else (v, if inexact then Flags.nx else 0)

/-- An integer as an exact value. -/
def ofInt (v : Int) : Val := .fin (decide (v < 0)) v.natAbs 0

/-! ## exp2 and log2 (R107) -/

/-- Bits of the fixed-point work of exp2. -/
def expBits : Nat := 384

/-- ln 2 times 2^384, rounded down. -/
def ln2Fixed : Nat :=
  27311389503436327984859642001965014295881604093268141717219425985154158335678826923825841039545353940567474963094288

/-- The sum of y^k / k! with y = num / 2^384, each term rounded down: n further terms from the term t of index k. -/
def expSum (y : Nat) : Nat → Nat → Nat → Nat → Nat
  | 0, _, _, acc => acc
  | n + 1, k, t, acc => expSum y n (k + 1) (t * y / 2 ^ expBits / (k + 1)) (acc + t)

/-- 2^f for f = num / 2^384 below 1, times 2^384, rounded down; 96 terms leave less than 2^-384 out. -/
def exp2Frac (f : Nat) : Nat := expSum (f * ln2Fixed / 2 ^ expBits) 96 0 (2 ^ expBits) 0

/-- 2^x for a finite non-zero x. An integer x is exact. Otherwise 2^x is irrational: the 160 leading bits of the
enclosure decide every FP32 rounding, and the last bit says that more follows. Beyond 2^40 in magnitude the result
rounds as 2^(2^40) or 2^(-2^40) does. -/
def exp2Fin (neg : Bool) (m : Nat) (e : Int) : Val :=
  let big := decide (40 < e + (m.log2 : Nat))
  if big then (if neg then .fin false 1 (-(2 ^ 40 : Int)) else .fin false 1 (2 ^ 40 : Int))
  else
    let q : Int := -(expBits : Int)
    let x := scaled neg (roundAt .rtz false m e q).1 q q
    let k := x / (2 ^ expBits : Int)
    let f := (x % (2 ^ expBits : Int)).toNat
    if f = 0 then .fin false 1 k
    else .fin false (2 * (exp2Frac f / 2 ^ 208) + 1) (k - 176 - 1)

/-- exp2 with its special values (R107). -/
def exp2V : Val → Val × Flags
  | .nan s => nanOf [.nan s]
  | .inf neg => if neg then (.fin false 0 0, 0) else (.inf false, 0)
  | .fin neg m e => if m = 0 then (.fin false 1 0, 0) else (exp2Fin neg m e, 0)

/-- Bits of the fixed-point work of log2, and bits of the fraction it gives. -/
def logBits : Nat := 512
def logFrac : Nat := 128

/-- The next n bits of log2 of y / 2^512, with y from 2^512 up to 2^513, by repeated squaring. -/
def log2Bits : Nat → Nat → Nat → Nat
  | 0, _, acc => acc
  | n + 1, y, acc =>
    let z := y * y / 2 ^ logBits
    if 2 ^ (logBits + 1) ≤ z then log2Bits n (z / 2) (2 * acc + 1) else log2Bits n z (2 * acc)

/-- log2 of a positive finite value: an integer for a power of two, else irrational, carried to 128 bits of fraction
with a last bit that says that more follows. -/
def log2Fin (m : Nat) (e : Int) : Val :=
  let top := e + (m.log2 : Nat)
  if m = 2 ^ m.log2 then ofInt top
  else
    let f := log2Bits logFrac (m * 2 ^ (logBits - m.log2)) 0
    let v : Int := top * (2 ^ (logFrac + 1) : Int) + (2 * f + 1 : Nat)
    .fin (decide (v < 0)) v.natAbs (-(logFrac : Int) - 1)

/-- log2 with its special values (R107). -/
def log2V : Val → Val × Flags
  | .nan s => nanOf [.nan s]
  | .inf neg => if neg then invalid else (.inf false, 0)
  | .fin neg m e =>
    if m = 0 then (.inf true, Flags.dz) else if neg then invalid else (log2Fin m e, 0)

/-! ## FP32 slots -/

/-- A flushed input: a subnormal of a format reads as a zero of its sign (R87). -/
def flushIn (ftz : Bool) (f : Fl) (bits : Nat) : Nat :=
  if ftz && bits / 2 ^ (f.prec - 1) % 2 ^ f.ebits == 0 then bits / f.signBit * f.signBit else bits

/-- A flushed result: a subnormal becomes a zero of its sign and sets UF and NX (R87). -/
def flushOut (ftz : Bool) (f : Fl) (r : Nat × Flags) : Nat × Flags :=
  if ftz && r.1 / 2 ^ (f.prec - 1) % 2 ^ f.ebits == 0 && !(r.1 % 2 ^ (f.prec - 1) == 0) then
    (r.1 / f.signBit * f.signBit, r.2 ||| Flags.uf ||| Flags.nx)
  else r

/-- An exact result with its flags, rounded into a format. -/
def finishV (f : Fl) (mode : Rm) (r : Val × Flags) : Nat × Flags :=
  let (b, fl) := pack f mode r.1
  (b, r.2 ||| fl)

/-- down and up (R100): a value rounded to FP32 toward -infinity or +infinity, no flags. -/
def downF32 (v : Val) : Nat := (pack Fl.f32 .rdn v).1
def upF32 (v : Val) : Nat := (pack Fl.f32 .rup v).1

end Sys2Proof.Machine
end

