-- ==== Sys2Proof/Machine/Formats.lean ====
section
/-!
DEFINITION. Formats.lean: the narrow memory formats and the block scale (spec/04_numbers.md R92 to R102), widening on
load and narrowing on store (R60, R249), and the conversions of copy commands (spec/12_queues.md R303).
-/

namespace Sys2Proof.Machine

/-- The format holds integers (R45). -/
def Fmt.isInt : Fmt → Bool
  | .s8 | .n8 | .s16 | .n16 | .s32 | .n32 | .ix => true
  | _ => false

/-- Bytes of one element; 0 for the two packed formats (R45). -/
def Fmt.bytes : Fmt → Nat
  | .s8 | .n8 | .e4m3 | .e5m2 | .t8 | .e8m0 => 1
  | .s16 | .n16 | .bf16 => 2
  | .s32 | .n32 | .f32 | .ix | .pk => 4
  | .t6 | .e2m1 => 0

/-- Bytes of the access an element makes: the 3-byte group of t6, the byte of e2m1 (R163). -/
def Fmt.span : Fmt → Nat
  | .t6 => 3
  | .e2m1 => 1
  | f => Fmt.bytes f

/-- Alignment an element address must have (R164, R248): the element size, none for the packed and 1-byte formats. -/
def Fmt.align : Fmt → Nat
  | .t6 | .e2m1 => 1
  | f => Fmt.bytes f

/-- Bits of an element's code. -/
def Fmt.bits : Fmt → Nat
  | .t6 => 6
  | .e2m1 => 4
  | f => 8 * Fmt.bytes f

/-- The granule of a format: 4 for t6, 2 for e2m1 (R46, R183). -/
def Fmt.granule : Fmt → Nat
  | .t6 => 4
  | .e2m1 => 2
  | _ => 1

/-- The feature bit of R52 a format needs: tapered 3, MX 4. -/
def Fmt.feature : Fmt → Option Nat
  | .t8 | .t6 => some 3
  | .e2m1 | .e8m0 => some 4
  | _ => none

/-- Bytes of n elements laid out as an array (R94, R98). -/
def Fmt.arrayBytes (f : Fmt) (n : Nat) : Nat := match f with
  | .t6 => 3 * ((n + 3) / 4)
  | .e2m1 => (n + 1) / 2
  | f => n * Fmt.bytes f

/-! ## Magnitudes in units of 2^-16 (R92, R95, R97) -/

/-- The run of equal bits at the top of the low w bits of c, the bit being v: its length. -/
def regimeRun (c : Nat) (v : Nat) : Nat → Nat
  | 0 => 0
  | w + 1 => if c / 2 ^ w % 2 = v then 1 + regimeRun c v w else 0

/-- A tapered magnitude of w bits with x exponent bits (1 for T8, 0 for T6), times 2^16. -/
def taperedMag (w x c : Nat) : Nat :=
  if c = 0 then 0
  else
    let top := c / 2 ^ (w - 1) % 2
    let r := regimeRun c top w
    let k : Int := if top = 1 then (r : Int) - 1 else -(r : Int)
    let rest := w - r - 1
    let n := rest - x
    let e := if x = 1 && decide (1 ≤ rest) then c / 2 ^ (rest - 1) % 2 else 0
    let frac := c % 2 ^ n
    let scale : Int := (if x = 1 then 2 * k else k) + (e : Int) - (n : Int) + 16
    (2 ^ n + frac) * 2 ^ scale.toNat

/-- The magnitude of a narrow format's code without its sign, times 2^16. -/
def narrowMag : Fmt → Nat → Nat
  | .e4m3, c => if c / 8 = 0 then c % 8 * 2 ^ 7 else (8 + c % 8) * 2 ^ (c / 8 + 6)
  | .e5m2, c => if c / 4 = 0 then c % 4 else (4 + c % 4) * 2 ^ (c / 4 - 1)
  | .e2m1, c => if c / 2 = 0 then c % 2 * 2 ^ 15 else (2 + c % 2) * 2 ^ (c / 2 + 14)
  | .t8, c => taperedMag 7 1 c
  | .t6, c => taperedMag 5 0 c
  | _, _ => 0

/-- The largest finite code without its sign (R92, R96, R97). -/
def narrowMax : Fmt → Nat
  | .e4m3 => 0x7E
  | .e5m2 => 0x7B
  | .e2m1 => 7
  | .t8 => 0x7F
  | .t6 => 0x1F
  | _ => 0

/-- The weight of a narrow format's sign bit. -/
def narrowSign : Fmt → Nat
  | .e2m1 => 8
  | .t6 => 32
  | _ => 128

/-- The value of a narrow format's code (R99). -/
def narrowVal (f : Fmt) (code : Nat) : Val :=
  let mag := code % narrowSign f
  let neg := code / narrowSign f % 2 == 1
  match f with
  | .t8 | .t6 => if mag = 0 then (if neg then .nan false else .fin false 0 0) else .fin neg (narrowMag f mag) (-16)
  | .e4m3 => if mag = 0x7F then .nan false else .fin neg (narrowMag f mag) (-16)
  | .e5m2 => if 0x7D ≤ mag then .nan false else if mag = 0x7C then .inf neg else .fin neg (narrowMag f mag) (-16)
  | _ => .fin neg (narrowMag f mag) (-16)

/-- The largest code with magnitude at most v (in units of 2^q, q at most -16), bit by bit from bit k down. -/
def narrowFloor (f : Fmt) (v : Nat) (q : Int) : Nat → Nat → Nat
  | 0, c => c
  | k + 1, c =>
    let c' := c + 2 ^ k
    narrowFloor f v q k (if c' ≤ narrowMax f && decide (narrowMag f c' * 2 ^ (-16 - q).toNat ≤ v) then c' else c)

/-- R101: a value encoded in a narrow format. -/
def narrowEncode (f : Fmt) : Val → Nat
  | .nan _ => match f with
    | .e4m3 => 0x7F
    | .e5m2 => 0x7E
    | .t8 => 0x80
    | .t6 => 0x20
    | _ => 0
  | .inf neg => (if neg then narrowSign f else 0) + narrowMax f
  | .fin neg m e =>
    let q := min e (-17)
    let v := m * 2 ^ (e - q).toNat
    let one := 2 ^ (-16 - q).toNat
    let mag :=
      if narrowMag f (narrowMax f) * one ≤ v then narrowMax f
      else
        let c := narrowFloor f v q 7 0
        let sum := (narrowMag f c + narrowMag f (c + 1)) * one
        if 2 * v < sum then c else if sum < 2 * v then c + 1 else if c % 2 = 0 then c else c + 1
    let tapered := f = .t8 || f = .t6
    if mag = 0 && tapered then 0 else (if neg then narrowSign f else 0) + mag

/-- The value of an E8M0 code (R93). -/
def e8m0Val (b : Nat) : Val := if b = 255 then .nan false else .fin false 1 ((b : Int) - 127)

/-- The E8M0 code of a scale exponent, held to the range of R102. -/
def e8m0Code (e : Int) : Nat := (max (-127) (min 127 e) + 127).toNat

/-- floor(log2) of a non-zero finite magnitude. -/
def floorLog2 (m : Nat) (e : Int) : Int := e + (m.log2 : Nat)

/-! ## Slots -/

/-- A float slot's value under its tag (R88, R142). -/
def slotVal (t : Tag) (h : Half) : Val :=
  match t with
  | .bf16 => unpack Fl.bf16 (h.toNat / 65536)
  | _ => unpack Fl.f32 h.toNat

/-- The value of an element's code in a float memory format (R99). -/
def fmtVal (f : Fmt) (code : Nat) : Val :=
  match f with
  | .f32 => unpack Fl.f32 code
  | .bf16 => unpack Fl.bf16 code
  | .e8m0 => e8m0Val code
  | f => narrowVal f code

/-- The tag a load sets (R60). -/
def loadTag : Fmt → Tag
  | .s8 | .s16 | .s32 => .s32
  | .n8 | .n16 | .n32 => .n32
  | .ix => .ix
  | .bf16 => .bf16
  | .pk => .pk
  | _ => .fp32

/-- A code widened to its slot on load, exactly (R99, R60, R164); a NaN of a narrow float becomes the canonical one,
f32 and bf16 codes keep their bits. -/
def widen (f : Fmt) (code : Nat) : Half :=
  match f with
  | .s8 => (BitVec.ofNat 8 code).signExtend 32
  | .s16 => (BitVec.ofNat 16 code).signExtend 32
  | .bf16 => .ofNat 32 (code * 65536)
  | .n8 | .n16 | .s32 | .n32 | .f32 | .ix | .pk => .ofNat 32 code
  | f => .ofNat 32 (pack Fl.f32 .rne (fmtVal f code)).1

/-- A scaled element decoded to FP32: element times scale, rounded once (R99). -/
def widenScaled (f : Fmt) (code scale : Nat) : Half :=
  .ofNat 32 (pack Fl.f32 .rne (mulV (fmtVal f code) (e8m0Val scale)).1).1

/-- The source tags a store of a format accepts (R60, R249). -/
def storeAccepts (f : Fmt) (t : Tag) : Bool :=
  match f with
  | .pk => t == .pk
  | f => if Fmt.isInt f then t == .s32 || t == .n32 || t == .ix else t == .fp32 || t == .bf16

/-- A float value encoded in a float memory format in RNE, without flags (R100, R101, R249). -/
def encodeVal (f : Fmt) (v : Val) : Nat :=
  match f with
  | .f32 => (pack Fl.f32 .rne v).1
  | .bf16 => (pack Fl.bf16 .rne v).1
  | .e8m0 => match v with
    | .fin _ m e => if m = 0 then 0 else e8m0Code (floorLog2 m e)
    | _ => 255
  | f => narrowEncode f v

/-- A slot narrowed to its memory format (R249). DESIGN CHOICE (log 24): stored as f32, a slot tagged BF16 gives its 32 bits
unchanged, where the rule says both that and that bits 15:0 are zero, which v.tag can make untrue. -/
def narrow (f : Fmt) (t : Tag) (h : Half) : Nat :=
  match f with
  | .s8 | .n8 => h.toNat % 256
  | .s16 | .n16 => h.toNat % 65536
  | .s32 | .n32 | .ix | .pk | .f32 => h.toNat
  | f => encodeVal f (slotVal t h)

/-! ## Block scales (R102, R418) -/

/-- The scale code of one run of a block, from its values: 0xFF with a NaN or an infinity, 0x7F when all are zero. -/
def blockScale (f : Fmt) (vs : List Val) : Nat :=
  let special := vs.any fun v => match v with
    | .fin _ _ _ => false
    | _ => true
  if special then 255
  else
    let exps := vs.filterMap fun v => match v with
      | .fin _ m e => if m = 0 then none else some (floorLog2 m e)
      | _ => none
    match exps with
    | [] => 0x7F
    | x :: xs => e8m0Code (xs.foldl max x - (if f = .e2m1 then 2 else 0))

/-- An element of a block encoded with its scale code (R102). -/
def encodeScaled (f : Fmt) (scale : Nat) (v : Val) : Nat :=
  if scale = 255 then narrowEncode f (.fin false 0 0)
  else match v with
    | .fin n m e => narrowEncode f (.fin n m (e - ((scale : Int) - 127)))
    | v => narrowEncode f v

/-! ## Copies (R303) -/

/-- The range of an integer format. -/
def intRange : Fmt → Int × Int
  | .s8 => (-128, 127)
  | .n8 => (0, 255)
  | .s16 => (-32768, 32767)
  | .n16 => (0, 65535)
  | .s32 => (-2147483648, 2147483647)
  | _ => (0, 4294967295)

/-- The integer a code of an integer format stands for (R82). -/
def intVal (f : Fmt) (code : Nat) : Int :=
  match f with
  | .s8 => (BitVec.ofNat 8 code).toInt
  | .s16 => (BitVec.ofNat 16 code).toInt
  | .s32 => (BitVec.ofNat 32 code).toInt
  | _ => code

/-- The code of an integer in an integer format. -/
def intCode (f : Fmt) (v : Int) : Nat := (v % (2 ^ Fmt.bits f : Nat)).toNat

/-- The value a source element has in a copy: an integer, or a float with its scale. -/
def copyVal (f : Fmt) (code : Nat) (scale : Option Nat) : Val :=
  if Fmt.isInt f then ofInt (intVal f code)
  else match scale with
    | none => fmtVal f code
    | some s => (mulV (fmtVal f code) (e8m0Val s)).1

/-- A value encoded in a copy's unscaled destination format (R303); an integer outside the range is clamped, a pk code
is kept. -/
def copyEncode (f : Fmt) (code : Nat) (v : Val) : Nat :=
  if f = .pk then code
  else if Fmt.isInt f then intCode f (toIntV .rne (intRange f).1 (intRange f).2 v).1
  else encodeVal f v

end Sys2Proof.Machine
end

