-- ==== Sys2Proof/Machine/Base.lean ====
section
/-!
DEFINITION. Base.lean: reading and writing the named parts of the state. Every register has one accessor here, and the
hard-wired ones (x0, k0) behave in it.
-/

namespace Sys2Proof.Machine

/-! ## Cores (R47, R118) -/

/-- The kinds of core of R47. -/
inductive Kind | hart | treadle | hub
deriving DecidableEq, Repr

/-- Slot 8 of a cluster is its treadle; cores from 7200 on are hub harts. -/
def kindOf (n : Nat) : Kind := if 7200 ≤ n then .hub else if n % 9 = 8 then .treadle else .hart

/-- The core at a number. -/
def State.coreAt (s : State) (n : Nat) : Core :=
  s.cores.get (if kindOf n = .treadle then Core.absentTreadle else Core.absent) n

/-- The state with a core replaced. -/
def State.setCoreAt (s : State) (n : Nat) (c : Core) : State := { s with cores := s.cores.put n c }

/-- The core whose turn it is. -/
def State.core (s : State) : Core := s.coreAt s.cur

def State.setCore (s : State) (c : Core) : State := s.setCoreAt s.cur c

def State.updCoreAt (s : State) (n : Nat) (f : Core → Core) : State := s.setCoreAt n (f (s.coreAt n))

def State.updCore (s : State) (f : Core → Core) : State := s.updCoreAt s.cur f

/-- The kind of the core whose turn it is. -/
def State.kind (s : State) : Kind := kindOf s.cur

/-- The cluster of a cluster core. -/
def clusterOf (n : Nat) : Nat := n / 9

/-- The weave die of a cluster (R118). -/
def dieOf (cluster : Nat) : Nat := cluster / 100

def State.clusterAt (s : State) (c : Nat) : Cluster := s.clusters.get Cluster.reset c
def State.setClusterAt (s : State) (c : Nat) (v : Cluster) : State := { s with clusters := s.clusters.put c v }
def State.updClusterAt (s : State) (c : Nat) (f : Cluster → Cluster) : State := s.setClusterAt c (f (s.clusterAt c))

def State.partAt (s : State) (p : Nat) : Part := s.parts.get Part.free p
def State.setPartAt (s : State) (p : Nat) (v : Part) : State := { s with parts := s.parts.put p v }
def State.updPartAt (s : State) (p : Nat) (f : Part → Part) : State := s.setPartAt p (f (s.partAt p))

def State.updHub (s : State) (f : Hub → Hub) : State := { s with hub := f s.hub }

/-- One more turn at the end of the agenda. -/
def State.later (s : State) (i : Instr) : State := { s with agenda := s.agenda ++ [.event i] }

/-- One free value used. -/
def State.used (s : State) : State := { s with free := s.free + 1 }

/-- The attach entry of a core's resource (R338). -/
def State.attachOf (s : State) (n : Nat) : Attach :=
  if 7200 ≤ n then s.hub.hubAtt.get Attach.none (n - 7200) else s.hub.clusterAtt.get Attach.none (clusterOf n)

/-- The partition a core belongs to; none while its resource is unassigned. -/
def State.partOf (s : State) (n : Nat) : Option Nat :=
  let a := s.attachOf n
  if a.state = 0 then none else some a.part

/-- The partition of a core has been stopped (R387): nothing of it goes on. -/
def State.halted (s : State) (n : Nat) : Bool := match s.partOf n with
  | some p => (s.partAt p).stopped
  | none => false

/-- The hartid of a core (R118). -/
def State.hartid (s : State) (n : Nat) : Nat :=
  s.hub.pkg * 65536 + (if 7200 ≤ n then 0x3FF * 64 + (32 + (n - 7200)) else clusterOf n * 64 + n % 9)

/-- The cluster core a hartid value names in this package, if it names one. -/
def State.coreOfHartid (s : State) (h : Nat) : Option Nat :=
  let c := h / 64 % 1024
  let slot := h % 64
  if h / 65536 = s.hub.pkg && decide (c < 800) && decide (slot < 9) then some (9 * c + slot) else none

/-! ## Scalar registers -/

/-- A scalar register; x0 reads 0 (R110). -/
def Core.xreg (c : Core) (r : Nat) : Word := if r = 0 then 0 else c.x.get 0 r

/-- A register that holds a new value is no longer one that cannot be corrected (R401). -/
def Core.good (c : Core) (b : BadReg) : Core := { c with badRegs := c.badRegs.filter fun x => !(x == b) }

/-- Control registers written whole are no longer ones that cannot be corrected (R401). -/
def Core.goodCtl (c : Core) (cns : List Nat) : Core := { c with badRegs := c.badRegs.filter fun x => match x with
  | .ctl cn => !cns.contains cn
  | _ => true }

/-- A write to a scalar register; a write to x0 is discarded (R110). -/
def Core.setX (c : Core) (r : Nat) (v : Word) : Core :=
  if r = 0 then c else { c.good (.x r) with x := c.x.set 0 r v }

def State.x (s : State) (r : Nat) : Word := s.core.xreg r
def State.setX (s : State) (r : Nat) (v : Word) : State := s.updCore fun c => c.setX r v

/-- Strip registers written whole, by their numbers on a hart; a treadle's are 0x10 above (R110, R401). -/
def Core.goodStrip (c : Core) (cns : List Nat) : Core :=
  c.goodCtl (if c.ident.hidx = 8 then cns.map (· + 0x10) else cns)

/-- Flags set in vstat or tstat (R85, R113). -/
def Core.raise (c : Core) (fl : Flags) : Core :=
  { c with modes := { c.modes with stat := c.modes.stat ||| fl.setWidth 32 } }

def State.raise (s : State) (fl : Flags) : State := s.updCore fun c => c.raise fl

/-! ## vcfg (R112) -/

def Core.stopMask (c : Core) : Flags := c.modes.vcfg.setWidth 6
def Core.vrm (c : Core) : Rm := rmOf (c.modes.vcfg.toNat / 512 % 4)
def Core.ftz (c : Core) : Bool := c.modes.vcfg.toNat / 2048 % 2 == 1
def Core.la (c : Core) : Bool := c.modes.vcfg.toNat / 4096 % 2 == 1

/-! ## Vector, mask and interval registers (R140, R169, R193) -/

/-- The effective VLMAX of R13 without the clamp. -/
def Core.vlmax (c : Core) : Nat := 16 * c.ident.lanes

def slotKey (r i : Nat) : Nat := 512 * r + i

def Core.elem (c : Core) (r i : Nat) : Half := c.vec.elems.get 0 (slotKey r i)
def Core.tag (c : Core) (r : Nat) : Tag := c.vec.tags.get .n32 r
/-- A mask bit; k0 reads ones (R169). -/
def Core.mask (c : Core) (k i : Nat) : Bool := if k = 0 then true else c.vec.masks.get false (slotKey k i)
def Core.pairBits (c : Core) (r i : Nat) : Word := c.vec.pairs.get 0 (slotKey r i)

def Core.setElem (c : Core) (r i : Nat) (v : Half) : Core :=
  { c with vec := { c.vec with elems := c.vec.elems.set 0 (slotKey r i) v } }
def Core.setTag (c : Core) (r : Nat) (t : Tag) : Core :=
  { c.good (.tag r) with vec := { c.vec with tags := c.vec.tags.set .n32 r t } }
def Core.setMask (c : Core) (k i : Nat) (b : Bool) : Core :=
  { c with vec := { c.vec with masks := c.vec.masks.set false (slotKey k i) b } }
def Core.setPair (c : Core) (r i : Nat) (v : Word) : Core :=
  { c with vec := { c.vec with pairs := c.vec.pairs.set 0 (slotKey r i) v } }

/-- Elements of a register written from a list of index and value. -/
def Core.setElems (c : Core) (r : Nat) : List (Nat × Half) → Core
  | [] => c
  | (i, v) :: t => (c.setElem r i v).setElems r t
def Core.setMasks (c : Core) (r : Nat) : List (Nat × Bool) → Core
  | [] => c
  | (i, v) :: t => (c.setMask r i v).setMasks r t
def Core.setPairs (c : Core) (r : Nat) : List (Nat × Word) → Core
  | [] => c
  | (i, v) :: t => (c.setPair r i v).setPairs r t

/-- Vector state all zero with every tag N32 (R145). -/
def Core.clearVec (c : Core) : Core := { c with vec := Vec.reset }

/-! ## Streams (R178) -/

def Core.stream (c : Core) (i : Nat) : Stream := c.streams.get Stream.reset i
def Core.setStream (c : Core) (i : Nat) (v : Stream) : Core :=
  { c.good (.stream i) with streams := c.streams.set Stream.reset i v }
/-- A part of a stream register changed: an error of the register stays (R401). -/
def Core.updStream (c : Core) (i : Nat) (f : Stream → Stream) : Core :=
  { c with streams := c.streams.set Stream.reset i (f (c.stream i)) }

/-! ## Accumulators (R212) -/

def accKey (a r c : Nat) : Nat := 4096 * a + 64 * r + c
def Cluster.accAt (cl : Cluster) (a r c : Nat) : Half := cl.acc.get 0 (accKey a r c)
def Cluster.setAcc (cl : Cluster) (a r c : Nat) (v : Half) : Cluster :=
  { cl with acc := cl.acc.set 0 (accKey a r c) v }

/-! ## Counters (R356) -/

def bump (t : Tbl Word) (k n : Nat) : Tbl Word := t.set 0 k (t.get 0 k + BitVec.ofNat 64 n)

/-- A core event counter adds n: 0 SHORT, 1 to 8 by cause, 9 TAIL, 10 LEAD, 14 PREEMPT. -/
def State.countCore (s : State) (core k n : Nat) : State :=
  if core < 7200 then s.updCoreAt core fun c => { c with events := bump c.events k n } else s

/-- A cluster event counter adds n: 0 PCHIT, 1 PCMISS, 2 PCDENSE, 3 PCINV, 4 PCWAIT, 5 FREC, 6 FNOTE, 7 FLOST, 8 BCAST,
9 SEVREG, 10 SESPAD, 11 SEACC, 12 SEUNC, 13 MATBUSY. -/
def State.countCluster (s : State) (cluster k n : Nat) : State :=
  s.updClusterAt cluster fun c => { c with events := bump c.events k n }

/-- An MSI-X message of the PF follows the mailbox entry (R397); a reply to a request is an entry alone. -/
def Report.signals : Report → Bool
  | .attestation .. | .refusedAttestation | .imageAccepted _ | .imageRefused _ => false
  | _ => true

/-- A report to the PF management mailbox, with its message (R397). -/
def State.report (s : State) (r : Report) : State := s.updHub fun h => { h with
  mailbox := h.mailbox ++ [r]
  pfOut := if r.signals then h.pfOut + 1 else h.pfOut }

/-! ## Regions (R335) -/

def findRegion : List Region → Nat → Option Region
  | [], _ => none
  | r :: rs, id => if r.regid = id then some r else findRegion rs id

def updRegion (f : Region → Region) (id : Nat) : List Region → List Region
  | [] => []
  | r :: rs => (if r.regid = id then f r else r) :: updRegion f id rs

def State.regionAt (s : State) (p id : Nat) : Option Region := findRegion (s.partAt p).regions id
def State.updRegionAt (s : State) (p id : Nat) (f : Region → Region) : State :=
  s.updPartAt p fun q => { q with regions := updRegion f id q.regions }

/-- The launch a cluster core runs for. -/
def State.launchOf (s : State) (n : Nat) : Option Region :=
  match s.partOf n with
  | some p => if 7200 ≤ n then none else s.regionAt p (s.coreAt n).ident.regid.toNat
  | none => none

/-- Fault policies of R336 by name. -/
def fpolDemand : Nat := 0
def fpolPinned : Nat := 1
def fpolFatal : Nat := 2

/-- The fault policy a core's accesses meet; a hub hart has none (R385). -/
def State.policy (s : State) (n : Nat) : Option Nat := (s.launchOf n).map fun r => r.rcb.fpol

/-- The cores of a crew: the numbers of the cores placed on a cluster for a region. -/
def State.crewOn (s : State) (cluster regid : Nat) : List Nat :=
  (List.range 9).filterMap fun i =>
    let n := 9 * cluster + i
    let c := s.coreAt n
    if c.run != .absent && c.ident.regid.toNat == regid then some n else none

/-- Every core placed for a region of a partition. -/
def State.coresOf (s : State) (p regid : Nat) : List Nat :=
  match s.regionAt p regid with
  | none => []
  | some r => r.clusters.eraseDups.flatMap fun c => s.crewOn c regid

/-- Bit k of a number. -/
def bitOf (v k : Nat) : Bool := v / 2 ^ k % 2 == 1

/-- A feature of R52 is masked for a partition. -/
def State.masked (s : State) (core feature : Nat) : Bool :=
  match s.partOf core with
  | some p => bitOf (s.partAt p).feat feature
  | none => false

end Sys2Proof.Machine
end

