-- ==== Sys2Proof/Machine/Memory.lean ====
section
/-!
DEFINITION. Memory.lean: the one memory of the package, by keys, and where an address lies in it
(spec/10_memories.md R237 to R245). A device-memory byte's key is its channel times 6 GiB plus its offset (R244), an
LPDDR-6 or weight-store byte's key is its physical address, and byte o of cluster c's scratchpad has key
2^52 + 2^22 c + o.
-/

namespace Sys2Proof.Machine

/-- DESIGN CHOICE (log 6): what a byte that nothing has written reads as. The manual gives zero for a scrubbed
scratchpad and channel (R236, R340) and nothing for the rest. -/
def unlisted : Byte := 0

/-- The byte at a key. -/
def State.byteAt (s : State) (k : Nat) : Byte := Tbl.get unlisted s.mem k

/-- Memory in its canonical form: keys rise, and no listed byte is what an unlisted one reads as. -/
def Memory.wf (m : List Host.Cell) : Bool := Tbl.wf unlisted m

/-- Bytes, lowest address first, as a number (R5). -/
def leNat : List Byte → Nat
  | [] => 0
  | b :: bs => b.toNat + 256 * leNat bs

/-- A number's low n bytes, lowest first (R5). -/
def leBytes : Nat → Nat → List Byte
  | 0, _ => []
  | n + 1, v => BitVec.ofNat 8 v :: leBytes n (v / 256)

/-- Bytes at consecutive keys. -/
def State.bytesAt (s : State) (k n : Nat) : List Byte := Tbl.getRange unlisted s.mem k n

/-- The little-endian number at n bytes from a key. -/
def State.natAt (s : State) (k n : Nat) : Nat := leNat (s.bytesAt k n)

/-- Bytes written at consecutive keys. -/
def State.setBytes (s : State) (k : Nat) (bs : List Byte) : State :=
  { s with mem := Tbl.setRange unlisted s.mem k bs }

/-- Bytes from a key on made zero. -/
def State.zeroRange (s : State) (k n : Nat) : State := { s with mem := Tbl.clear s.mem k (k + n) }

/-! ## Regions of the physical space (R238) -/

def channelBytes : Nat := 0x180000000
def deviceTop : Nat := 0x4800000000
def lpddrBase : Nat := 0x1000000000000
def lpddrTop : Nat := 0x1010000000000
def wsBase : Nat := 0x2000000000000
def wsDieBytes : Nat := 0x80000000
def hostBase : Nat := 0x3000000000000
def hostTop : Nat := 0x4000000000000
def regsBase : Nat := 0xF000000000000
def physTop : Nat := 0x10000000000000
def scratchBytes : Nat := 0x300000
def scratchKey (cluster off : Nat) : Nat := 0x10000000000000 + cluster * 0x400000 + off
def windowBase : Nat := 0x01FFFFFFFFC00000
def windowTop : Nat := 0x01FFFFFFFFF00000
def windowEnd : Nat := 0x0200000000000000
def vaTop : Nat := 0x200000000000000
def pageBytes : Nat := 0x20000

/-- The memories and spaces of R238. -/
inductive Space | device | lpddr | weight (die : Nat) | host | regs
deriving DecidableEq, Repr

/-- The space a physical address lies in; none for the others, which meet permission (R238). -/
def spaceOf (pa : Nat) : Option Space :=
  if pa < deviceTop then some .device
  else if lpddrBase ≤ pa && pa < lpddrTop then some .lpddr
  else if wsBase ≤ pa && pa < wsBase + 8 * wsDieBytes then some (.weight ((pa - wsBase) / wsDieBytes))
  else if hostBase ≤ pa && pa < hostTop then some .host
  else if regsBase ≤ pa && pa < physTop then some .regs
  else none

/-- The channel map (R244): the key of a device address of a partition, valid below Nch times 6 GiB. -/
def channelKey (p : Part) (a : Nat) : Option Nat :=
  if a < p.nch * channelBytes then
    let u := a / 4096
    some ((Tbl.get (0 : Byte) p.map (u % p.nch)).toNat * channelBytes + (u / p.nch * 4096 + a % 4096))
  else none

/-- The key of a partition-physical address in memory; none for an address the stage does not map to memory (R238,
R319). DEDUCED (log 9): LPDDR-6 addresses are those of the tier, and the partition's are the LSIZE bytes from LBASE. With no
partition (log 8) device addresses run through the channels in order. -/
def memKey (p : Option Part) (pa : Nat) : Option Nat :=
  match spaceOf pa with
  | some .device => match p with
    | some q => channelKey q pa
    | none => some pa
  | some .lpddr => match p with
    | some q =>
      let o := pa - lpddrBase
      if q.lbase.toNat ≤ o && o < q.lbase.toNat + q.lsize.toNat then some pa else none
    | none => some pa
  | some (.weight d) => match p with
    | some q => if bitOf q.wsdies d then some pa else none
    | none => some pa
  | _ => none

/-- The 8 bytes at a partition-physical address the walker or the device reads, when they are device or LPDDR-6 memory
of the partition (R319). -/
def tableKey (p : Part) (pa : Nat) : Option Nat :=
  match spaceOf pa with
  | some .device | some .lpddr => memKey (some p) pa
  | _ => none

/-! ## Errors of memory words (R239, R400 to R403) -/

/-- The partition-physical address of a word of a channel of an attached partition (R244); keys of other memories are
their addresses. DEDUCED (log 16): a scratchpad word, which has no physical address, is reported by its key. -/
def State.physOf (s : State) (k : Nat) : Nat :=
  if k < deviceTop then
    let c := k / channelBytes
    let off := k % channelBytes
    let p := s.partAt (s.hub.chanAtt.get Attach.none c).part
    match (List.range p.nch).find? fun i => (Tbl.get (0 : Byte) p.map i).toNat == c with
    | some i => (off / 4096 * p.nch + i) * 4096 + off % 4096
    | none => k
  else k

/-- The keys of the bytes of some runs, in order. -/
def runKeys (runs : List (Nat × Nat)) : List Nat := runs.flatMap fun r => (List.range r.2).map fun i => r.1 + i

/-- The first of some words that a range has a byte of, as its key. -/
def wordIn (ws : List Nat) (k n : Nat) : Option Nat :=
  (ws.find? fun w => decide (w * 16 < k + n) && decide (k < w * 16 + 16)).map (· * 16)

/-- The 16-byte word of a range that cannot be corrected. -/
def State.badIn (s : State) (k n : Nat) : Option Nat := wordIn s.hub.badWords k n

/-- The health block of a die changed. -/
def State.updHealth (s : State) (d : Nat) (f : Health → Health) : State :=
  s.updHub fun h => { h with health := h.health.put d (f (h.health.get Health.reset d)) }

/-- A key lies in some cluster's scratchpad: the cluster. -/
def scratchOf (k : Nat) : Option Nat := if 0x10000000000000 ≤ k then some ((k - 0x10000000000000) / 0x400000) else none

/-- A detection at a key: SEUNC of the scratchpad's cluster or WSUNC of the die, and a report (R402). DEDUCED (log 16):
one in device memory or LPDDR-6, which no cluster has, adds to SEUNC of the cluster whose access detects it. -/
def State.detect (s : State) (by_ : Option Nat) (k : Nat) : State :=
  let s := s.report (.uncorrectable (s.physOf k))
  match scratchOf k, spaceOf k with
  | some c, _ => s.countCluster c 12 1
  | none, some (.weight d) => s.updHealth d fun v => { v with wsunc := v.wsunc + 1 }
  | none, _ => match by_ with
    | some c => s.countCluster c 12 1
    | none => s

/-- A correction of a word by SECDED is counted: SESPAD of the cluster, or WSCORR of the die; the other memories have no
counter (R239, R356, R359, R400). -/
def State.countSoft (s : State) (k : Nat) : State := match scratchOf k, spaceOf k with
  | some c, _ => s.countCluster c 10 1
  | none, some (.weight d) => s.updHealth d fun v => { v with wscorr := v.wscorr + 1 }
  | none, _ => s

/-- Words of a range with an error that SECDED corrects are corrected as they are read. -/
def State.correct (s : State) (k n : Nat) : State :=
  match s.hub.softWords with
  | [] => s
  | ws =>
    let hit (w : Nat) : Bool := decide (w * 16 < k + n) && decide (k < w * 16 + 16)
    (ws.filter hit).foldl (fun s w => s.countSoft (w * 16))
      (s.updHub fun h => { h with softWords := ws.filter fun w => !hit w })

/-- The channel a range of device memory lies in. -/
def channelOf (k : Nat) : Option Nat := if k < deviceTop then some (k / channelBytes) else none

/-- The next transfer over the GDDR-7 link of a range's channel fails for the 8th time in a row (R401). -/
def State.linkDown (s : State) (k : Nat) : Bool := match s.hub.linkFails with
  | [] => false
  | fs => match channelOf k with
    | none => false
    | some c => decide (8 ≤ fs.get 0 c)

/-- A transfer over the GDDR-7 link of a range's channel: CRC failures below 8 in a row are retried, each counted in
GCRC of the channel's die; with the 8th the transfer fails (R401). DEDUCED (log 16): the 8th failure is counted with the
retries before it. -/
def State.transfer (s : State) (k : Nat) : State × Bool :=
  match s.hub.linkFails with
  | [] => (s, true)
  | fs => match channelOf k with
    | none => (s, true)
    | some c =>
      let f := fs.get 0 c
      if f = 0 then (s, true)
      else
        let s := s.updHub fun h => { h with linkFails := fs.set 0 c 0 }
        (s.updHealth (c / 6) fun v => { v with gcrc := v.gcrc + .ofNat 64 (min f 8) }, decide (f < 8))

/-- Words rewritten whole are good again (R403). -/
def State.repair (s : State) (k n : Nat) : State :=
  let keep (w : Nat) : Bool := !(decide (k ≤ w * 16) && decide (w * 16 + 16 ≤ k + n))
  match s.hub.badWords, s.hub.softWords with
  | [], [] => s
  | bs, ws => s.updHub fun h => { h with badWords := bs.filter keep, softWords := ws.filter keep }

/-! ## Pattern cache (R232) -/

/-- The pattern-cache entries of a cluster whose tile meets a condition leave it; compiles of such tiles are
discarded. -/
def Cluster.dropPatterns (c : Cluster) (hit : Pattern → Bool) : Cluster :=
  let gone := (c.patterns.filter hit).length
  { c with
    patterns := c.patterns.filter fun p => !hit p
    compiles := c.compiles.map fun k => if hit k.entry then { k with discarded := true } else k
    events := if gone = 0 then c.events else bump c.events 3 gone }

/-- A pattern's extent overlaps a range of virtual addresses of its address space. -/
def Pattern.overlaps (p : Pattern) (va n : Nat) : Bool := decide (va < p.addr + p.size) && decide (p.addr < va + n)

/-- A store of n bytes at a virtual address by a core or engine of a cluster invalidates the entries it overlaps. -/
def State.storeInvalidates (s : State) (cluster part asid va n : Nat) : State :=
  let c := s.clusterAt cluster
  match c.patterns, c.compiles with
  | [], [] => s
  | _, _ => s.setClusterAt cluster
      (c.dropPatterns fun p => decide (p.part = part) && decide (p.asid = asid) && p.overlaps va n)

end Sys2Proof.Machine
end

