-- ==== Sys2Proof/Machine/Walk.lean ====
section
/-!
DEFINITION. Walk.lean: translation (spec/13_translation.md R317 to R327) and the conditions an access meets
(spec/01_machine.md R22, R23).
-/

namespace Sys2Proof.Machine

/-- The condition an access or an element operation meets (R22, R360); uncorrectable is R402's. -/
inductive Cond | misaligned | permission | notPresent | pinned | uncorrectable | arithmetic (fl : Flags)
  | streamEnd (stream index : Nat) | regrant | preempt | trim
deriving DecidableEq, Repr

/-- The cause codes of R360. -/
def Cond.code : Cond → Nat
  | .notPresent => 1
  | .permission => 2
  | .misaligned => 3
  | .arithmetic _ => 4
  | .streamEnd _ _ => 5
  | .preempt => 6
  | .regrant => 7
  | .trim => 8
  | .uncorrectable => 15
  | .pinned => 16

/-- The order of R23 in which an element's conditions are reported; a pinned miss stands with not present. -/
def Cond.rank : Cond → Nat
  | .uncorrectable => 0
  | .misaligned => 1
  | .permission => 2
  | .pinned => 3
  | .notPresent => 3
  | .arithmetic _ => 4
  | .streamEnd _ _ => 5
  | .regrant => 6
  | .preempt => 7
  | .trim => 8

/-- The unit that makes an access (R326): a core, one of its streams, the copy engine of a cluster, or a device unit
without a TLB: the surveyor, the fabric unit of a die. -/
inductive Unit_ | core | stream (i : Nat) | engine | device
deriving DecidableEq, Repr

/-- On whose behalf an access is made: the core, its partition, ASID and level, the weight-store dies its region
may map (none: no limit), and the unit that makes it. -/
structure Who where
  core : Nat
  part : Option Nat
  asid : Nat
  level : Level
  wsmask : Option Nat
  unit : Unit_
deriving DecidableEq, Repr

/-- The cluster of an access, where a cluster's core or engine makes it. -/
def Who.cluster (w : Who) : Option Nat := if kindOf w.core = .hub then none else some (clusterOf w.core)

/-- The number of a cluster's TLB. -/
def clusterTlb (c : Nat) : Nat := 10000 + c

/-- The number by which the translations of a stream of a core are known (R189). -/
def streamTlb (core i : Nat) : Nat := 20000 + 16 * core + i

/-- The holder of a translation is a stream. -/
def isStreamTlb (h : Nat) : Bool := decide (streamTlb 0 0 ≤ h)

/-- The core whose stream holds a translation. -/
def streamCore (h : Nat) : Nat := (h - streamTlb 0 0) / 16

/-- A translation is held by a stream of a core. -/
def heldByStream (n h : Nat) : Bool := isStreamTlb h && decide (streamCore h = n)

/-- The translations an access looks up (R326): a stream's own first. -/
def Who.tlbs (w : Who) : List Nat := match w.unit, w.cluster with
  | .core, some c => [w.core, clusterTlb c]
  | .core, none => [w.core]
  | .stream i, some c => [streamTlb w.core i, w.core, clusterTlb c]
  | .stream i, none => [streamTlb w.core i, w.core]
  | .engine, some c => [clusterTlb c]
  | _, _ => []

/-- The die whose walker serves an access; 8 is the hub die. -/
def Who.die (w : Who) : Nat := match w.cluster with
  | some c => dieOf c
  | none => 8

/-- The access kinds of R322. -/
inductive Acc | read | write | fetch | wswrite
deriving DecidableEq, Repr

/-- The identity a core's own accesses have. -/
def State.who (s : State) (n : Nat) : Who :=
  let c := s.coreAt n
  ⟨n, s.partOf n, c.ident.asid.toNat, c.level, (s.launchOf n).map fun r => r.rcb.wsmask, .core⟩

/-- What a walk finds: a leaf with its entry, the key of its entry, the address of the page, and whether it is a 2 GiB
leaf; or a condition, with the word that cannot be corrected. path holds the tables passed: level, prefix and table
address. -/
inductive Walked
  | leaf (e key page : Nat) (big : Bool) (path : List (Nat × Nat × Nat))
  | stop (c : Cond) (bad : Option Nat) (path : List (Nat × Nat × Nat))
deriving DecidableEq, Repr

/-! ## Page-table entries (R319 to R321) -/

/-- Bits hi:lo of a number. -/
def field (v hi lo : Nat) : Nat := v / 2 ^ lo % 2 ^ (hi - lo + 1)

/-- A directory entry has a non-zero reserved bit. -/
def dirBad (e : Nat) : Bool := !(field e 63 52 == 0 && field e 14 1 == 0)

/-- An entry with P = 1 is malformed at a level (R321). -/
def pteBad (e level : Nat) : Bool :=
  let leaf := bitOf e 1
  !(field e 63 60 == 0 && field e 16 13 == 0) ||
  (level == 0 && leaf) || (level == 2 && !leaf) ||
  (level == 1 && leaf && !(field e 30 17 == 0)) ||
  (!leaf && !(field e 12 2 == 0)) ||
  (leaf && bitOf e 3 && !bitOf e 2)

/-- The leaf's attributes fit the space its frame lies in (R238). -/
def attrsFit (p : Part) (e pa : Nat) : Bool :=
  let tier := bitOf e 12
  let ws := bitOf e 11
  let io := bitOf e 9
  match spaceOf pa with
  | some .device => !tier && !ws && (channelKey p pa).isSome
  | some .lpddr => tier && !ws && (memKey (some p) pa).isSome
  | some (.weight d) => !tier && ws && bitOf p.wsdies d
  | some .host => !tier && !ws && io
  | some .regs => !tier && !ws && io
  | none => false

/-- The rights a leaf gives at a level for a kind of access (R322), and the region's weight-store mask (R243). -/
def leafAllows (p : Part) (w : Who) (k : Acc) (e pa : Nat) : Bool :=
  attrsFit p e pa &&
  (w.level != .u || bitOf e 5) &&
  (match k with
    | .read => bitOf e 2
    | .fetch => bitOf e 4
    | .write => bitOf e 3 && !bitOf e 11
    | .wswrite => bitOf e 3 && bitOf e 11) &&
  (match w.wsmask, spaceOf pa, k with
    | some _, some (.weight _), .wswrite => true
    | some m, some (.weight d), _ => bitOf m d
    | _, _, _ => true)

/-- The 8-byte entry at a partition-physical address, with its key (R319, R401, R402). -/
def readEntry (s : State) (p : Part) (pa : Nat) : Except (Cond × Option Nat) (Nat × Nat) :=
  match tableKey p pa with
  | none => .error (.permission, none)
  | some k =>
    if s.linkDown k then .error (.uncorrectable, some k)
    else match s.badIn k 8 with
      | some w => .error (.uncorrectable, some w)
      | none => .ok (s.natAt k 8, k)

/-- The part of an address that a table of a level serves: none for the root table, bits 56:45 or 56:31 below it. -/
def prefixOf (level va : Nat) : Nat := if level = 0 then 0 else if level = 1 then field va 56 45 else field va 56 31

/-- The index bits of an address at a table level (R322). -/
def indexOf (level va : Nat) : Nat :=
  if level = 0 then field va 56 45 else if level = 1 then field va 44 31 else field va 30 17

/-- The table levels from a table on (R322): n more levels, each with the index bits of the address. -/
def walkFrom (s : State) (p : Part) (w : Who) (k : Acc) (va : Nat) :
    Nat → Nat → Nat → List (Nat × Nat × Nat) → Walked
  | 0, _, _, path => .stop .permission none path
  | n + 1, level, t, path =>
    let path := (level, prefixOf level va, t) :: path
    match readEntry s p (t + 8 * indexOf level va) with
    | .error (c, bad) => .stop c bad path
    | .ok (e, key) =>
      if !bitOf e 0 then .stop (if bitOf e 10 then .pinned else .notPresent) none path
      else if pteBad e level then .stop .permission none path
      else if !bitOf e 1 then walkFrom s p w k va n (level + 1) (field e 51 17 * 2 ^ 17) path
      else
        let frame := field e 51 17 * 2 ^ 17
        let page := if level = 2 then frame else frame + field va 30 17 * 2 ^ 17
        if leafAllows p w k e page then .leaf e key page (level == 1) path else .stop .permission none path

/-- The directory entry of an access's ASID (R319). -/
def dirAddr (p : Part) (w : Who) : Nat := p.asiddir.toNat + 8 * w.asid

/-- The entries that a walk over some tables has read, transferred over their links, youngest table first (R401). -/
def State.walkReads (s : State) (p : Part) (va : Nat) (path : List (Nat × Nat × Nat)) : State := match s.hub.linkFails with
  | [] => s
  | _ => path.foldr (fun e s => match tableKey p (e.2.2 + 8 * indexOf e.1 va) with
      | some k => (s.transfer k).1
      | none => s) s

/-- What a fresh walk has read beside: the directory entry (R401). -/
def State.dirRead (s : State) (p : Part) (w : Who) : State := match s.hub.linkFails, tableKey p (dirAddr p w) with
  | [], _ | _, none => s
  | _, some k => (s.transfer k).1

/-- One fresh walk, from the directory (R322, R324). -/
def walk (s : State) (p : Part) (w : Who) (k : Acc) (va : Nat) : Walked :=
  match readEntry s p (dirAddr p w) with
  | .error (c, bad) => .stop c bad []
  | .ok (d, _) =>
    if dirBad d || !bitOf d 0 then .stop .permission none []
    else walkFrom s p w k va 3 0 (field d 51 15 * 2 ^ 15) []

/-- A walk that starts at a table of the die's walk cache (R326). -/
def walkCached (s : State) (p : Part) (w : Who) (k : Acc) (va : Nat) (c : WalkEntry) : Walked :=
  walkFrom s p w k va (3 - c.level) c.level c.table []

/-! ## Using translations (R282, R325, R326) -/

/-- A translated page: its physical address, and its IO and U attributes. -/
structure Page where
  pa : Nat
  io : Bool
  user : Bool
deriving DecidableEq, Repr

/-- The walker's bits for a kind of access (R325). -/
def adBits (k : Acc) : Nat := match k with
  | .write | .wswrite => 0xC0
  | _ => 0x40

/-- Bytes of a 2 GiB page. -/
def bigBytes : Nat := 0x80000000

/-- A held translation maps a page for an access: it stands in a TLB the access looks up, for its ASID or for all. -/
def TlbEntry.maps (pn : Nat) (w : Who) (va : Nat) (t : TlbEntry) : Bool :=
  w.tlbs.contains t.holder && decide (t.part = pn) && (decide (t.asid = w.asid) || bitOf t.attrs 8) &&
  decide (t.page = va / if t.big then bigBytes else pageBytes)

/-- The 128 KiB page a held translation gives for an address. -/
def TlbEntry.pageFor (t : TlbEntry) (va : Nat) : Nat :=
  if t.big then t.frame + va % bigBytes / pageBytes * pageBytes else t.frame

/-- A held translation allows an access: by its rights, and for a write only when it was filled with D set (R325). -/
def TlbEntry.allows (p : Part) (w : Who) (k : Acc) (va : Nat) (t : TlbEntry) : Bool :=
  leafAllows p w k t.attrs (t.pageFor va) && (adBits k == 0x40 || bitOf t.attrs 7)

/-- A way to a translation other than the fresh walk: a held translation, or a walk from the walk cache. -/
inductive Route | held (t : TlbEntry) | walked (e key page : Nat) (big : Bool) (path : List (Nat × Nat × Nat))
deriving DecidableEq, Repr

/-- The fresh walk gives the page that another entry gives, with its I/O and user attributes, and has nothing to set. -/
def Walked.same (k : Acc) (e page : Nat) : Walked → Bool
  | .leaf f _ pg _ _ => decide (pg = page) && bitOf f 9 == bitOf e 9 && bitOf f 5 == bitOf e 5 &&
      decide (f ||| adBits k = f)
  | .stop .. => false

/-- The ways an access may take until an invalidation is acknowledged (R282, R326), but for those that give and leave
what the fresh walk does. -/
def State.routes (s : State) (p : Part) (pn : Nat) (w : Who) (k : Acc) (va : Nat) (fresh : Walked) : List Route :=
  ((s.tlb.filter fun t => t.maps pn w va && t.allows p w k va && !fresh.same k t.attrs (t.pageFor va)).map .held) ++
  (s.walks.filter fun c => decide (c.die = w.die) && decide (c.part = pn) && decide (c.asid = w.asid) &&
    decide (c.pre = prefixOf c.level va)).filterMap fun c => match walkCached s p w k va c with
      | .leaf e key page big path =>
        if fresh.same k e page && decide (e ||| adBits k = e) then none else some (.walked e key page big path)
      | .stop .. => none

/-- A TLB, or a stream, gets a translation it does not hold. -/
def State.fillTlb (s : State) (t : TlbEntry) : State := if s.tlb.contains t then s else { s with tlb := t :: s.tlb }

/-- A walk's leaf used: A, and D for a write, are set in the entry (R325), and the access's TLBs hold the translation; a
stream's stays one of its core's ASID (R328). -/
def State.useLeaf (s : State) (pn : Nat) (w : Who) (k : Acc) (va e key page : Nat) (big : Bool) : State :=
  let e' := e ||| adBits k
  let s := if e' = e then s else s.setBytes key (leBytes 8 e')
  let frame := if big then page - va % bigBytes / pageBytes * pageBytes else page
  w.tlbs.foldl (fun s h => s.fillTlb
    ⟨h, pn, if bitOf e 8 && !isStreamTlb h then 0 else w.asid, big, va / (if big then bigBytes else pageBytes), frame,
      e' % 8192⟩) s

/-- The tables a walk passed enter the die's walk cache (R326). -/
def State.fillWalks (s : State) (pn : Nat) (w : Who) (path : List (Nat × Nat × Nat)) : State :=
  path.foldl (fun s e =>
    let c : WalkEntry := ⟨w.die, pn, w.asid, e.1, e.2.1, e.2.2⟩
    if s.walks.contains c then s else { s with walks := c :: s.walks }) s

/-- Held translations that map the page and deny the access are discarded (R324). -/
def State.discardDenied (s : State) (p : Part) (pn : Nat) (w : Who) (k : Acc) (va : Nat) : State :=
  { s with tlb := s.tlb.filter fun t => !(t.maps pn w va && !t.allows p w k va) }

/-- The accesses of the turn are those of an instruction that has issued before (R269). -/
def State.redoing (s : State) : Bool := match s.lag with
  | some l => l.mode == .again
  | none => false

/-- The tables a walk passed, youngest first. -/
def Walked.path : Walked → List (Nat × Nat × Nat)
  | .leaf _ _ _ _ path | .stop _ _ path => path

/-- The translation of a page for an access (R322 to R326): the fresh walk, or, where one differs, another way as
Config says (log 5); an access that issued before takes a translation held since then. A core in no partition uses its
addresses as physical ones (log 8); it stores to no weight store (R236, R241). -/
def translate (s : State) (w : Who) (k : Acc) (va : Nat) : State × Except Cond Page :=
  match w.part with
  | none =>
    let page := va / pageBytes * pageBytes
    match spaceOf page, k with
    | none, _ => (s, .error .permission)
    | some (.weight _), .write => (s, .error .permission)
    | some sp, _ => (s, .ok ⟨page, sp == .host || sp == .regs, false⟩)
  | some pn =>
    let p := s.partAt pn
    let fresh := walk s p w k va
    let ways := s.routes p pn w k va fresh
    let pick := if ways.isEmpty then 0 else if s.redoing then 1 else Config.translationPick s.free % (ways.length + 1)
    let s := if ways.isEmpty then s else s.used
    match (if pick = 0 then none else ways[pick - 1]?) with
    | some (.held t) => (s, .ok ⟨t.pageFor va, bitOf t.attrs 9, bitOf t.attrs 5⟩)
    | some (.walked e key page big path) =>
      (((s.walkReads p va path).useLeaf pn w k va e key page big).fillWalks pn w path, .ok ⟨page, bitOf e 9, bitOf e 5⟩)
    | none =>
      let s := ((s.discardDenied p pn w k va).dirRead p w).walkReads p va fresh.path
      match fresh with
      | .stop c bad path =>
        let s := s.fillWalks pn w path
        (match bad with
          | some key => s.detect w.cluster key
          | none => s, .error c)
      | .leaf e key page big path =>
        ((s.useLeaf pn w k va e key page big).fillWalks pn w path, .ok ⟨page, bitOf e 9, bitOf e 5⟩)

/-- The fresh walk of a page finds it not present (R166, R191, R304). -/
def State.pageAbsent (s : State) (w : Who) (k : Acc) (page : Nat) : Bool := decide (page < windowBase) && match w.part with
  | none => false
  | some pn => match walk s (s.partAt pn) w k page with
    | .stop .notPresent _ _ => true
    | _ => false

/-! ## Where an access lands -/

/-- Bytes of an access in one place: n bytes of memory at a key, at a host bus address, or at a device register. -/
inductive Chunk | mem (key n : Nat) | host (bus n : Nat) | regs (pa n : Nat) (user : Bool)
deriving DecidableEq, Repr

/-- Where the bytes of an access lie: in memory, as runs of keys, with the I/O attribute and whether it went through
the cluster-local window; at a host bus address; at a device register; or in two places of which one is no memory. -/
inductive Loc | mem (runs : List (Nat × Nat)) (io window : Bool) | host (bus : Nat) | regs (pa : Nat) (user : Bool)
  | split (l1 l2 : List Chunk)
deriving DecidableEq, Repr

/-- The pieces of a location of n bytes. -/
def Loc.pieces (n : Nat) : Loc → List Chunk
  | .mem runs _ _ => runs.map fun r => .mem r.1 r.2
  | .host b => [.host b n]
  | .regs pa u => [.regs pa n u]
  | .split a b => a ++ b

/-- Two locations that follow each other in an access, of n1 and n2 bytes. -/
def Loc.join (n1 n2 : Nat) (l1 l2 : Loc) : Loc := match l1, l2 with
  | .mem r1 io1 w1, .mem r2 io2 w2 => .mem (r1 ++ r2) (io1 || io2) (w1 && w2)
  | .host a, .host b => if b = a + n1 then .host a else .split (l1.pieces n1) (l2.pieces n2)
  | .regs a u, .regs b v => if b = a + n1 && u == v then .regs a u else .split (l1.pieces n1) (l2.pieces n2)
  | _, _ => .split (l1.pieces n1) (l2.pieces n2)

/-- The bytes of an access within one 4 KiB block (R237, R238, R317). -/
def locateBlock (s : State) (w : Who) (k : Acc) (va n : Nat) : State × Except Cond Loc :=
  if vaTop ≤ va then (s, .error .permission)
  else if windowBase ≤ va && va < windowEnd then
    if windowTop ≤ va || kindOf w.core == .hub then (s, .error .permission)
    else (s, .ok (.mem [(scratchKey (clusterOf w.core) (va - windowBase), n)] false true))
  else
    match translate s w k va with
    | (s, .error c) => (s, .error c)
    | (s, .ok pg) =>
      let pa := pg.pa + va % pageBytes
      match spaceOf pa with
      | some .host => (s, .ok (.host (pa - hostBase)))
      | some .regs => (s, .ok (.regs pa pg.user))
      | _ => match memKey (w.part.map s.partAt) pa with
        | some key => (s, .ok (.mem [(key, n)] pg.io false))
        | none => (s, .error .permission)

/-- Of two conditions, the one that R23 reports. -/
def Cond.first (a b : Cond) : Cond := if b.rank < a.rank then b else a

/-- Where an access of n bytes at a virtual address lies, after the checks of R164 and R248: alignment, then validity
and translation of every page it covers; of several conditions the first of R23 is reported. -/
def locate (s : State) (w : Who) (k : Acc) (va n align : Nat) : State × Except Cond Loc :=
  if va % align ≠ 0 then (s, .error .misaligned)
  else
    let n1 := min n (4096 - va % 4096)
    if n1 = n then locateBlock s w k va n
    else
      let r1 := locateBlock s w k va n1
      let r2 := locateBlock r1.1 w k ((va + n1) % 2 ^ 64) (n - n1)
      (r2.1, match r1.2, r2.2 with
        | .error c, .error d => .error (c.first d)
        | .error c, .ok _ => .error c
        | .ok _, .error d => .error d
        | .ok l1, .ok l2 => .ok (l1.join n1 (n - n1) l2))

/-- The access goes to a page with the I/O attribute. -/
def Loc.isIo : Loc → Bool
  | .mem _ io _ => io
  | _ => true

/-- The memory runs of a location. -/
def Loc.runs : Loc → List (Nat × Nat)
  | .mem r _ _ => r
  | _ => []

/-- The little-endian number in runs of memory. -/
def State.natOf (s : State) (runs : List (Nat × Nat)) : Nat := leNat (runs.flatMap fun r => s.bytesAt r.1 r.2)

/-- Bytes written over runs of memory. -/
def State.setRuns (s : State) : List (Nat × Nat) → List Byte → State
  | [], _ => s
  | (k, n) :: rs, bs => (s.setBytes k (bs.take n)).setRuns rs (bs.drop n)

end Sys2Proof.Machine
end

