-- ==== Sys2Proof/Machine/Records.lean ====
section
/-!
DEFINITION. Records.lean: the clocks, budgets (spec/14_regions_scheduling.md R345, R346), and the record queues in
memory: fault records, trap-queue entries and cairn entries (spec/12_queues.md R310 to R315).
-/

namespace Sys2Proof.Machine

/-! ## Clocks (R119, R396, R345) -/

/-- A time from which a reading may be taken, by a free number of nanoseconds later than t but before the next budget
period. -/
def laterTime (t n : Nat) : Nat := min (t + n) ((t / 64000 + 1) * 64000 - 1)

/-- `time` read, after a free number of nanoseconds (R119). -/
def State.now (s : State) : State × Nat :=
  let t := laterTime s.hub.clock.time (Config.elapsed s.free)
  ({ s.updHub fun h => { h with clock := { h.clock with time := t } } with free := s.free + 1 }, t)

/-- `cycle` of a core's domain read, after a free number of clocks (R119). -/
def State.cycles (s : State) (n : Nat) : State × Nat :=
  let c := s.hub.clock
  let e := Config.elapsed s.free
  if 7200 ≤ n then
    ({ s.updHub fun h => { h with clock := { h.clock with cycleHub := c.cycleHub + e } } with free := s.free + 1 },
      c.cycleHub + e)
  else
    ({ s.updHub fun h => { h with clock := { h.clock with cycleWeave := c.cycleWeave + e } } with free := s.free + 1 },
      c.cycleWeave + e)

/-! ## Budgets (R337, R346) -/

/-- A region and its ancestors, at most n of them. -/
def regionChain (rs : List Region) : Nat → Nat → List Region
  | 0, _ => []
  | n + 1, id => match findRegion rs id with
    | none => []
    | some r => if r.regid = 0 then [r] else r :: regionChain rs n r.rcb.parent

/-- The regions that a charge by a region reaches: those of its chain with a budget of their own for activity k
(0 BMAT, 1 BCPY, 2 BFAB, 3 BFLT, 4 BGAT). -/
def charged (rs : List Region) (id k : Nat) : List (Region × Nat) :=
  (regionChain rs 8 id).filterMap fun r => (r.rcb.budgets.getD k none).map fun b => (r, b)

/-- Every counter an activity is charged to is below its budget (R346). -/
def State.budgetLeft (s : State) (p id k : Nat) : Bool :=
  (charged (s.partAt p).regions id k).all fun e => decide (e.1.used.getD k 0 < e.2)

/-- An amount added to every counter an activity is charged to. -/
def State.charge (s : State) (p id k amount : Nat) : State :=
  let ids := (charged (s.partAt p).regions id k).map fun e => e.1.regid
  ids.foldl (fun s i => s.updRegionAt p i fun r => { r with used := r.used.set k (r.used.getD k 0 + amount) }) s

/-- A fault service of a core of a launch (R346): one unit of BFLT; with the budget spent it is held, and the core issues
nothing more until it has been charged. -/
def State.chargeService (s : State) (n : Nat) : State :=
  match s.launchOf n, s.partOf n with
  | some r, some p =>
    if s.budgetLeft p r.regid 3 && (s.coreAt n).services == 0 then s.charge p r.regid 3 1
    else s.updCoreAt n fun c => { c with services := c.services + 1 }
  | _, _ => s

/-! ## Device accesses by partition-physical address -/

/-- Runs of keys for n bytes at a partition-physical address, at most f blocks of 4 KiB; none where the stage maps no
device memory or LPDDR-6 memory. -/
def physRuns (q : Part) : Nat → Nat → Nat → Option (List (Nat × Nat))
  | 0, _, n => if n = 0 then some [] else none
  | f + 1, pa, n =>
    if n = 0 then some []
    else
      let k := min n (4096 - pa % 4096)
      match tableKey q pa, physRuns q f (pa + k) (n - k) with
      | some key, some rest => some ((key, k) :: rest)
      | _, _ => none

/-- Bytes at runs of memory. -/
def State.runBytes (s : State) (runs : List (Nat × Nat)) : List Byte := runs.flatMap fun r => s.bytesAt r.1 r.2

/-- The first uncorrectable word that runs hold part of, as its key. -/
def State.badRuns (s : State) (runs : List (Nat × Nat)) : Option Nat :=
  match s.hub.badWords with
  | [] => none
  | ws => runs.findSome? fun r => wordIn ws r.1 r.2

/-- The first uncorrectable word that runs cover part of and not all (R403). -/
def State.partBad (s : State) (runs : List (Nat × Nat)) : Option Nat :=
  match s.hub.badWords with
  | [] => none
  | ws => runs.findSome? fun r =>
      wordIn (ws.filter fun w => !(decide (r.1 ≤ w * 16) && decide (w * 16 + 16 ≤ r.1 + r.2))) r.1 r.2

/-- Runs rewritten: words covered whole are good again (R403). -/
def State.repairRuns (s : State) (runs : List (Nat × Nat)) : State := runs.foldl (fun s r => s.repair r.1 r.2) s

/-- The transfers of runs of memory (R401): whether each succeeds, or the key of the first that fails. -/
def State.transferRuns (s : State) : List (Nat × Nat) → State × Option Nat
  | [] => (s, none)
  | r :: rs => match s.transfer r.1 with
    | (s, true) => s.transferRuns rs
    | (s, false) => (s, some r.1)

/-- Words with a correctable error of runs corrected. -/
def State.correctRuns (s : State) (runs : List (Nat × Nat)) : State := runs.foldl (fun s r => s.correct r.1 r.2) s

/-- A read of runs of memory for a cluster's access or for none: words are corrected; one that meets an uncorrectable
word, or the 8th failure of a transfer, is counted and reported (R401, R402). -/
def State.readRuns (s : State) (by_ : Option Nat) (runs : List (Nat × Nat)) : State × Except Cond (List Byte) :=
  match s.transferRuns runs with
  | (s, some k) => (s.detect by_ k, .error .uncorrectable)
  | (s, none) => match s.badRuns runs with
    | some k => (s.detect by_ k, .error .uncorrectable)
    | none =>
      let s := s.correctRuns runs
      (s, .ok (s.runBytes runs))

/-- A write of runs of memory (R401, R403). -/
def State.writeRuns (s : State) (by_ : Option Nat) (runs : List (Nat × Nat)) (bs : List Byte) :
    State × Except Cond Unit :=
  match s.transferRuns runs with
  | (s, some k) => (s.detect by_ k, .error .uncorrectable)
  | (s, none) => match s.partBad runs with
    | some k => (s.detect by_ k, .error .uncorrectable)
    | none => (((s.setRuns runs bs).repairRuns runs).correctRuns runs, .ok ())

/-- A device read at a partition-physical address. -/
def State.physRead (s : State) (q : Part) (pa n : Nat) : State × Except Cond (List Byte) :=
  match physRuns q (n / 4096 + 2) pa n with
  | none => (s, .error .permission)
  | some runs => s.readRuns none runs

/-- A device write at a partition-physical address. -/
def State.physWrite (s : State) (q : Part) (pa : Nat) (bs : List Byte) : State × Except Cond Unit :=
  match physRuns q (bs.length / 4096 + 2) pa bs.length with
  | none => (s, .error .permission)
  | some runs => s.writeRuns none runs bs

/-- Bytes lo to lo + n - 1 of a list, as a number. -/
def natIn (bs : List Byte) (lo n : Nat) : Nat := leNat ((bs.drop lo).take n)

/-! ## Record queues (R310 to R312) -/

/-- The record queues of a partition. -/
inductive Queue | fault | trap | cairn
deriving DecidableEq, Repr

def Queue.block (q : Queue) (p : Part) : Nat := match q with
  | .fault => p.fqcb.toNat
  | .trap => p.tqcb.toNat
  | .cairn => p.cacb.toNat

def Queue.lo (q : Queue) : Nat := match q with
  | .fault => 6
  | .trap => 13
  | .cairn => 8

def Queue.hi (q : Queue) : Nat := match q with
  | .cairn => 20
  | _ => 16

/-- A control block is usable (R312). -/
def usableBlock (q : Queue) (b : List Byte) : Bool :=
  let l := natIn b 8 4
  decide (q.lo ≤ l) && decide (l ≤ q.hi) && natIn b 0 8 % 4096 == 0 && natIn b 12 4 == 0 && natIn b 40 24 == 0

/-- LOST of a control block grows by one, as far as the block can be written. -/
def State.lose (s : State) (p : Part) (cb : Nat) (b : List Byte) : State :=
  (s.physWrite p (cb + 32) (leBytes 8 (natIn b 32 8 + 1))).1

/-- An entry put into a record queue, with whether it was written (R311, R312). -/
def State.post (s : State) (pn : Nat) (q : Queue) (entry : List Byte) : State × Bool :=
  let p := s.partAt pn
  let cb := q.block p
  match s.physRead p cb 64 with
  | (s, .error _) => (s, false)
  | (s, .ok b) =>
    if !usableBlock q b then (s.lose p cb b, false)
    else
      let size := 2 ^ natIn b 8 4
      let prod := natIn b 16 8
      let full := (prod + (2 ^ 64 - natIn b 24 8)) % 2 ^ 64 = size
      if q ≠ .cairn && full then (s.lose p cb b, false)
      else match s.physWrite p (natIn b 0 8 + prod % size * entry.length) entry with
        | (s, .error _) => (s.lose p cb b, false)
        | (s, .ok _) => match s.physWrite p (cb + 16) (leBytes 8 (prod + 1)) with
          | (s, .error _) => (s.lose p cb b, false)
          | (s, .ok _) => (if q = .cairn && decide (size ≤ prod) then s.lose p cb b else s, true)

/-- PROD differs from CONS, or LOST is not 0 when that counts, in a partition's queue (R376). -/
def State.pending (s : State) (pn : Nat) (q : Queue) (lost : Bool) : Bool :=
  let p := s.partAt pn
  match s.physRead p (q.block p) 64 with
  | (_, .error _) => false
  | (_, .ok b) => !(natIn b 16 8 == natIn b 24 8) || (lost && !(natIn b 32 8 == 0))

/-! ## The entries (R313 to R315) -/

/-- What a fault record says (R313), beside what the device fills in. -/
structure FaultRec where
  kind : Nat
  cause : Nat
  out : Nat
  core : Nat
  asid : Nat
  regid : Nat
  j : Nat
  pc : Word
  info : Nat
  missing : List Nat
  pages : List Nat
deriving DecidableEq, Repr

/-- The 128 bytes of a fault record. -/
def FaultRec.bytes (r : FaultRec) (seq time : Nat) : List Byte :=
  let batch := r.kind = 1 || r.kind = 2
  let mbase := if batch then 32 * (r.j / 32) else 0
  let pages := r.pages.take 6
  let morep := if 6 < r.pages.length then 128 else 0
  let morem := if r.missing.any fun i => decide (mbase + 256 ≤ i) then 64 else 0
  let mask := (r.missing.filter fun i => decide (mbase ≤ i) && decide (i < mbase + 256)).foldl
    (fun m i => m ||| 2 ^ (i - mbase)) 0
  leBytes 1 r.kind ++ leBytes 1 r.cause ++ leBytes 1 (morep + morem + 8 * r.out + pages.length) ++
  leBytes 1 (r.core % 9) ++ leBytes 2 (clusterOf r.core) ++ leBytes 2 r.asid ++ leBytes 4 r.regid ++
  leBytes 2 r.j ++ leBytes 2 mbase ++ leBytes 8 r.pc.toNat ++ leBytes 8 seq ++ leBytes 8 time ++
  leBytes 8 r.info ++ leBytes 32 mask ++ pages.flatMap (leBytes 8) ++
  (List.replicate (6 - pages.length) (leBytes 8 0)).flatten

/-- A fault record posted for a core, with whether it was written; counted by its kind, and charged when it
accompanies a stop (R346, R356). -/
def State.postFault (s : State) (r : FaultRec) : State × Bool :=
  match s.partOf r.core with
  | none => (s, false)
  | some pn =>
    let (s, time) := s.now
    let seq := (s.partAt pn).faultSeq
    let s := s.updPartAt pn fun p => { p with faultSeq := seq + 1 }
    let (s, ok) := s.post pn .fault (r.bytes seq time)
    let s := if ok then s.countCluster (clusterOf r.core) (if r.kind = 4 then 6 else 5) 1
      else s.countCluster (clusterOf r.core) 7 1
    (if r.out = 1 || r.out = 2 || r.out = 3 then s.chargeService r.core else s, ok)

/-- A trap-queue entry for a core (R314). -/
def State.postTrap (s : State) (n cause kind : Nat) : State :=
  match s.partOf n with
  | none => s
  | some pn =>
    let (s, _) := s.post pn .trap (leBytes 8 (s.hartid n) ++ leBytes 1 cause ++ leBytes 1 kind ++ leBytes 2 0 ++
      leBytes 4 (s.coreAt n).ident.regid.toNat)
    s.chargeService n

/-- A cairn entry (R315). -/
def State.cairn (s : State) (pn regid event code cluster arg : Nat) : State :=
  let (s, time) := s.now
  let seq := (s.partAt pn).cairnSeq
  let s := s.updPartAt pn fun p => { p with cairnSeq := seq + 1 }
  (s.post pn .cairn (leBytes 8 seq ++ leBytes 8 time ++ leBytes 4 regid ++ leBytes 1 event ++ leBytes 1 code ++
    leBytes 2 cluster ++ leBytes 8 arg)).1

/-- CLUSTER of a cairn entry that names none. -/
def noCluster : Nat := 0x3FF

end Sys2Proof.Machine
end

