-- ==== Sys2Proof/Machine/Rcb.lean ====
section
/-!
DEFINITION. Rcb.lean: region control blocks: their fields, the values a region inherits, and the checks of z.spawn
(spec/14_regions_scheduling.md R336, R337, R342).
-/

namespace Sys2Proof.Machine

def rcbMagic : Nat := 0x52434209

/-- Override bit k of an RCB (R337). -/
def rcbOvr (b : List Byte) (k : Nat) : Bool := bitOf (natIn b 4 2) k

/-- Offset and size of the field override bit k is for. -/
def rcbField : Nat → Nat × Nat
  | 0 => (16, 1)
  | 1 => (17, 1)
  | 2 => (18, 1)
  | 3 => (20, 2)
  | 4 => (22, 2)
  | 5 => (7, 1)
  | 6 => (32, 8)
  | 7 => (40, 8)
  | 8 => (48, 8)
  | 9 => (56, 4)
  | _ => (60, 4)

/-- The effective value of a field: the RCB's, or the parent's (R337). -/
def rcbEff (b : List Byte) (k parent : Nat) : Nat :=
  if rcbOvr b k then natIn b (rcbField k).1 (rcbField k).2 else parent

/-- The own budget for activity k, if the RCB overrides it. -/
def rcbBudget (b : List Byte) (k : Nat) : Option Nat :=
  if rcbOvr b (6 + k) then some (natIn b (rcbField (6 + k)).1 (rcbField (6 + k)).2) else none

/-- An RCB with every field zero. -/
def Rcb.zero : Rcb where
  launch := false
  parent := 0
  prio := 0
  lclass := 0
  fpol := 0
  asid := 0
  fasid := 0
  wsmask := 0
  sroot := 0
  needs := 0
  budgets := [none, none, none, none, none]
  cword := 0
  ncrew := 0
  ssize := 0
  tentry := 0
  hentry := [0, 0, 0, 0, 0, 0, 0, 0]
  lanes := [0, 0, 0, 0, 0, 0, 0, 0]
  minlanes := [0, 0, 0, 0, 0, 0, 0, 0]
  params := 0
  data := 0
  stack := 0
  gang := 0
  glen := 0
  gstart := 0
  gper := 0

/-- The region an RCB describes below a parent (R336, R337). -/
def rcbOf (parent : Rcb) (b : List Byte) : Rcb where
  launch := natIn b 6 1 == 1
  parent := natIn b 8 4
  prio := rcbEff b 0 parent.prio
  lclass := rcbEff b 1 parent.lclass
  fpol := rcbEff b 2 parent.fpol
  asid := rcbEff b 3 parent.asid
  fasid := rcbEff b 4 parent.fasid
  wsmask := rcbEff b 5 parent.wsmask
  sroot := natIn b 24 4
  needs := natIn b 28 2
  budgets := (List.range 5).map (rcbBudget b)
  cword := .ofNat 64 (natIn b 64 8)
  ncrew := natIn b 72 4
  ssize := natIn b 76 4
  tentry := .ofNat 64 (natIn b 80 8)
  hentry := (List.range 8).map fun h => .ofNat 64 (natIn b (88 + 8 * h) 8)
  lanes := (List.range 8).map fun h => natIn b (152 + h) 1
  minlanes := (List.range 8).map fun h => natIn b (160 + h) 1
  params := .ofNat 64 (natIn b 168 8)
  data := .ofNat 64 (natIn b 176 8)
  stack := .ofNat 64 (natIn b 184 8)
  gang := natIn b 192 4
  glen := natIn b 196 4
  gstart := natIn b 200 8
  gper := natIn b 208 8

/-- A region as it enters the table. -/
def Region.make (id depth : Nat) (rcb : Rcb) (phase : Phase) (order since : Nat) : Region where
  regid := id
  depth := depth
  rcb := rcb
  used := [0, 0, 0, 0, 0]
  phase := phase
  order := order
  since := since
  placedAt := 0
  clusters := []
  word := 0
  cores := 0
  started := false
  fresh := []
  saved := []
  savedCrews := []

/-- A hart of the launch has an entry. -/
def Rcb.hasHart (r : Rcb) (h : Nat) : Bool := !(r.hentry.getD h 0 == 0)
def Rcb.hasTreadle (r : Rcb) : Bool := !(r.tentry == 0)
/-- The harts with an entry. -/
def Rcb.harts (r : Rcb) : List Nat := (List.range 8).filter r.hasHart
/-- The launch's core count (R295). -/
def Rcb.coreCount (r : Rcb) : Nat := r.ncrew * (r.harts.length + if r.hasTreadle then 1 else 0)

/-- The region is the spawn root or stands below it (R342, R343). -/
def below (rs : List Region) (root id : Nat) : Bool := (regionChain rs 8 id).any fun r => decide (r.regid = root)

/-- A region's effective budget for an activity: its own, or its nearest ancestor's. -/
def effBudget (rs : List Region) (id k : Nat) : Nat :=
  match charged rs id k with
  | (_, b) :: _ => b
  | [] => 0

/-- The region of a parent's RCB. -/
def parentRcb (rs : List Region) (b : List Byte) : Rcb :=
  match findRegion rs (natIn b 8 4) with
  | some r => r.rcb
  | none => Rcb.zero

/-- Check 1 of R342. DESIGN CHOICE (log 29): a KIND above 1 fails it. -/
def rcbBadForm (b : List Byte) : Bool :=
  !(natIn b 0 4 == rcbMagic) || decide (1 < natIn b 6 1) ||
  !(natIn b 4 2 / 2048 == 0) || !(natIn b 12 4 == 0) || !(natIn b 19 1 == 0) || !(natIn b 30 2 == 0) ||
  !(natIn b 216 40 == 0) || decide (15 < natIn b 16 1) || decide (3 < natIn b 17 1) || decide (2 < natIn b 18 1) ||
  ((List.range 11).any fun k => !rcbOvr b k && !(natIn b (rcbField k).1 (rcbField k).2 == 0)) ||
  (natIn b 6 1 == 0 && !(natIn b 64 192 == 0))

/-- A lane count of R336. -/
def laneCount (n : Nat) : Bool := n == 0 || n == 4 || n == 8 || n == 16 || n == 32

/-- Check 7 of R342. -/
def rcbBadCores (r : Rcb) : Bool :=
  r.harts.isEmpty && !r.hasTreadle ||
  (r.harts.any fun h => !laneCount (r.lanes.getD h 0) || !laneCount (r.minlanes.getD h 0) ||
    decide (r.lanes.getD h 0 < r.minlanes.getD h 0)) ||
  decide (32 < (r.harts.map fun h => r.minlanes.getD h 0).sum) || !(r.ssize % 16 == 0)

/-- The code z.spawn fails with, 0 for none (R342): a caller's spawn root, if it has one, and the number of online
clusters of the partition. -/
def spawnCode (p : Part) (root : Option Nat) (online : Nat) (b : List Byte) : Nat :=
  let rs := p.regions
  let parent := natIn b 8 4
  let rcb := rcbOf (parentRcb rs b) b
  if rcbBadForm b then 1
  else match findRegion rs parent, root with
    | some pr, some rt =>
      if !below rs rt parent || pr.rcb.launch then 2
      else if 8 ≤ pr.depth then 3
      else if 256 ≤ (rs.filter fun r => decide (r.regid ≠ 0) && decide (r.rcb.parent = parent)).length then 4
      else if (List.range 5).any fun k => match rcbBudget b k with
        | some v => decide (effBudget rs parent k < v)
        | none => false then 5
      else if !(rcb.needs &&& p.feat == 0) then 6
      else if rcb.launch && rcbBadCores rcb then 7
      else if rcb.launch && (rcb.ncrew == 0 || decide (online < rcb.ncrew)) then 8
      else if !(rcb.wsmask &&& (255 ^^^ p.wsdies % 256) == 0) then 9
      else if rcb.launch && (rcb.cword == 0 || !(rcb.cword.toNat % 8 == 0)) then 10
      else if !(rcb.gang == 0) && (rcb.glen == 0 || rcb.gper == 0 || decide (rcb.gper < rcb.glen)) then 11
      else if 16384 ≤ rs.length || 2 ^ 32 ≤ p.nextReg then 12
      else 0
    | _, _ => 2

end Sys2Proof.Machine
end

