-- ==== Sys2Proof/Machine/Device.lean ====
section
/-!
DEFINITION. Device.lean: the device registers (spec/10_memories.md R238): trap windows (spec/16_events.md R363 to R367),
counter blocks, budget windows, the hub block (spec/15_counters.md R354 to R359), the plat
(spec/14_regions_scheduling.md R338, R339), recovery blocks (spec/17_outside.md R398), the time status and power status
registers (R396, spec/18_reliability_security.md R410).
-/

namespace Sys2Proof.Machine

/-- The order of the levels (R6). -/
def rankOf : Level → Nat
  | .u => 0
  | .s => 1
  | .h => 2
  | .m => 3

/-- One of the device registers. -/
inductive Reg | window (core off : Nat) | counter (cluster off : Nat) | budget (part off : Nat) | port (p off : Nat)
  | health (die off : Nat) | time | power | recovery (part off : Nat) | plat (off : Nat) | attach (off : Nat)
deriving DecidableEq, Repr

/-- The register block an address names. -/
def regOf (pa : Nat) : Option Reg :=
  let within (lo n : Nat) : Bool := decide (lo ≤ pa) && decide (pa < lo + n)
  if within 0xF000000100000 0x2000 then some (.plat (pa - 0xF000000100000))
  else if within 0xF000000110000 0x1200 then some (.attach (pa - 0xF000000110000))
  else if within 0xF000001000000 0x320000 then
    some (.counter ((pa - 0xF000001000000) / 4096) ((pa - 0xF000001000000) % 4096))
  else if within 0xF000001400000 0x400 then
    some (.recovery ((pa - 0xF000001400000) / 64) ((pa - 0xF000001400000) % 64))
  else if within 0xF000001480000 0x400 then some (.budget ((pa - 0xF000001480000) / 64) ((pa - 0xF000001480000) % 64))
  else if within 0xF000001500800 0x200 then some (.port ((pa - 0xF000001500800) / 32) ((pa - 0xF000001500800) % 32))
  else if within 0xF000001500000 0x800 then
    some (.health ((pa - 0xF000001500000) / 256) ((pa - 0xF000001500000) % 256))
  else if within 0xF000001501000 8 then some .time
  else if within 0xF000001502000 8 then some .power
  else if within 0xF000002000000 (0x1000 * 7200) then
    some (.window ((pa - 0xF000002000000) / 4096) ((pa - 0xF000002000000) % 4096))
  else none

/-- The stage maps a cluster's blocks for a partition (R354, R363); with no partition (log 8) all are mapped. -/
def State.mapsCluster (s : State) (part : Option Nat) (c : Nat) : Bool :=
  match part with
  | none => true
  | some p =>
    let a := s.hub.clusterAtt.get Attach.none c
    decide (a.state ≠ 0) && decide (a.part = p)

/-- A level and partition may reach a register block of a partition at S, or any at H. -/
def ownOrH (level : Level) (part : Option Nat) (p : Nat) : Bool :=
  decide (2 ≤ rankOf level) || (decide (1 ≤ rankOf level) && part == some p)

/-! ## Trap windows (R363, R364) -/

/-- The address at which a core stands: of its instruction, or of a rider that will be issued again with it, and of any
rider after a lead trap (R55). -/
def Core.standsAt (c : Core) : Word := match c.rider, c.resume with
  | some r, none => r.pc
  | some r, some _ => if c.win.kind = .lead then r.pc else c.pc
  | none, _ => c.pc

/-- PC of a window: a new value written, or the stopped instruction or its rider (R363, R374). -/
def Core.windowPc (c : Core) : Word := c.win.newPc.getD c.standsAt

/-- The CREG slots: for a hart vl, vg, vff, vfs, vfl, vcfg, vstat, qthr, qstat, G; for a treadle kl, kg, kff, kfs, kfl,
tstat, kpos. -/
def Core.creg (c : Core) (k : Kind) (slot : Nat) : Nat :=
  match k, slot with
  | _, 0 => c.strip.len.toNat
  | _, 1 => c.strip.granted.toNat
  | _, 2 => c.strip.ff.toNat
  | _, 3 => c.strip.fs.toNat
  | _, 4 => c.strip.floor.toNat
  | .treadle, 5 => c.modes.stat.toNat
  | .treadle, 6 => c.strip.kpos.toNat
  | .treadle, _ => 0
  | _, 5 => c.modes.vcfg.toNat
  | _, 6 => c.modes.stat.toNat
  | _, 7 => c.modes.qthr.toNat
  | _, 8 => c.modes.qstat.toNat
  | _, 9 => c.strip.gran
  | _, _ => 0

/-- KIND by number (R364). -/
def StopKind.code : StopKind → Nat
  | .running => 0
  | .lead => 1
  | .tail => 2
  | .hstop => 3

/-- STATE (R364). -/
def Core.windowState (c : Core) : Nat :=
  (if c.win.latch then 2 ^ 31 else 0) + c.held.length % 256 * 65536 + (if c.push.isSome then 32768 else 0) +
  c.win.kind.code * 256 + c.win.cause

/-- The 8 bytes at an aligned window offset. -/
def Core.windowRead (c : Core) (k : Kind) (off : Nat) : Nat :=
  if off < 0x100 then (c.xreg (off / 8)).toNat
  else if off = 0x100 then c.windowPc.toNat
  else if off = 0x108 then c.windowState
  else if off = 0x110 then c.win.tval.toNat
  else if off = 0x118 then c.win.prog
  else if 0x120 ≤ off && off < 0x160 then
    c.creg k ((off - 0x120) / 4) + 2 ^ 32 * c.creg k ((off - 0x120) / 4 + 1)
  else if off = 0x160 then c.win.ctx.toNat
  else if off = 0x168 then (if k = .treadle then 0 else c.win.vown.toNat)
  else if off = 0x178 then c.win.cmdstat
  else if off = 0x180 then c.win.varea.toNat
  else if off = 0x188 then c.win.tarea.toNat
  else if off = 0x190 then c.ident.asid.toNat
  else 0

/-! ## Writing a window (R365) -/

/-- A vcfg value a write may give: no RES bit, VSCO below 5 (R112). -/
def vcfgOk (v : Half) : Bool := v &&& 0xFFF001C0 == 0 && decide (v.toNat / 8192 % 8 < 5)
/-- A vstat or tstat value with no RES bit (R113). -/
def statOk (v : Half) : Bool := v &&& 0xFFFFFEC0 == 0
/-- A vfs or kfs value with no RES bit (R114). -/
def fsOk (v : Half) : Bool := v &&& 0xFFFFFE00 == 0
/-- A qthr value with a clear sign and a finite exponent (R116). -/
def qthrOk (v : Half) : Bool := v.toNat / 2 ^ 31 == 0 && !(v.toNat / 2 ^ 23 % 256 == 255)
/-- A qstat value with no RES bit (R115). -/
def qstatOk (v : Half) : Bool := v &&& 0xFFFFFFFC == 0

/-- The limit of R13 a hart's lengths obey: VLMAX or vclamp; a treadle's have none but each other. -/
def Core.effMax (c : Core) (k : Kind) : Nat :=
  if k = .treadle then 2 ^ 32 - 1 else min c.vlmax c.strip.clamp.toNat

/-- The lengths of a core stand in the order of R365. -/
def Core.lengthsOk (c : Core) (k : Kind) : Bool :=
  decide (c.strip.floor.toNat ≤ c.strip.len.toNat) && decide (c.strip.len.toNat ≤ c.strip.granted.toNat) &&
  decide (c.strip.granted.toNat ≤ c.effMax k)

/-- The control registers that a CREG slot holds; G and kpos have no number. -/
def cregNumber (k : Kind) (slot : Nat) : List Nat := match k, slot with
  | .treadle, 5 => [0x16]
  | .treadle, s => if s < 5 then [0x10 + s] else []
  | _, 7 => [0x20]
  | _, 8 => [0x21]
  | _, s => if s < 7 then [s] else []

/-- A length slot's write takes effect: the lengths then stand in order and nothing is held. -/
def Core.lengthWrite (c : Core) (k : Kind) (st : Strip) : Option Core :=
  if c.held.isEmpty && ({ c with strip := st } : Core).lengthsOk k then some { c with strip := st } else none

/-- The core after a write of one CREG slot; none where the write is ignored (R365). -/
def Core.cregWrite (c : Core) (k : Kind) (slot : Nat) (v : Half) : Option Core :=
  let strip (ok : Bool) (st : Strip) : Option Core := if ok then some { c with strip := st } else none
  let modes (ok : Bool) (m : Modes) : Option Core := if ok then some { c with modes := m } else none
  match k, slot with
  | _, 0 => c.lengthWrite k { c.strip with len := v }
  | _, 1 => c.lengthWrite k { c.strip with granted := v }
  | _, 2 => strip true { c.strip with ff := v }
  | _, 3 => strip (fsOk v) { c.strip with fs := v }
  | _, 4 => c.lengthWrite k { c.strip with floor := v }
  | .treadle, 5 => modes (statOk v) { c.modes with stat := v }
  | .treadle, 6 => strip c.held.isEmpty { c.strip with kpos := v }
  | .treadle, _ => none
  | _, 5 => modes (vcfgOk v) { c.modes with vcfg := v }
  | _, 6 => modes (statOk v) { c.modes with stat := v }
  | _, 7 => modes (qthrOk v) { c.modes with qthr := v }
  | _, 8 => modes (qstatOk v) { c.modes with qstat := v }
  | _, 9 => strip (c.held.isEmpty && (v == 1 || v == 2 || v == 4 || v == 32)) { c.strip with gran := v.toNat }
  | _, _ => none

/-- One CREG slot written (R365); the register it then holds is good again (R401). -/
def Core.setCreg (c : Core) (k : Kind) (slot : Nat) (v : Half) : Core := match c.cregWrite k slot v with
  | some d => d.goodCtl (cregNumber k slot)
  | none => c

/-- PC of a window written; what a new value drops is dropped when the core is resumed (R374). -/
def Core.setWindowPc (c : Core) (v : Word) : Core :=
  if !(v.toNat % 4 == 0) then c
  else { c with win := { c.win with newPc := if v = c.standsAt then none else some v } }

/-- The event row of a window command (R367). -/
def commandEvent (core : Nat) : Nat → Option Instr
  | 1 => some (.vsave core)
  | 2 => some (.vload core)
  | 3 => some (.vclear core)
  | 4 => some (.tsave core)
  | 5 => some (.tload core)
  | 6 => some (.tenable core)
  | 7 => some (.tdisable core)
  | _ => none

/-- A write to CMD (R367): refused at once while the core is not stopped, and a vector command on a treadle, which holds
no vector state; else the command and its end come next. -/
def State.startCommand (s : State) (n v : Nat) : State :=
  let c := s.coreAt n
  match commandEvent n v with
  | none => s
  | some e =>
    if c.win.cmdstat = 1 then s
    else if c.win.kind = .running || (decide (v ≤ 3) && kindOf n == .treadle) then
      s.updCoreAt n fun c => { c with win := { c.win with cmdstat := 2 } }
    else
      let s := s.updCoreAt n fun c => { c with win := { c.win with cmd := v, cmdstat := 1 } }
      (s.later e).later (.windowCommandDone n)

/-- A window command in progress goes on after its core has been placed again (R367, R379). -/
def State.continueCommand (s : State) (n : Nat) : State :=
  let w := (s.coreAt n).win
  if w.cmdstat = 1 then
    (match commandEvent n w.cmd with
      | some e => s.later e
      | none => s).later (.windowCommandDone n)
  else s

/-- An 8-byte write to a window at an aligned offset (R365). DEDUCED (log 24): ASID is read only (R363), and asid takes a
value at placement alone; R110's "a supervisor context switch" changes it in no way that a rule gives, so that of a hub
hart stays 0. -/
def State.windowWrite (s : State) (n off : Nat) (v : Word) : State :=
  let c := s.coreAt n
  let k := kindOf n
  if off = 0x170 then s.startCommand n v.toNat
  else if c.win.kind = .running then s
  else if off < 0x100 then s.setCoreAt n (c.setX (off / 8) v)
  else if off = 0x100 then s.setCoreAt n (c.setWindowPc v)
  else if 0x120 ≤ off && off < 0x160 then
    let slot := (off - 0x120) / 4
    s.setCoreAt n ((c.setCreg k slot (v.setWidth 32)).setCreg k (slot + 1) ((v >>> 32).setWidth 32))
  else if off = 0x160 then s.setCoreAt n { c with win := { c.win with ctx := v.setWidth 16 } }
  else if off = 0x180 then s.setCoreAt n { c with win := { c.win with varea := v } }
  else if off = 0x188 then s.setCoreAt n { c with win := { c.win with tarea := v } }
  else s

/-! ## Counters (R356 to R359) -/

/-- The counter at an offset of a cluster's block. DESIGN CHOICE (log 11): the read includes every event up to it, where R355
lets those of the last 2,600 cycles be missing. -/
def State.counterAt (s : State) (c off : Nat) : Nat :=
  if off < 0x480 then ((s.coreAt (9 * c + off / 128)).events.get 0 (off % 128 / 8)).toNat
  else if off < 0x4F0 then ((s.clusterAt c).events.get 0 ((off - 0x480) / 8)).toNat
  else 0

def Port.read (p : Port) (off : Nat) : Nat :=
  if off = 0 then p.rawb.toNat else if off = 8 then p.sentb.toNat else if off = 16 then p.blkc.toNat
  else p.blkr.toNat

def Health.read (h : Health) (off : Nat) : Nat :=
  if off = 0 then h.wscorr.toNat else if off = 8 then h.wsunc.toNat else if off = 16 then h.gcrc.toNat
  else if off = 24 then h.drift.toNat else if off = 32 then h.margin.toNat else if off = 40 then h.eye0.toNat
  else if off = 48 then h.eye1.toNat else if off = 56 then h.eol.toNat else if off = 64 then h.updated.toNat else 0

/-- The budget window (R357). -/
def Snapshot.read (w : Snapshot) (off : Nat) : Nat :=
  if off = 0 then w.sel.toNat else if off < 48 then w.used.getD (off / 8 - 1) 0 else if off = 48 then w.period
  else w.own

/-- A write to SEL (R357). -/
def State.snapshot (s : State) (p : Nat) (sel : Word) : State :=
  let period := s.hub.clock.time / 64000
  let snap : Snapshot := match s.regionAt p sel.toNat with
    | none => ⟨sel, [0, 0, 0, 0, 0], 0, 0⟩
    | some r =>
      let own := (List.range 5).foldl (fun a k => if (r.rcb.budgets.getD k none).isSome then a + 2 ^ (k + 1) else a) 1
      let used := (List.range 5).map fun k => if (r.rcb.budgets.getD k none).isSome then r.used.getD k 0 else 0
      ⟨sel, used, period, own⟩
  s.updPartAt p fun q => { q with snap := snap }

/-- The time status register (R396). -/
def Clock.status (c : Clock) : Nat :=
  c.offs.toNat * 2 ^ 32 + (if c.src then 2 else 0) + (if c.lock then 1 else 0)

/-- The power status register (R410). -/
def Power.status (p : Power) : Nat :=
  p.pl % 65536 * 2 ^ 48 + p.pwr % 65536 * 2 ^ 32 + p.tj % 256 * 2 ^ 24 + p.duty % 16 * 65536 + p.trips.toNat * 256 +
  (if p.trip then 2 else 0) + (if p.duty < 8 then 1 else 0)

/-! ## The recovery block (R398) -/

def Recovery.read (r : Recovery) (off : Nat) : Nat :=
  if off = 0 then (if r.hold then 1 else 0) else if off = 8 then (if r.quiet then 1 else 0)
  else if off = 16 then r.img.toNat else if off = 32 then r.stat else if off = 40 then r.size else 0

/-- Every core placed for the placed launches of a partition. -/
def State.placedCores (s : State) (p : Nat) : List Nat :=
  (s.partAt p).regions.flatMap fun r => match r.phase with
    | .placed => s.coresOf p r.regid
    | _ => []

/-- A write to HOLD (R398): with 1 every placed launch is pre-empted, and QUIET follows; with 0 the surveyor places
again. -/
def State.setHold (s : State) (p : Nat) (hold : Bool) : State :=
  if hold then
    let cores := s.placedCores p
    let s := s.updPartAt p fun q => { q with
      recov := { q.recov with hold := true }
      regions := q.regions.map fun r => if r.phase = .placed then { r with phase := .vacating 0 } else r }
    (cores.foldl (fun s n => s.later (.preemptRequest n 0)) s).later (.recoveryQuiet p)
  else (s.updPartAt p fun q => { q with recov := { q.recov with hold := false, quiet := false } }).later (.placement p)

/-- A write to a field of the recovery block. -/
def State.recoveryField (s : State) (p off : Nat) (v : Word) : State :=
  if off = 0 then s.setHold p (bitOf v.toNat 0)
  else if off = 16 then s.updPartAt p fun q => { q with recov := { q.recov with img := v } }
  else if off = 24 then
    let r := (s.partAt p).recov
    if r.stat = 1 || !(v == 1 || v == 2) then s
    else if !r.hold || !r.quiet then s.updPartAt p fun q => { q with recov := { q.recov with stat := 2 } }
    else
      let s := s.updPartAt p fun q => { q with recov := { q.recov with stat := 1, cmd := v.toNat } }
      (s.later (if v == 1 then .recoverySave p else .recoveryRestore p)).later (.recoveryCommandDone p)
  else s

/-- Bytes laid over a list from an offset on. -/
def overlay (b : List Byte) (off : Nat) (new : List Byte) : List Byte :=
  b.take off ++ new ++ b.drop (off + new.length)

/-- A write of bytes of the recovery block: each field they reach, in ascending order, keeps its other bytes (R339). -/
def State.recoveryWrite (s : State) (p off : Nat) (bs : List Byte) : State :=
  ((List.range 8).filter fun k => decide (8 * k < off + bs.length) && decide (off < 8 * k + 8)).foldl (fun s k =>
    let r := (s.partAt p).recov
    let b := overlay (leBytes (off + bs.length + 8) (r.read (8 * k) * 256 ^ (8 * k))) off bs
    s.recoveryField p (8 * k) (.ofNat 64 (natIn b (8 * k) 8))) s

/-! ## The plat (R338, R339) -/

/-- A partition entry's 512 bytes. -/
def Part.bytes (p : Part) : List Byte :=
  leBytes 1 p.state ++ leBytes 1 p.vf ++ leBytes 2 p.feat ++ leBytes 1 p.nch ++ leBytes 1 p.stage ++
  leBytes 1 p.wsdies ++ [0] ++ leBytes 8 p.root.toNat ++ leBytes 8 p.asiddir.toNat ++ leBytes 8 p.fqcb.toNat ++
  leBytes 8 p.tqcb.toNat ++ leBytes 8 p.cacb.toNat ++ Tbl.getRange (0 : Byte) p.map 0 48 ++
  leBytes 8 p.lbase.toNat ++ leBytes 8 p.lsize.toNat ++ List.replicate 400 0

/-- A partition entry with the fields of 512 bytes, but for STATE. -/
def Part.withBytes (p : Part) (b : List Byte) : Part := { p with
  vf := natIn b 1 1
  feat := natIn b 2 2
  nch := natIn b 4 1
  stage := natIn b 5 1
  wsdies := natIn b 6 1
  root := .ofNat 64 (natIn b 8 8)
  asiddir := .ofNat 64 (natIn b 16 8)
  fqcb := .ofNat 64 (natIn b 24 8)
  tqcb := .ofNat 64 (natIn b 32 8)
  cacb := .ofNat 64 (natIn b 40 8)
  map := Tbl.setRange (0 : Byte) p.map 0 ((b.drop 48).take 48)
  lbase := .ofNat 64 (natIn b 96 8)
  lsize := .ofNat 64 (natIn b 104 8) }

/-- A partition owns some resource. -/
def State.ownsAny (s : State) (p : Nat) : Bool :=
  let own (t : Tbl Attach) := t.any fun e => decide (e.2.state ≠ 0) && decide (e.2.part = p)
  own s.hub.clusterAtt || own s.hub.hubAtt || own s.hub.chanAtt

/-- Some cluster or hub hart of a partition is online. -/
def State.anyOnline (s : State) (p : Nat) : Bool :=
  let on (t : Tbl Attach) := t.any fun e => decide (e.2.state = 2) && decide (e.2.part = p)
  on s.hub.clusterAtt || on s.hub.hubAtt

/-- The conditions under which a partition may come online (R339); in recovery none does (R405). -/
def State.canOnline (s : State) (n : Nat) : Bool :=
  let p := s.partAt n
  let chans := (List.range p.nch).map fun i => (Tbl.get (0 : Byte) p.map i).toNat
  !(s.parts.any fun e => decide (e.1 ≠ n) && decide (e.2.state = 2) && decide (e.2.stage = p.stage)) &&
  s.hub.firmware.running.isSome && decide (p.nch ≤ 48) && decide chans.Nodup &&
  chans.all fun c =>
    let a := s.hub.chanAtt.get Attach.none c
    decide (a.state ≠ 0) && decide (a.part = n)

/-- A partition comes online: its region table holds the root region alone (R335), read from ROOT. DEDUCED (log 25):
the root has REGID 0. DEDUCED (log 5): the reconfiguration of R316 that empties its translations is this one. -/
def State.bringOnline (s : State) (n : Nat) : State :=
  let p := s.partAt n
  let (s, b) := s.physRead p p.root.toNat 256
  let bytes := match b with
    | .ok bs => overlay bs 4 (leBytes 2 0x7FF)
    | .error _ => leBytes 4 rcbMagic ++ leBytes 2 0x7FF ++ List.replicate 250 0
  let root := Region.make 0 1 (rcbOf Rcb.zero bytes) .group 0 0
  let s := { s with
    tlb := s.tlb.filter fun t => !decide (t.part = n), walks := s.walks.filter fun t => !decide (t.part = n) }
  s.setPartAt n { p with state := 2, regions := [root], nextReg := 1, readySeq := 0, gangs := [], stopped := false }

/-- A change of STATE of a partition entry at H (R339). -/
def State.partState (s : State) (n v : Nat) : State :=
  let p := s.partAt n
  match p.state, v with
  | 0, 1 => s.setPartAt n { p with state := 1 }
  | 1, 0 => if s.ownsAny n then s else s.setPartAt n { p with state := 0 }
  | 1, 2 => if s.canOnline n then s.bringOnline n else s
  | 2, 1 => if s.anyOnline n then s else s.setPartAt n { p with state := 1 }
  | _, _ => s

/-- A write to a partition entry: its fields while the entry is not online, then STATE (R339). -/
def State.entryWrite (s : State) (level : Level) (n off : Nat) (bs : List Byte) : State :=
  if rankOf level < 2 then s
  else
    let p := s.partAt n
    let b := overlay p.bytes off bs
    let s := if p.state = 2 then s else s.setPartAt n (p.withBytes b)
    if off = 0 then s.partState n (natIn b 0 1) else s

/-- An attach entry as its bytes: two for a cluster, one for the others (R338). -/
def Attach.code (a : Attach) (cluster : Bool) : Nat :=
  if cluster then a.state % 4 * 16384 + a.part % 16 * 256 + a.hub % 32 else a.state % 4 * 64 + a.part % 16

def attachEntry (v : Nat) (cluster : Bool) : Attach :=
  if cluster then ⟨v / 16384 % 4, v / 256 % 16, v % 32⟩ else ⟨v / 64 % 4, v % 16, 0⟩

/-- The resource and attach table of an offset from the tables' base. -/
def resAt (off : Nat) : Option Res :=
  if off < 1600 then some (.cluster (off / 2))
  else if 0x1000 ≤ off && off < 0x1020 then some (.hubHart (off - 0x1000))
  else if 0x1100 ≤ off && off < 0x1130 then some (.channel (off - 0x1100))
  else none

def State.attachAt (s : State) : Res → Attach
  | .cluster n => s.hub.clusterAtt.get Attach.none n
  | .hubHart n => s.hub.hubAtt.get Attach.none n
  | .channel n => s.hub.chanAtt.get Attach.none n

def State.setAttach (s : State) (r : Res) (a : Attach) : State := s.updHub fun h => match r with
  | .cluster n => { h with clusterAtt := h.clusterAtt.set Attach.none n a }
  | .hubHart n => { h with hubAtt := h.hubAtt.set Attach.none n a }
  | .channel n => { h with chanAtt := h.chanAtt.set Attach.none n a }

/-- DESIGN CHOICE (log 25): a hub hart that comes online starts at S with its scrubbed registers, at pc 0; the manual
does not say how one starts. -/
def State.startHub (s : State) (n : Nat) : State :=
  if (s.coreAt (7200 + n)).run = .absent then
    s.updCoreAt (7200 + n) fun c => { c with run := .running, level := .s }
  else s

/-- A requested attach entry, by the rows of R339. -/
def State.attachChange (s : State) (level : Level) (part : Option Nat) (r : Res) (new : Attach) : State :=
  let old := s.attachAt r
  let isH := decide (2 ≤ rankOf level)
  let owner := isH || (level = .s && part == some old.part)
  match old.state, new.state with
  | 0, 0 => if isH then s.setAttach r new else s
  | 0, 1 => if isH then s.setAttach r new else s
  | 2, 1 =>
    if !owner then s
    else match r with
      | .channel _ => if (s.partAt old.part).state = 1 then s.setAttach r { old with state := 1 } else s
      | _ => (s.setAttach r { old with state := 3 }).later (.resourceDrained r)
  | 1, 2 =>
    if !owner then s
    else match r with
      | .cluster _ =>
        if (s.attachAt (.hubHart old.hub)).state = 2 then
          (s.setAttach r { old with state := 2 }).later (.placement old.part)
        else s
      | .hubHart n => (s.setAttach r { old with state := 2 }).startHub n
      | .channel _ => s.setAttach r { old with state := 2 }
  | _, _ => s

/-- The value of an aligned read of the attach tables, byte by byte. -/
def State.attachByte (s : State) (off : Nat) : Byte :=
  match resAt off with
  | some (.cluster n) => BitVec.ofNat 8 ((s.attachAt (.cluster n)).code true / 256 ^ (off % 2))
  | some r => BitVec.ofNat 8 ((s.attachAt r).code false)
  | none => 0

/-- A write to the attach tables: each entry it covers, in ascending order. -/
def State.attachWrite (s : State) (level : Level) (part : Option Nat) : Nat → List Byte → State
  | _, [] => s
  | off, b :: bs =>
    match resAt off with
    | none => s.attachWrite level part (off + 1) bs
    | some (.cluster n) =>
      let old := (s.attachAt (.cluster n)).code true
      if off % 2 = 0 then
        match bs with
        | [] => s.attachChange level part (.cluster n) (attachEntry (old / 256 * 256 + b.toNat) true)
        | b2 :: bs' =>
          (s.attachChange level part (.cluster n) (attachEntry (b.toNat + 256 * b2.toNat) true)).attachWrite level part
            (off + 2) bs'
      else (s.attachChange level part (.cluster n) (attachEntry (old % 256 + 256 * b.toNat) true)).attachWrite level part
        (off + 1) bs
    | some r => (s.attachChange level part r (attachEntry b.toNat false)).attachWrite level part (off + 1) bs

/-! ## Reads and writes by address -/

/-- A byte of the attach tables may be read at a level of a partition: at H, or at S where the entry is the partition's
own (R335); an unassigned entry is no partition's. -/
def State.mayReadAttach (s : State) (w : Who) (off : Nat) : Bool :=
  decide (2 ≤ rankOf w.level) || (decide (1 ≤ rankOf w.level) && match resAt off with
    | some r =>
      let a := s.attachAt r
      decide (a.state ≠ 0) && w.part == some a.part
    | none => true)

/-- A read of n bytes of the device registers by an access of a level and partition (R354, R363, R398, R339). DESIGN CHOICE
(log 31): a read below the level that may read an item meets permission where no rule says what it gives (R6); an offset
that the table of its block does not list reads as 0, and one outside every block meets permission. -/
def State.regRead (s : State) (w : Who) (pa n : Nat) (user : Bool) : State × Except Cond Nat :=
  let deny := (s, .error .permission)
  let full := n = 8 && pa % 8 = 0
  let atS := decide (1 ≤ rankOf w.level)
  match regOf pa with
  | some (.window core off) =>
    if full && !user && atS && s.mapsCluster w.part (clusterOf core) then
      (s, .ok ((s.coreAt core).windowRead (kindOf core) off))
    else deny
  | some (.counter c off) =>
    if full && atS && s.mapsCluster w.part c then (s, .ok (s.counterAt c off)) else deny
  | some (.budget p off) => if full && ownOrH w.level w.part p then (s, .ok ((s.partAt p).snap.read off)) else deny
  | some (.port p off) =>
    if full && decide (2 ≤ rankOf w.level) then (s, .ok ((s.hub.ports.get Port.reset p).read off)) else deny
  | some (.health d off) => if full && atS then (s, .ok ((s.hub.health.get Health.reset d).read off)) else deny
  | some .time => if full then (s, .ok s.hub.clock.status) else deny
  | some .power => if full then (s, .ok s.hub.power.status) else deny
  | some (.recovery p off) =>
    if ownOrH w.level w.part p then
      let r := (s.partAt p).recov
      (s, .ok ((r.read (off / 8 * 8) + 2 ^ 64 * r.read (off / 8 * 8 + 8)) / 256 ^ (off % 8) % 256 ^ n))
    else deny
  | some (.plat off) =>
    if decide (2 ≤ rankOf w.level) then (s, .ok (natIn (s.partAt (off / 512)).bytes (off % 512) n)) else deny
  | some (.attach off) =>
    if (List.range n).all fun i => s.mayReadAttach w (off + i) then
      (s, .ok (leNat ((List.range n).map fun i => s.attachByte (off + i))))
    else deny
  | none => deny

/-- A write of n bytes of the device registers. Writes to read-only registers are ignored (R6, R354), those to a cluster's
counters where the stage maps its block; a write of the plat or of a recovery block that R339 or R398 does not permit is
ignored. -/
def State.regWrite (s : State) (w : Who) (pa n : Nat) (user : Bool) (v : Nat) : State × Except Cond Unit :=
  let deny := (s, .error .permission)
  let full := n = 8 && pa % 8 = 0
  let val : Word := .ofNat 64 v
  match regOf pa with
  | some (.window core off) =>
    if full && !user && decide (1 ≤ rankOf w.level) && s.mapsCluster w.part (clusterOf core) then
      (s.windowWrite core off val, .ok ())
    else deny
  | some (.budget p off) =>
    if 8 ≤ off then (s, .ok ())
    else if full && ownOrH w.level w.part p then (s.snapshot p val, .ok ()) else deny
  | some (.counter c _) => if s.mapsCluster w.part c then (s, .ok ()) else deny
  | some (.recovery p off) =>
    (if ownOrH w.level w.part p then s.recoveryWrite p off (leBytes n v) else s, .ok ())
  | some (.plat off) => (s.entryWrite w.level (off / 512) (off % 512) (leBytes n v), .ok ())
  | some (.attach off) => (s.attachWrite w.level w.part off (leBytes n v), .ok ())
  | some _ => (s, .ok ())
  | none => deny

end Sys2Proof.Machine
end

