-- ==== Sys2Proof/Machine/Access.lean ====
section
/-!
DEFINITION. Access.lean: performing an access once it is located: memory, the host window
(spec/17_outside.md R389), device registers, and the L1D of scalar accesses (spec/10_memories.md R247,
spec/11_ordering.md R270), and the writes that have not performed yet (R265, R269). DESIGN CHOICE (log 3): accesses perform
at their coherence point as they are made, but for those of a turn whose accesses wait.
-/

namespace Sys2Proof.Machine

/-- The VF of the partition an access is made for (R389). -/
def State.vfOf (s : State) (w : Who) : Nat := match w.part with
  | some p => (s.partAt p).vf
  | none => 0

/-- A read request through the host window, which carries the partition's VF (R389), with the host's answer (log 13). -/
def State.hostLoad (s : State) (w : Who) (bus n : Nat) : State × Except Cond Nat :=
  let t := { s.used with hostOut := s.hostOut ++ [⟨false, s.vfOf w, bus, n, 0⟩] }
  if Config.hostRefuses s.free then (t, .error .permission)
  else (t, .ok ((Config.hostReads s.free).toNat % 256 ^ n))

/-- A write request through the host window (R389); the message of one that is refused has left too. -/
def State.hostStore (s : State) (w : Who) (bus n v : Nat) : State × Except Cond Unit :=
  let t := { s.used with hostOut := s.hostOut ++ [⟨true, s.vfOf w, bus, n, .ofNat 64 v⟩] }
  if Config.hostRefuses s.free then (t, .error .permission) else (t, .ok ())

/-- One piece of an access read. -/
def State.loadPiece (s : State) (w : Who) : Chunk → State × Except Cond Nat
  | .mem k n => match s.readRuns w.cluster [(k, n)] with
    | (s, .error c) => (s, .error c)
    | (s, .ok bs) => (s, .ok (leNat bs))
  | .host bus n => s.hostLoad w bus n
  | .regs pa n user => s.regRead w pa n user

/-- The bytes of a piece. -/
def Chunk.size : Chunk → Nat
  | .mem _ n | .host _ n | .regs _ n _ => n

/-- Pieces read in order, as one little-endian number. -/
def State.loadPieces (s : State) (w : Who) : List Chunk → State × Except Cond Nat
  | [] => (s, .ok 0)
  | p :: ps => match s.loadPiece w p with
    | (s, .error c) => (s, .error c)
    | (s, .ok v) => match s.loadPieces w ps with
      | (s, .error c) => (s, .error c)
      | (s, .ok u) => (s, .ok (v + 256 ^ p.size * u))

/-! ## Writes that have not performed (R265, R268, R269) -/

/-- Two ordering classes are related (R268). -/
def related (a b : Nat) : Bool := a == b || a == 0 || b == 0

/-- The byte that a write gives a key, if it writes it. -/
def Store.byteAt (e : Store) (k : Nat) : Option Byte :=
  (((runKeys e.runs).zip e.bytes).find? fun b => b.1 == k).map fun b => b.2

/-- Bytes read by a core whose accesses need not take effect in program order: its own writes that have taken effect show
through, the newest first. -/
def State.forward (s : State) (core : Nat) (runs : List (Nat × Nat)) (bs : List Byte) : List Byte := match s.lag with
  | none => bs
  | some _ =>
    let own := (s.stores.filter fun e => e.core == core).reverse
    ((runKeys runs).zip bs).map fun b => (own.findSome? fun e => e.byteAt b.1).getD b.2

/-- An access to an I/O page, the host or a device register is one that may not wait. -/
def State.noted (s : State) (loc : Loc) : State := match s.lag with
  | some l => if loc.isIo then { s with lag := some { l with fixed := true } } else s
  | none => s

/-- The keys of writes that are put off. -/
def State.deferred (s : State) : Option (List Key) := match s.lag with
  | some l => if l.mode = .defer then some l.keys else none
  | none => none

/-- A read of n bytes at a location, little-endian. -/
def State.loadLoc (s : State) (w : Who) (loc : Loc) (n : Nat) : State × Except Cond Nat :=
  let s := s.noted loc
  match loc with
  | .mem runs _ _ => match s.readRuns w.cluster runs with
    | (s, .error c) => (s, .error c)
    | (s, .ok bs) => (s, .ok (leNat (s.forward w.core runs bs)))
  | .host bus => s.hostLoad w bus n
  | .regs pa user => s.regRead w pa n user
  | .split a b => s.loadPieces w (a ++ b)

/-- The number by which a pattern-cache key names an access's partition; 16 for none. -/
def Who.partNo (w : Who) : Nat := w.part.getD 16

/-- One piece of an access written. -/
def State.storePiece (s : State) (w : Who) (v : Nat) : Chunk → State × Except Cond Unit
  | .mem k n => s.writeRuns w.cluster [(k, n)] (leBytes n v)
  | .host bus n => s.hostStore w bus n v
  | .regs pa n user => s.regWrite w pa n user v

/-- A number written over pieces in order, its low bytes first. -/
def State.storePieces (s : State) (w : Who) (v : Nat) : List Chunk → State × Except Cond Unit
  | [] => (s, .ok ())
  | p :: ps => match s.storePiece w (v % 256 ^ p.size) p with
    | (s, .error c) => (s, .error c)
    | (s, .ok _) => s.storePieces w (v / 256 ^ p.size) ps

/-- The pattern-cache entries that a store by a cluster's core or engine overlaps leave the cache (R232). DEDUCED (log
27): a tile is known by the virtual address it was looked up at, and another address of the same bytes does not reach
it. -/
def State.afterStore (s : State) (w : Who) (va n : Nat) : State := match w.cluster with
  | some c => s.storeInvalidates c w.partNo w.asid va n
  | none => s

/-- A write of n bytes at a location, performed. -/
def State.storeNow (s : State) (w : Who) (va : Nat) (loc : Loc) (n v : Nat) : State × Except Cond Unit :=
  match loc with
  | .mem runs _ _ => match s.writeRuns w.cluster runs (leBytes n v) with
    | (s, .error c) => (s, .error c)
    | (s, .ok _) => (s.afterStore w va n, .ok ())
  | .host bus => s.hostStore w bus n v
  | .regs pa user => s.regWrite w pa n user v
  | .split a b => match s.storePieces w v (a ++ b) with
    | (s, .error c) => (s, .error c)
    | (s, .ok _) => (s.afterStore w va n, .ok ())

/-- A write of n bytes at a location; one to memory that is put off waits (R269). -/
def State.storeLoc (s : State) (w : Who) (va : Nat) (loc : Loc) (n v : Nat) : State × Except Cond Unit :=
  match s.deferred, loc with
  | some keys, .mem runs false _ =>
    ({ s with late := s.late ++ [⟨w.core, (s.coreAt w.core).instret, keys,
      .write ⟨w.core, w.partNo, w.asid, va, runs, leBytes n v⟩⟩] }, .ok ())
  | _, _ => (s.noted loc).storeNow w va loc n v

/-! ## The L1D (R247) -/

/-- The lines of 64 bytes an L1D holds at most (32 KiB, R236). -/
def l1dLines : Nat := 512

def findLine : List Line → Nat → Option Line
  | [], _ => none
  | l :: ls, k => if l.key = k then some l else findLine ls k

/-- A core's L1D empty. -/
def Core.dropL1d (c : Core) : Core := { c with l1d := [] }
def State.dropL1d (s : State) (n : Nat) : State := s.updCoreAt n Core.dropL1d

/-- The data that streams of a core hold ahead is gone; it is read again (R188, R272). -/
def Core.dropAhead (c : Core) (hit : Stream → Bool) : Core :=
  { c with streams := c.streams.map fun e => if hit e.2 then (e.1, { e.2 with ahead := [] }) else e }

/-- An acquire over a core's own paths (R272): what it reads from then on is read after it. -/
def Core.acquire (c : Core) : Core := c.dropL1d.dropAhead fun _ => true

/-- The lines that hold bytes of some runs leave the L1D. -/
def Core.dropRuns (c : Core) (runs : List (Nat × Nat)) : Core :=
  { c with l1d := c.l1d.filter fun l => !(runs.any fun r => decide (r.1 < l.key * 64 + 64) &&
    decide (l.key * 64 < r.1 + r.2)) }

/-- The line of a key filled as its core sees memory, the oldest dropped beyond the capacity. -/
def State.fillLine (s : State) (n k : Nat) : State :=
  s.updCoreAt n fun c => { c with
    l1d := (⟨k, s.forward n [(k * 64, 64)] (s.bytesAt (k * 64) 64)⟩ :: c.l1d.filter fun l => !(l.key == k)).take
      l1dLines }

/-- A scalar load of size bytes at a key through the L1D: a held line that memory has overtaken may serve it
(R270, log 4). -/
def State.l1dLoad (s : State) (n k size : Nat) : State × Except Cond Nat :=
  match s.readRuns (s.who n).cluster [(k, size)] with
  | (s, .error c) => (s, .error c)
  | (s, .ok bs) =>
    let now := s.forward n [(k, size)] bs
    match findLine (s.coreAt n).l1d (k / 64) with
    | none => (s.fillLine n (k / 64), .ok (leNat now))
    | some l =>
      let held := (l.bytes.drop (k % 64)).take size
      if held = now then (s, .ok (leNat now))
      else if Config.servesStale s.free then (s.used, .ok (leNat held))
      else ((s.used).fillLine n (k / 64), .ok (leNat now))

/-- A core's own scalar write or atomic updates the lines it holds (R247). -/
def Core.updateLines (c : Core) (runs : List (Nat × Nat)) (bs : List Byte) : Core :=
  match runs with
  | [(k, _)] => { c with l1d := c.l1d.map fun l =>
      if l.key = k / 64 then { l with bytes := (overlay l.bytes (k % 64) bs).take 64 } else l }
  | _ => c.dropRuns runs

/-! ## Scalar accesses (R137, R251, R259) -/

/-- A scalar load of a core. -/
def State.loadScalar (s : State) (n va size : Nat) : State × Except Cond Nat :=
  let w := s.who n
  match locate s w .read va size size with
  | (s, .error c) => (s, .error c)
  | (s, .ok loc) => match loc with
    | .mem [(k, _)] false false => s.l1dLoad n k size
    | loc => s.loadLoc w loc size

/-- A scalar store of a core. -/
def State.storeScalar (s : State) (n va size v : Nat) : State × Except Cond Unit :=
  let w := s.who n
  match locate s w .write va size size with
  | (s, .error c) => (s, .error c)
  | (s, .ok loc) => match s.storeLoc w va loc size v with
    | (s, .error c) => (s, .error c)
    | (s, .ok _) => (s.updCoreAt n fun c => c.updateLines loc.runs (leBytes size v), .ok ())

/-- A block of 8-byte scalar loads in ascending order: its bytes, or the condition and address of the first that
fails. -/
def State.loadBlock (s : State) (n va : Nat) : Nat → State × Except (Cond × Nat) (List Byte)
  | 0 => (s, .ok [])
  | k + 1 => match s.loadScalar n va 8 with
    | (s, .error c) => (s, .error (c, va))
    | (s, .ok v) => match s.loadBlock n ((va + 8) % 2 ^ 64) k with
      | (s, .error e) => (s, .error e)
      | (s, .ok bs) => (s, .ok (leBytes 8 v ++ bs))

/-- A 64-bit read at the coherence point, past the L1D (R259 am.ld, R261); the lines it reads take its value (R247,
R266). -/
def State.loadDirect (s : State) (n va : Nat) : State × Except Cond Nat :=
  let w := s.who n
  match locate s w .read va 8 8 with
  | (s, .error c) => (s, .error c)
  | (s, .ok loc) => match s.loadLoc w loc 8 with
    | (s, .error c) => (s, .error c)
    | (s, .ok v) => (s.updCoreAt n fun c => c.updateLines loc.runs (leBytes 8 v), .ok v)

/-- A 64-bit read-modify-write at the coherence point; an I/O page meets permission (R248). -/
def State.atomic (s : State) (n va : Nat) (f : Word → Word) : State × Except Cond Word :=
  let w := s.who n
  match locate s w .write va 8 8 with
  | (s, .error c) => (s, .error c)
  | (s, .ok loc) =>
    if loc.isIo then (s, .error .permission)
    else match s.loadLoc w loc 8 with
      | (s, .error c) => (s, .error c)
      | (s, .ok old) =>
        let new := (f (.ofNat 64 old)).toNat
        match s.storeLoc w va loc 8 new with
        | (s, .error c) => (s, .error c)
        | (s, .ok _) => (s.updCoreAt n fun c => c.updateLines loc.runs (leBytes 8 new), .ok (.ofNat 64 old))

/-! ## Writes perform (R265, R266) -/

/-- A write performed: its bytes in memory, and the pattern-cache entries it overlaps gone (R232). -/
def State.performWrite (s : State) (e : Store) : State :=
  let s := s.setRuns e.runs e.bytes
  if kindOf e.core = .hub then s
  else s.storeInvalidates (clusterOf e.core) e.part e.asid e.va e.bytes.length

/-- Two writes of one core with a byte in common. -/
def Store.meets (x y : Store) : Bool := x.core == y.core && (runKeys x.runs).any fun k => (runKeys y.runs).contains k

/-- The write of a place performs, unless an older one of its core to one of its bytes comes before it. -/
def State.performLate (s : State) (k : Nat) : State := match s.stores[k]? with
  | none => s
  | some e =>
    if (s.stores.take k).any fun x => x.meets e then s
    else { s with stores := s.stores.eraseIdx k }.performWrite e

/-- Every write that has taken effect performs, of the cores that a test picks, oldest first. -/
def State.drain (s : State) (pick : Nat → Bool) : State :=
  (s.stores.filter fun e => pick e.core).foldl (fun s e => s.performWrite e)
    { s with stores := s.stores.filter fun e => !pick e.core }

/-! ## What a condition comes to (R385, R402) -/

/-- A condition stops the instruction, or ends its launch with a STATUS of R296. -/
inductive Fate | stop (c : Cond) | kill (status : Nat)
deriving DecidableEq, Repr

/-- What a condition met by an access of a core comes to. -/
def State.fate (s : State) (n : Nat) (c : Cond) : Fate :=
  match s.policy n with
  | none => .stop c
  | some pol => match c with
    | .uncorrectable => .kill 4
    | .pinned => .kill 2
    | .notPresent => if pol = fpolPinned then .kill 2 else if pol = fpolFatal then .kill 3 else .stop c
    | .permission => if pol = fpolFatal then .kill 3 else .stop c
    | c => .stop c

/-- The region's fault domain has the demand policy, so its missing pages are recorded (R166, R191, R304). -/
def State.demand (s : State) (n : Nat) : Bool := s.policy n == some fpolDemand

/-- The 128 KiB page of an address. -/
def pageOf (va : Nat) : Nat := va / pageBytes * pageBytes

end Sys2Proof.Machine
end

