-- ==== Sys2Proof/Machine/Reads.lean ====
section
/-!
DEFINITION. Reads.lean: the registers an instruction reads (spec/12_queues.md R289, spec/18_reliability_security.md R401):
those its source fields name.
-/

namespace Sys2Proof.Machine

/-- The pair of x registers that a predicate field names; none for 0 (R218). -/
def predReads (pp : Nat) : List BadReg := if pp = 0 then [] else [.x (2 * pp), .x (2 * pp + 1)]

/-- The scalar registers, tags, streams and control register that an instruction's fields name as sources; a row that is
no instruction reads none. -/
def fieldReads : Instr → List BadReg
  | .xAdd _ a b _ | .xSub _ a b _ | .xAnd _ a b | .xOr _ a b | .xXor _ a b | .xAndn _ a b | .xShl _ a b _
  | .xShr _ a b | .xSar _ a b | .xMul _ a b _ | .xMulh _ a b | .xMulhn _ a b | .xDiv _ a b | .xDivn _ a b
  | .xRem _ a b | .xRemn _ a b | .xMin _ a b | .xMax _ a b | .xMinn _ a b | .xMaxn _ a b | .xSlt _ a b
  | .xSltn _ a b | .xSeq _ a b | .fAdd _ a b _ _ | .fSub _ a b _ _ | .fMul _ a b _ _ | .fDiv _ a b _ _
  | .fMin _ a b _ _ | .fMax _ a b _ _ | .fCmp _ a b _ _ | .bEq a b _ | .bNe a b _ | .bLt a b _ | .bGe a b _
  | .bLtn a b _ | .bGen a b _ | .amAdd _ a b _ _ | .amAnd _ a b _ _ | .amOr _ a b _ _ | .amXor _ a b _ _
  | .amMax _ a b _ _ | .amMin _ a b _ _ | .amMaxn _ a b _ _ | .amMinn _ a b _ _ | .amSwap _ a b _ _
  | .yWait _ a b | .zInvs a b | .zKill _ a b | .kWhile _ a b | .vldSd _ a b _ _ | .qldSd _ a b _
  | .vstQsd _ a b _ | .mInv a b => [.x a, .x b]
  | .xSel d a b | .fFma d a b _ _ | .amCas d a b _ _ => [.x d, .x a, .x b]
  | .xClz _ a | .xCtz _ a | .xPopc _ a | .xiAdd _ a _ | .xiAnd _ a _ | .xiOr _ a _ | .xiXor _ a _
  | .xiShl _ a _ | .xiShr _ a _ | .xiSar _ a _ | .xiSlt _ a _ | .fSqrt _ a _ _ | .fCvt _ a _ _ _
  | .fClass _ a _ _ | .jInd _ a _ | .lnSet _ a _ _ _ | .lnTrim _ a | .ldS8 _ a _ _ | .ldN8 _ a _ _
  | .ldS16 _ a _ _ | .ldN16 _ a _ _ | .ldS32 _ a _ _ | .ldN32 _ a _ _ | .ldX64 _ a _ _ | .amLd _ a _ _
  | .zHres _ a | .zHstop _ a | .zInva a | .zSpawn _ a | .zWsopen _ a | .zWsclose _ a | .vSplat _ a _ _
  | .vldUn _ a _ _ | .qldUn _ a _ | .vstQun _ a _ | .sBind _ a | .mCfg a | .mPrep a | .eCpy _ a | .eWsl _ a
  | .ePut _ a | .eGet _ a | .eRed _ a | .eWait _ a => [.x a]
  | .xlLd .. | .jLink .. | .lnRel | .yFence .. | .yXfence .. | .yBar | .yEnd | .ride .. | .zCall | .zBrk
  | .zRet | .zInvp | .zYield | .vIota .. | .kAnd .. | .kOr .. | .kXor .. | .kAndn .. | .kNot .. | .kMov ..
  | .kBrka .. | .kBrkb .. | .kCnt .. | .kFirst .. | .sRel .. | .qAdd .. | .qSub .. | .qMul .. | .qDiv ..
  | .qSqr .. | .qSqrt .. | .qExp .. | .qLog .. | .qMin .. | .qMax .. | .qHull .. | .qMeet .. | .qSplit ..
  | .qCmp .. | .qLo .. | .qHi .. | .qWid .. | .qMid .. | .mZero .. | .hint .. | .emulate .. | .illegalWord ..
  | .vsave .. | .vload .. | .vclear .. | .tsave .. | .tload .. | .tenable .. | .tdisable ..
  | .windowCommandDone .. | .recoveryQuiet .. | .recoverySave .. | .recoveryRestore ..
  | .recoveryCommandDone .. | .resourceDrained .. | .preemptRequest .. | .placement .. | .engineCommandStart ..
  | .engineCommandComplete .. | .patternCompileDone .. | .invalidationAck .. | .gangLateStart ..
  | .streamTranslateAhead .. | .regrantRequest .. | .laneRegrantRaise .. | .preemptFallback ..
  | .budgetPeriodStart | .gangPreempt .. | .gangSliceStart .. | .gangSliceEnd .. | .refreshStart ..
  | .refreshEnd .. | .waitReread .. | .tokenPopResume .. | .tokenPushResume .. | .barrierRelease ..
  | .endComplete .. | .dispatchResume .. | .replyWrite .. | .eWaitDone .. | .streamReadAhead ..
  | .interruptTake .. | .windowFieldWrite .. | .platWrite .. | .firmwareScrub .. | .budgetSnapshot ..
  | .recoveryHold .. | .deviceRegisterWrite .. | .hostWrite .. | .hostRead .. | .vfFlr .. | .pfFlr
  | .packageReset | .attestationRequest .. | .powerCapSet .. | .flitResend .. | .timeMessage ..
  | .throttleAdjust .. | .thermalTrip | .tripEnd | .healthUpdate .. | .fabricRequestReceive ..
  | .recoveryImageLoad .. | .securityVersionRaise .. | .loomPortRetrain .. => []
  | .xlHi d _ => [.x d]
  | .lnShuttle _ a b np _ _ _ _ _ _ => .x a :: (List.range np).map fun k => .x (b + k)
  | .crRd _ cn => [.ctl cn]
  | .crWr _ a cn | .crSet _ a cn | .crClr _ a cn => [.x a, .ctl cn]
  | .stS8 d a _ _ | .stS16 d a _ _ | .stS32 d a _ _ | .stX64 d a _ _ | .amSt d a _ _ => [.x d, .x a]
  | .vAdd _ a b _ _ | .vSub _ a b _ _ | .vMul _ a b _ _ | .vDiv _ a b _ | .vMin _ a b _ | .vMax _ a b _
  | .vAnd _ a b _ | .vOr _ a b _ | .vXor _ a b _ | .vShl _ a b _ | .vShr _ a b _ | .vSar _ a b _
  | .vSel _ a b _ | .vPerm _ a b _ | .vCmp _ a b _ _ | .qMk _ a b => [.tag a, .tag b]
  | .vFma d a b _ | .vFms d a b _ => [.tag a, .tag b, .tag d]
  | .vSlide _ a b _ | .vMvx _ a b => [.x b, .tag a]
  | .vComp _ a _ | .vExpd _ a _ | .vRev _ a _ | .vAbs _ a _ | .vNeg _ a _ | .vNot _ a _ | .vSqrt _ a _
  | .vExp2 _ a _ | .vLog2 _ a _ | .vCvt _ a _ _ | .vTag _ a _ _ | .vMov _ a _ | .qPt _ a => [.tag a]
  | .vTr _ _ b _ | .vTc _ _ b _ => [.x b]
  | .vrSum d a _ | .vrMax d a _ | .vrMin d a _ | .vrAnd d a _ | .vrOr d a _ => [.tag a, .tag d]
  | .vldX _ a b _ _ => [.x a, .tag b]
  | .vldSm _ a _ | .sPos _ a | .mSt _ a | .mLd _ a => [.stream a]
  | .vstUn d a _ _ => [.x a, .tag d]
  | .vstSd d a b _ _ => [.x a, .x b, .tag d]
  | .vstX d a b _ _ | .vstXa d a b _ _ | .vamAdd d a b _ | .vamMin d a b _ | .vamMax d a b _ | .vamAnd d a b _
  | .vamOr d a b _ | .vamXor d a b _ | .vamSwap d a b _ => [.x a, .tag b, .tag d]
  | .vstSm d a _ => [.tag d, .stream a]
  | .sSkip d a => [.x a, .stream d]
  | .qAxpy _ _ _ w _ => [.x w]
  | .mOp _ a b pp => [.stream a, .stream b] ++ predReads pp
  | .mOpc _ _ b pp => [.stream b] ++ predReads pp
  | .mOps _ a b pp => [.x a, .stream b] ++ predReads pp

/-- The register files an interval lies in (R170): its lo and hi slots. -/
def pairFiles (r : Nat) : List (Nat × Nat) := [(2, r), (3, r)]

/-- The slots a contractor form writes, or a forward form (R199, R202, R203). -/
def narrowFiles (d a : Nat) (b : List Nat) (c : Bool) : List (Nat × Nat) :=
  if c then pairFiles a ++ b.flatMap pairFiles ++ [(1, 23)] else pairFiles d

/-- The registers whose slots an instruction of the lanes writes, each with its file: 0 v, 1 k, 2 and 3 the lo and hi of
q (R144, R169, R193). -/
def slotWrites : Instr → List (Nat × Nat)
  | .qAdd d a b c | .qSub d a b c | .qMul d a b c | .qDiv d a b c | .qMin d a b c | .qMax d a b c
  | .qAxpy d a b _ c => narrowFiles d a [b] c
  | .qSqr d a c | .qSqrt d a c | .qExp d a c | .qLog d a c => narrowFiles d a [] c
  | .qHull d _ _ | .qMeet d _ _ | .qMk d _ _ | .qPt d _ | .qldUn d _ _ | .qldSd d _ _ _ => pairFiles d
  | .qSplit d a => pairFiles d ++ pairFiles a
  | .qCmp d _ _ _ => [(1, d), (1, d + 1)]
  | .vCmp d _ _ _ _ | .kAnd d _ _ | .kOr d _ _ | .kXor d _ _ | .kAndn d _ _ | .kNot d _ | .kMov d _
  | .kWhile d _ _ | .kBrka d _ | .kBrkb d _ => [(1, d)]
  | .vAdd d _ _ _ _ | .vSub d _ _ _ _ | .vMul d _ _ _ _ | .vDiv d _ _ _ | .vMin d _ _ _ | .vMax d _ _ _
  | .vAnd d _ _ _ | .vOr d _ _ _ | .vXor d _ _ _ | .vShl d _ _ _ | .vShr d _ _ _ | .vSar d _ _ _
  | .vSel d _ _ _ | .vPerm d _ _ _ | .vFma d _ _ _ | .vFms d _ _ _ | .vSlide d _ _ _ | .vComp d _ _
  | .vExpd d _ _ | .vRev d _ _ | .vAbs d _ _ | .vNeg d _ _ | .vNot d _ _ | .vSqrt d _ _ | .vExp2 d _ _
  | .vLog2 d _ _ | .vCvt d _ _ _ | .vTag d _ _ _ | .vMov d _ _ | .vSplat d _ _ _ | .vIota d _ | .vTr d _ _ _
  | .vTc d _ _ _ | .vrSum d _ _ | .vrMax d _ _ | .vrMin d _ _ | .vrAnd d _ _ | .vrOr d _ _ | .qLo d _ | .qHi d _
  | .qWid d _ | .qMid d _ | .vldUn d _ _ _ | .vldSd d _ _ _ _ | .vldX d _ _ _ _ | .vldSm d _ _ | .vamAdd d _ _ _
  | .vamMin d _ _ _ | .vamMax d _ _ _ | .vamAnd d _ _ _ | .vamOr d _ _ _ | .vamXor d _ _ _ | .vamSwap d _ _ _ =>
    [(0, d)]
  | _ => []

/-- The x registers among some registers. -/
def xOnly (l : List BadReg) : List Nat := l.filterMap fun r => match r with
  | .x k => if k = 0 then none else some k
  | _ => none

/-- The x registers an instruction reads; x0 is no register that holds anything (R110). -/
def xReads (i : Instr) : List Nat := xOnly (fieldReads i)

end Sys2Proof.Machine
end

