-- ==== Sys2Proof/Machine/Ops.lean ====
section
/-!
DEFINITION. Ops.lean: how an instruction starts and how it ends: reading its words (spec/02_encoding.md R39, R40), the
checks at decode in their order (R47 to R55), the instruction queue (spec/12_queues.md R287 to R289), shortening and
stopping (spec/01_machine.md R24, R33), taking an exception on a cluster core and on a hub hart, and the return from one
(spec/16_events.md R360 to R373), the end of a core and of a launch (spec/12_queues.md R295 to R297,
spec/14_regions_scheduling.md R343).
-/

namespace Sys2Proof.Machine

/-! ## What a word is (R41, R47, R52) -/

def majorOf (w : Nat) : Nat := w / 2 ^ 26
def fieldD (w : Nat) : Nat := w / 2 ^ 20 % 64
def fieldA (w : Nat) : Nat := w / 2 ^ 14 % 64
def fieldB (w : Nat) : Nat := w / 2 ^ 8 % 64

/-- R47: the kinds of core a major runs on. -/
def runsOn (w : Nat) (k : Kind) : Bool :=
  let m := majorOf w
  match k with
  | .hub => decide (m ≤ 0x0D) && !(m == 8) || m == 0x0F || (decide (0x30 ≤ m) && decide (m ≤ 0x3B))
  | .treadle => decide (m ≤ 0x0F) || m == 0x2A || m == 0x2C || m == 0x2D || (decide (0x30 ≤ m) && decide (m ≤ 0x3B))
  | .hart => !(m == 0x2C)

/-- The memory format code of a VM word, for the majors that carry one (R42). -/
def vmCode (w : Nat) : Option Nat :=
  let m := majorOf w
  if (0x18 ≤ m && m ≤ 0x1D) || (0x20 ≤ m && m ≤ 0x25) then some (m % 2 * 8 + w % 8) else none

/-- An es field of a second word names the MX element size (R46). -/
def esMx (w1 : Nat) : Bool :=
  w1 / 2 ^ 29 % 8 == 6 || w1 / 2 ^ 26 % 8 == 6 || w1 / 2 ^ 23 % 8 == 6 || w1 / 2 ^ 20 % 8 == 6

/-- R52: the features an encoding belongs to. Those of an e command are checked after its block (R306). -/
def featuresOf (w w1 : Nat) : List Nat :=
  let m := majorOf w
  let code := match vmCode w with
    | some 11 | some 12 => [3]
    | some 13 | some 14 => [4]
    | _ => []
  code ++
  (if m = 0x2B || m = 0x2E || m = 0x1F || m = 0x28 then [0] else []) ++
  (if m = 0x2C || (m = 0x13 && (w % 8 = 6 || w % 8 = 7)) then [1] else []) ++
  (if m = 0x2C && (w / 16 % 16 = 4 || w / 16 % 16 = 5) then [2] else []) ++
  (if m = 8 && w % 8 = 1 && esMx w1 then [4] else []) ++
  (if m = 0x0F && (w / 8 % 32 = 11 || w / 8 % 32 = 12) then [6] else []) ++
  (if m = 5 && (if w / 16 % 16 = 9 then w / 2 ^ 11 % 8 = 0 || w / 2 ^ 8 % 8 = 0 else w / 4 % 4 = 0) then [7] else [])

/-- An instruction that reaches the lanes (R287): v, vr, k, vld, vst, vam, q, q.axpy, qld. -/
def reachesLanes (w : Nat) : Bool :=
  let m := majorOf w
  (decide (0x10 ≤ m) && decide (m ≤ 0x29)) || m == 0x2B || m == 0x2E

/-- An instruction that makes a memory access (R54, R264). -/
def accessesMemory (w : Nat) : Bool :=
  let m := majorOf w
  m == 0x0A || m == 0x0B || m == 0x0C || (m == 0x0D && w % 8 == 4) || (m == 0x0F && w / 8 % 32 == 8) ||
  (decide (0x18 ≤ m) && decide (m ≤ 0x29)) || (m == 0x2A && w / 32 % 8 == 0) ||
  (m == 0x2C && (w / 16 % 16 == 2 || w / 16 % 16 == 3 || w / 16 % 16 == 4 || w / 16 % 16 == 5 ||
    w / 16 % 16 == 6 || w / 16 % 16 == 7)) || (m == 0x2D && decide (w / 32 % 8 ≤ 4))

/-- The z functions that need a hub hart at S or above (R50). -/
def supervisorOnly (w : Nat) : Bool :=
  let fn := w / 8 % 32
  majorOf w == 0x0F && (fn == 2 || fn == 3 || fn == 4 || fn == 5 || fn == 6 || fn == 7 || fn == 11 || fn == 12)

/-- The core's crew has a treadle (R225, R348). -/
def State.crewHasTreadle (s : State) (n : Nat) : Bool := match s.launchOf n with
  | some r => r.rcb.hasTreadle
  | none => false

/-- Check 4 of R53 (R47, R50, R341). -/
def State.outOfPlace (s : State) (n w : Nat) : Bool :=
  let k := kindOf n
  let atS := decide (1 ≤ rankOf (s.coreAt n).level)
  !runsOn w k || (supervisorOnly w && !(k == .hub && atS)) ||
  (majorOf w == 0x0D && w % 8 == 2 && k == .hub) ||
  (majorOf w == 0x0F && (w / 8 % 32 == 8 || w / 8 % 32 == 9) && k == .hub && !atS) ||
  (majorOf w == 0x13 && (w % 8 == 6 || w % 8 == 7) && !s.crewHasTreadle n)

/-- A treadle word of the s group names a stream above 7 (R43). -/
def badStreamField (k : Kind) (w : Nat) : Bool :=
  k == .treadle && majorOf w == 0x2A && decide (7 < if w / 32 % 8 = 3 then fieldA w else fieldD w)

/-- R14: an instruction that touches vector state or vl on a hart whose grant is 0. -/
def needsLanes (k : Kind) (w : Nat) : Bool := reachesLanes w || (k == .hart && majorOf w == 8)

/-- A tile instruction that checks the tile enable whatever its strip (R53): not an m.op or m.opc with kl = 0. -/
def tileChecked (w len : Nat) : Bool :=
  majorOf w == 0x2C && !((w / 16 % 16 == 2 || w / 16 % 16 == 3) && len == 0)

/-- The fate of a word that R51 gives one of its own: illegal, or emulate. -/
def fateOf : Instr → Option Nat
  | .illegalWord _ => some 10
  | .emulate _ => some 11
  | _ => none

/-- The cause of the first check of R53, from 1 to 5, that a word fails. -/
def State.decodeCause (s : State) (n : Nat) (i : Instr) : Option Nat :=
  let w := firstWord i
  let w1 := (encodeWords i).getD 1 0
  let k := kindOf n
  let c := s.coreAt n
  if (fateOf i).isSome then fateOf i
  else if !WellFormed i || badStreamField k w then some 10
  else if (featuresOf w w1).any (s.masked n) then some 12
  else if s.outOfPlace n w then some 10
  else if needsLanes k w && c.ident.lanes == 0 then some 10
  else none

/-- A tile instruction (R288): major 0x2C. -/
def isTile (w : Nat) : Bool := majorOf w == 0x2C

/-- A word of the x, xi or xl group whose d is 0: a hint, which reads no register (R51). -/
def isHint (w : Nat) : Bool := decide (2 ≤ majorOf w) && decide (majorOf w ≤ 4) && fieldD w == 0

/-- An interval instruction that measures its narrowing by qthr (R203): a contractor form. -/
def readsQthr : Instr → Bool
  | .qAdd _ _ _ c | .qSub _ _ _ c | .qMul _ _ _ c | .qDiv _ _ _ c | .qSqr _ _ c | .qSqrt _ _ c | .qExp _ _ c
  | .qLog _ _ c | .qMin _ _ _ c | .qMax _ _ _ c | .qAxpy _ _ _ _ c => c
  | _ => false

/-- The x registers an instruction reads; a hint reads none (R51). -/
def xSources (i : Instr) : List Nat := if isHint (firstWord i) then [] else xReads i

/-- The control registers an instruction reads beside those its fields name: the length, by the end of a strip and by
what reaches the lanes or the array (R133, R144, R175); the clamp, by a length it sets (R130); vcfg and qthr (R112, R203);
the flags that y.end hands over (R295). -/
def controlReads (k : Kind) (i : Instr) : List Nat :=
  let own (hart treadle : Nat) : Nat := if k = .treadle then treadle else hart
  (if reachesLanes (firstWord i) then [0, 5] else []) ++ (if isTile (firstWord i) then [0x10] else []) ++
  (if readsQthr i then [0x20] else []) ++
  (match i with
    | .lnSet .. => [own 8 0x15]
    | .lnShuttle .. => [own 0 0x10, own 8 0x15]
    | .lnTrim .. => [own 0 0x10]
    | .yEnd => [own 6 0x16]
    | _ => [])

/-- The registers an instruction of a core reads (R401): those its fields name, the control registers beside them, and
for one that is queued the queue. -/
def readsOf (k : Kind) (i : Instr) : List BadReg :=
  let w := firstWord i
  (if isHint w then [] else fieldReads i) ++ (controlReads k i).map .ctl ++
  (if reachesLanes w || isTile w then [.queue] else [])

/-- The number of a level's cause register; its epc, tval, vec and stat follow (R110, R368). -/
def trapBase : Level → Nat
  | .m => 0x300
  | .h => 0x200
  | _ => 0x100

/-- The trap registers that z.ret reads at a level: epc and stat (R373). -/
def returnReads (l : Level) (i : Instr) : List BadReg :=
  if i = .zRet then [.ctl (trapBase l + 1), .ctl (trapBase l + 4)] else []

/-- An instruction reads a register that cannot be corrected, or one whose reply cannot (R401); x0 holds nothing. -/
def State.badRead (s : State) (n : Nat) (i : Instr) : Bool :=
  let c := s.coreAt n
  match c.badRegs with
  | [] => false
  | bad => (readsOf (kindOf n) i ++ returnReads c.level i).any (fun r => !(r == .x 0) && bad.contains r) ||
    (bad.contains .reply && c.replies.any fun r => (xSources i).contains r.reg)

/-- Checks 6 and 7 of R53, then the registers read (R401), for an instruction that has come so far. DEDUCED (log 27): an
m.prep is checked for the tile enable too, as R53 and R217 say of every m instruction, where R230 names other traps
only. DESIGN CHOICE (log 16): a bad register, to which R53 gives no place, is found after check 7 and before check 8 (the
tags), which the instruction's own meaning makes. -/
def State.ownerCause (s : State) (n : Nat) (i : Instr) : Option Nat :=
  let c := s.coreAt n
  let w := firstWord i
  if reachesLanes w && !(c.win.ctx == c.win.vown) then some 14
  else if (tileChecked w c.strip.len.toNat || (majorOf w == 0x13 && (w % 8 == 6 || w % 8 == 7))) &&
    !(s.clusterAt (clusterOf n)).enable then some 13
  else if s.badRead n i then some 15
  else none

/-- A register, slot or accumulator element found uncorrectable: counted for its cluster and reported (R356, R397). -/
def State.detectReg (s : State) (n : Nat) : State :=
  if kindOf n = .hub then s.report (.badRegister n)
  else (s.countCluster (clusterOf n) 12 1).report (.badRegister (clusterOf n))

/-! ## Failing slots (R147, R148) -/

/-- The failing slots of the group a slot is in. -/
def groupOf (l : List BadSlot) (b : BadSlot) : List BadSlot :=
  l.filter fun x => decide (x.file = b.file) && decide (x.reg = b.reg) && decide (x.slot = b.slot)

/-- A failing slot lies in a core's lanes. -/
def Core.holdsSlot (c : Core) (b : BadSlot) : Bool :=
  decide (c.ident.base ≤ b.lane) && decide (b.lane < c.ident.base + c.ident.lanes)

/-- Every slot of a core's lanes is written, so that none fails (R145, R148). -/
def State.freshSlots (s : State) (n : Nat) : State := match (s.clusterAt (clusterOf n)).badSlots with
  | [] => s
  | l => s.updClusterAt (clusterOf n) fun k => { k with badSlots := l.filter fun b => !(s.coreAt n).holdsSlot b }

/-- Every slot of a core's lanes is read by a save: the only failing one of a group is rebuilt and counted; where two fail
they are counted and reported, and keep their bits (R147, R148, R400). -/
def State.readLanes (s : State) (n : Nat) : State := match (s.clusterAt (clusterOf n)).badSlots with
  | [] => s
  | l =>
    let mine := l.filter (s.coreAt n).holdsSlot
    let single (b : BadSlot) : Bool := (groupOf l b).length == 1
    let t := (s.updClusterAt (clusterOf n) fun k => { k with
      badSlots := l.filter fun b => !(mine.contains b && single b) }).countCluster (clusterOf n) 9
        (mine.filter single).length
    (mine.filter fun b => !single b).foldl (fun t _ => t.detectReg n) t

/-! ## Fetch (R39, R40) -/

/-- The 32-bit word at a virtual address, fetched by a core. -/
def State.fetchWord (s : State) (n va : Nat) : State × Except Cond Nat :=
  let w := s.who n
  match locate s w .fetch va 4 4 with
  | (s, .error c) => (s, .error c)
  | (s, .ok loc) => s.loadLoc w loc 4

/-- The instruction of one or two words; words that are none are illegal (R51). -/
def instrOf (w w1 : Nat) : Instr := match decodeWord w w1 with
  | .ok i => i
  | .error _ => .illegalWord w

/-- The instruction at an address, or the condition its fetch meets with the first word, where that was read. DESIGN
CHOICE (log 24): the second word is fetched wherever the first one's major and function have two words (R40), before any
check of the first word, so that a condition met there comes before the first word's own fates. -/
def State.fetchAt (s : State) (n : Nat) (pc : Word) : State × Except (Cond × Nat) Instr :=
  match s.fetchWord n pc.toNat with
  | (s, .error c) => (s, .error (c, 0))
  | (s, .ok w) =>
    if isTwoWord w then match s.fetchWord n (pc + 4).toNat with
      | (s, .error c) => (s, .error (c, w))
      | (s, .ok w1) => (s, .ok (instrOf w w1))
    else (s, .ok (instrOf w 0))

/-- The instruction at a core's pc. -/
def State.fetch (s : State) (n : Nat) : State × Except (Cond × Nat) Instr := s.fetchAt n (s.coreAt n).pc

/-! ## How an instruction ends -/

/-- What an instruction's effect comes to: it retires; it retires with the pc elsewhere; it takes a lead trap or a tail
stop with a cause and a trap value (R24), or, resumed, a lead trap that keeps its progress (R26); it waits, with nothing
performed; it is stopped in place (R224); an access ends the launch (R385); the core has ended or has been switched
out. -/
inductive Done
  | retire (s : State)
  | jump (s : State) (pc : Word)
  | lead (s : State) (cause tval : Nat)
  | again (s : State) (cause tval : Nat)
  | tail (s : State) (j cause tval : Nat) (is : Issue)
  | wait (s : State) (w : Wait)
  | kill (s : State) (status : Nat)
  | halt (s : State) (is : Issue)
  | gone (s : State)

/-! ## Tokens (R290, R291) -/

/-- The key of FIFO id of a core's crew. -/
def State.fifoKey (s : State) (n id : Nat) : Nat := 32 * (s.coreAt n).ident.regid.toNat + id

def State.fifoCount (s : State) (n id : Nat) : Nat := (s.clusterAt (clusterOf n)).fifos.get 0 (s.fifoKey n id)

def State.setFifo (s : State) (n id v : Nat) : State :=
  let k := s.fifoKey n id
  s.updClusterAt (clusterOf n) fun c => { c with fifos := c.fifos.set 0 k v }

/-- The ids a core reads, and those it writes (R290). -/
def readsFifo (k : Kind) (h id : Nat) : Bool := match k with
  | .hart => id == h || id == 18 + h
  | .treadle => (decide (8 ≤ id) && decide (id ≤ 15)) || id == 17
  | .hub => false

def writesFifo (k : Kind) (h id : Nat) : Bool := match k with
  | .hart => id == 8 + h
  | .treadle => decide (id ≤ 7) || id == 16
  | .hub => false

/-- The commands of a cluster's engine queue look again: those not started may start, those started may complete
(R299, R301). -/
def State.pokeEngine (s : State) (cluster : Nat) : State :=
  let l := List.range (s.clusterAt cluster).cmds.length
  { s with agenda := s.agenda ++ (l.map fun k => .event (.engineCommandStart cluster k)) ++
      (l.reverse.map fun k => .event (.engineCommandComplete cluster k)) }

/-- A push at the end of a carrier, or the wait for room (R291, R292); a command may wait for FIFO 16 (R301). -/
def State.pushToken (s : State) (n id : Nat) : State :=
  if s.fifoCount n id < 15 then
    let s := (s.setFifo n id (s.fifoCount n id + 1)).updCoreAt n fun c => { c with push := none, wait := .none }
    if id = 16 then s.pokeEngine (clusterOf n) else s
  else s.updCoreAt n fun c => { c with push := some id, wait := .push }

/-- The pop of a core's rider, once, before the carrier's first element (R55); it is an acquire (R247, R272, R275). A
command's push may wait for the room. -/
def State.popRider (s : State) (n : Nat) : State :=
  match (s.coreAt n).rider with
  | some r =>
    if r.popped then s
    else match r.pop with
      | some id =>
        let s := (s.setFifo n id (s.fifoCount n id - 1)).updCoreAt n fun c =>
          { c.acquire with rider := some { r with popped := true } }
        if 17 ≤ id then s.pokeEngine (clusterOf n) else s
      | none => s.updCoreAt n fun c => { c with rider := some { r with popped := true } }
  | none => s

/-- The rider of a carrier of which nothing has been performed: its pop undone, the pc at the rider; after a tail stop it
stays as it is (R55). -/
def State.undoRider (s : State) (n : Nat) : State :=
  match (s.coreAt n).rider, (s.coreAt n).resume with
  | some r, none =>
    let s := match r.popped, r.pop with
      | true, some id => s.setFifo n id (s.fifoCount n id + 1)
      | _, _ => s
    s.updCoreAt n fun c => { c with rider := none, pc := r.pc }
  | _, _ => s

/-! ## Shortening (R24, R33) -/

/-- The SH flag set. -/
def Core.setSh (c : Core) : Core := { c with modes := { c.modes with stat := c.modes.stat ||| 0x100 } }

/-- The FQ and CAUSE fields of vfs (R114). -/
def fsValue (cause : Nat) (fq : Bool) : Half := .ofNat 32 (cause + if fq then 256 else 0)

/-- The strip shortened to j for a cause; vl, vff and vfs are written whole (R401). -/
def State.shorten (s : State) (n j cause : Nat) (fq : Bool) : State :=
  let s := s.updCoreAt n fun c =>
    ({ c with strip := { c.strip with len := .ofNat 32 j, ff := .ofNat 32 j, fs := fsValue cause fq } }.setSh).goodStrip
      [0, 2, 3]
  (s.countCore n 0 1).countCore n cause 1

/-- The position and cause of a tail stop recorded. -/
def State.markTail (s : State) (n j cause : Nat) (fq : Bool) : State :=
  s.updCoreAt n fun c =>
    { c with strip := { c.strip with ff := .ofNat 32 j, fs := fsValue cause fq } }.goodStrip [2, 3]

/-- `commit` (R24). -/
def State.commit (s : State) (n j : Nat) : State :=
  s.updCoreAt n fun c =>
    if c.strip.floor.toNat < j then { c with strip := { c.strip with floor := .ofNat 32 j } }.goodStrip [4] else c

/-- The outcomes of R24 at a moved position j. -/
inductive StopOut | lead | tail | short
deriving DecidableEq, Repr

def stopOut (j floor : Nat) : StopOut := if j = 0 then .lead else if j ≤ floor then .tail else .short

/-! ## Taking an exception (R362, R369, R370) -/

/-- A cluster core stopped by a lead trap or a tail stop: its window is filled and latched, a trap-queue entry written
(none for cause 12, R384), PROD advanced. -/
def State.trapCluster (s : State) (n : Nat) (kind : StopKind) (cause tval prog : Nat) : State :=
  let s := s.updCoreAt n fun c => { c with
    run := .stopped, wait := .none
    win := { c.win with kind := kind, cause := cause, latch := true, tval := .ofNat 64 tval, prog := prog,
                        newPc := none } }
  let s := s.countCore n (if kind = .tail then 9 else 10) 1
  if cause = 12 then s else s.postTrap n cause (if kind = .tail then 2 else 1)

/-- The level a hub hart takes a trap at, before R370. -/
def trapLevel (cause : Nat) (level : Level) : Level := match level with
  | .u => if cause = 12 then .h else .s
  | .s => if cause = 12 || cause = 18 then .h else .s
  | .h => if cause = 12 || cause = 18 then .m else .h
  | .m => .m

/-- The trap registers of a level; U has none and reads as S. -/
def Core.trapRegs (c : Core) : Level → TrapRegs
  | .m => c.trapM
  | .h => c.trapH
  | _ => c.trapS

def Core.setTrapRegs (c : Core) (l : Level) (t : TrapRegs) : Core := match l with
  | .m => { c with trapM := t }
  | .h => { c with trapH := t }
  | _ => { c with trapS := t }

/-- BUSY, PIE and IE of a status register (R368). -/
def statBusy (v : Word) : Bool := v.getLsbD 7
def statPie (v : Word) : Bool := v.getLsbD 1
def statIe (v : Word) : Bool := v.getLsbD 0
/-- PLV of a status register. -/
def statPlv (v : Word) : Level := match v.toNat / 16 % 4 with
  | 0 => .u
  | 1 => .s
  | 2 => .h
  | _ => .m

/-- A status register after entry from a level: PIE = IE, IE = 0, PLV the level, BUSY = 1 (R369). -/
def statEnter (v : Word) (l : Level) : Word :=
  (v &&& ~~~(0xB3 : Word)) ||| .ofNat 64 (128 + 16 * rankOf l + if statIe v then 2 else 0)

/-- Entry to level l of a hub hart: cause, pc, value, status, level and pc as R369 gives; cause, epc and tval are written
whole (R401). -/
def Core.enter (c : Core) (l : Level) (cause tval : Word) : Core :=
  let t := c.trapRegs l
  { (c.setTrapRegs l { t with cause := cause, epc := c.pc, tval := tval, stat := statEnter t.stat c.level }).goodCtl
      [trapBase l, trapBase l + 1, trapBase l + 2] with
    level := l, pc := t.vec, wait := .none, rider := none }

/-- The next level up; none above M. -/
def levelUp : Level → Option Level
  | .u => some .s
  | .s => some .h
  | .h => some .m
  | .m => none

/-- The lowest level from l up that is not BUSY (R370). -/
def Core.freeLevel (c : Core) (l : Level) : Option Level :=
  match l with
  | .u | .s =>
    if !statBusy c.trapS.stat then some .s else if !statBusy c.trapH.stat then some .h
    else if !statBusy c.trapM.stat then some .m else none
  | .h => if !statBusy c.trapH.stat then some .h else if !statBusy c.trapM.stat then some .m else none
  | .m => if !statBusy c.trapM.stat then some .m else none

/-- Every cluster core and hub hart of a partition stops in place, whatever it waits for; the stop is reported (R387,
R397). -/
def State.stopPartition (s : State) (p : Nat) : State :=
  let stop (e : Nat × Core) : Nat × Core :=
    if s.partOf e.1 = some p && e.2.run = .running then (e.1, { e.2 with run := .stopped, wait := .none }) else e
  { (s.updPartAt p fun q => { q with stopped := true }) with cores := s.cores.map stop }.report (.partitionStop p)

/-- A synchronous trap of a hub hart (R369, R370). -/
def State.trapHub (s : State) (n : Nat) (cause tval : Nat) : State :=
  let c := s.coreAt n
  match c.freeLevel (trapLevel cause c.level) with
  | some l => s.setCoreAt n (c.enter l (.ofNat 64 cause) (.ofNat 64 tval))
  | none => match s.partOf n with
    | some p => s.stopPartition p
    | none => s.updCoreAt n fun c => { c with run := .stopped }

/-- Taking a lead trap at the core's pc: the one shared operation. -/
def State.takeTrap (s : State) (n cause tval : Nat) : State :=
  if kindOf n = .hub then s.trapHub n cause tval else s.trapCluster n .lead cause tval 0

/-- The return from a trap at the core's level (R373). DEDUCED (log 24): the pc stays a multiple of 4 (R39): bits 1:0 of
epc are dropped. -/
def Core.trapReturn (c : Core) : Core :=
  let t := c.trapRegs c.level
  let stat := (t.stat &&& ~~~(0x83 : Word)) ||| .ofNat 64 (2 + if statPie t.stat then 1 else 0)
  { c.setTrapRegs c.level { t with stat := stat } with level := statPlv t.stat, pc := t.epc &&& ~~~(3 : Word) }

/-- Class 3 of R376: a cluster core of the partition is stopped with cause 12. -/
def State.maskedStop (s : State) (p : Nat) : Bool :=
  s.cores.any fun e => decide (e.1 < 7200) && e.2.win.latch && decide (e.2.win.cause = 12) && s.partOf e.1 == some p

/-- The interrupt a hub hart takes before its next instruction: code and level (R376). -/
def State.interrupt (s : State) (n : Nat) : Option (Nat × Level) :=
  let c := s.coreAt n
  match s.partOf n with
  | none => none
  | some p =>
    if !((s.attachOf n).state == 2) then none
    else if statIe c.trapH.stat && c.trapH.stat.getLsbD 2 && decide (rankOf c.level ≤ 2) && s.maskedStop p then
      some (3, .h)
    else if statIe c.trapS.stat && decide (rankOf c.level ≤ 1) then
      if c.trapS.stat.getLsbD 2 && s.pending p .trap true then some (1, .s)
      else if c.trapS.stat.getLsbD 3 && s.pending p .fault false then some (2, .s)
      else none
    else none

/-- A hub hart takes an interrupt (R376, R369), before a rider whose carrier has not been issued (R55). -/
def State.enterInterrupt (s : State) (n code : Nat) (l : Level) : State :=
  (s.undoRider n).updCoreAt n fun c => c.enter l (.ofNat 64 (2 ^ 63 + code)) 0

/-! ## Completion words and the end of launches (R295 to R297, R343) -/

/-- The surveyor's identity for a region's completion word: level S in the launch's ASID (R297). -/
def surveyorFor (p : Nat) (r : Region) : Who := ⟨7200, some p, r.rcb.asid, .s, some r.rcb.wsmask, .device⟩

/-- The held completion value written to its word; a failure makes a cairn entry (R297). -/
def State.writeWord (s : State) (p : Nat) (r : Region) : State :=
  let w := surveyorFor p r
  let va := r.rcb.cword.toNat
  let res := match locate s w .write va 8 8 with
    | (s, .error c) => (s, Except.error c)
    | (s, .ok loc) => s.storeLoc w va loc 8 r.word.toNat
  match res with
  | (s, .ok _) => s
  | (s, .error c) => s.cairn p r.regid 9 c.code noCluster r.word.toNat

/-- A completion value after termination (R296). -/
def wordTerminated (w : Word) (status kcode : Nat) : Word :=
  (w &&& ~~~(0x80FFFFFF00000000 : Word)) ||| .ofNat 64 (2 ^ 63 + status % 256 * 2 ^ 48 + kcode % 65536 * 2 ^ 32)

/-- A completion value after a core's end: its flags, one more ended core, DONE with the last (R295). -/
def wordEnded (w : Word) (stat : Half) (cores : Nat) : Word :=
  let w := w ||| (stat &&& 0x13F).setWidth 64
  let ended := (w.toNat / 65536 + 1) % 65536
  let w := (w &&& ~~~(0xFFFF0000 : Word)) ||| .ofNat 64 (ended * 65536)
  if ended = cores % 65536 then (w &&& ~~~(0xFF000000000000 : Word)) ||| .ofNat 64 (2 ^ 63) else w

/-- The first cluster of a launch, for a cairn entry. -/
def Region.firstCluster (r : Region) : Nat := r.clusters.headD noCluster

/-- The token FIFOs of a crew emptied. -/
def Cluster.clearCrew (c : Cluster) (regid : Nat) : Cluster :=
  { c with fifos := c.fifos.clear (32 * regid) (32 * regid + 32) }

/-- When occupancy changes, draining resources look again (R339), waiting gang crews of a slice start (R352), QUIET may
be set (R398), and the ready set is tried (R347). -/
def State.occupancyChanged (s : State) (p : Nat) (clusters : List Nat) : State :=
  let s := clusters.foldl (fun s c =>
    if (s.hub.clusterAtt.get Attach.none c).state = 3 then s.later (.resourceDrained (.cluster c)) else s) s
  let late := (s.partAt p).gangs.flatMap fun g =>
    if g.live then (g.waiting.filter fun w => clusters.contains w.cluster).map fun w => (g.gang, w.crew) else []
  let s := late.foldl (fun s e => s.later (.gangLateStart p e.1 e.2)) s
  let s := if (s.partAt p).recov.hold then s.later (.recoveryQuiet p) else s
  s.later (.placement p)

/-- The cores of a launch taken off their clusters, their state discarded. -/
def State.clearCores (s : State) (p regid : Nat) : State :=
  (s.coresOf p regid).foldl (fun s n =>
    s.setCoreAt n (if kindOf n = .treadle then { Core.absentTreadle with events := (s.coreAt n).events }
      else { Core.absent with events := (s.coreAt n).events })) s

/-- A crew of a launch is off its cluster: not started yet, or saved (R352). -/
def Region.crewOut (r : Region) (crew : Nat) : Bool :=
  r.fresh.contains crew || r.savedCrews.any fun c => c.crew == crew

/-- A crew of a launch is on a cluster: cores of it are there, or have been saved from there on the launch's way out. -/
def State.occupies (s : State) (r : Region) (cluster : Nat) : Bool :=
  r.clusters.zipIdx.any fun e => e.1 == cluster && !r.crewOut e.2 &&
    (!(s.crewOn cluster r.regid).isEmpty || r.saved.any fun c => c.crew == e.2)

/-- The accumulators of a cluster are those of another launch's crew with a treadle (R348). -/
def State.foreignTile (s : State) (p : Nat) (r : Region) (cluster : Nat) : Bool :=
  (s.partAt p).regions.any fun q => q.regid != r.regid && q.rcb.hasTreadle && s.occupies q cluster

/-- A launch's engine commands, tokens and tile enable taken off its clusters. -/
def State.clearClusters (s : State) (r : Region) (p : Nat) : State :=
  r.clusters.foldl (fun s c =>
    let mine := r.rcb.hasTreadle && !s.foreignTile p r c
    (s.updClusterAt c fun cl =>
      let cl := cl.clearCrew r.regid
      { cl with cmds := cl.cmds.filter fun m => !(decide (m.part = p) && decide (m.regid = r.regid))
                enable := if mine then false else cl.enable }).pokeEngine c) s

/-- The first of a list that meets a condition changed. -/
def updFirst (hit : α → Bool) (f : α → α) : List α → List α
  | [] => []
  | x :: xs => if hit x then f x :: xs else x :: updFirst hit f xs

/-- Another region table: gangs know nothing of launches that are not in it, and none is left without a launch (R352). -/
def Part.withRegions (q : Part) (rs : List Region) : Part :=
  let known (id : Nat) : Bool := rs.any fun r => r.regid == id
  { q with
    regions := rs
    gangs := (q.gangs.filter fun g => rs.any fun r => r.rcb.launch && r.rcb.gang == g.gang).map fun g => { g with
      seats := g.seats.filter fun w => known w.regid
      waiting := g.waiting.filter fun w => known w.regid
      displaced := g.displaced.filter known
      overdue := g.overdue.filter known } }

/-- Regions leave the region table, and the image that a save in progress makes (R399). -/
def State.dropRegions (s : State) (p : Nat) (gone : Region → Bool) : State :=
  let kept (rs : List Region) : List Region := rs.filter fun r => !gone r
  let saving := (s.partAt p).recov.stat = 1 && (s.partAt p).recov.cmd = 8
  let s := s.updPartAt p fun q => q.withRegions (kept q.regions)
  if saving then s.updHub fun h => { h with
    images := updFirst (fun im => im.part == p) (fun im => { im with regions := kept im.regions }) h.images } else s

/-- The termination of one launch (R343, R385, R402): its cores, commands and tokens are gone, the completion word and
the cairn say why, and an image being saved records it (R399). -/
def State.terminate (s : State) (p regid status kcode : Nat) : State :=
  match s.regionAt p regid with
  | none => s
  | some r =>
    let r := { r with word := wordTerminated r.word status kcode }
    let s := s.clearCores p regid
    let s := s.clearClusters r p
    let s := s.writeWord p r
    let s := s.dropRegions p fun x => x.regid == regid
    (s.cairn p regid 7 status r.firstCluster kcode).occupancyChanged p r.clusters

/-- A launch ended by an access of one of its cores (R385, R402). -/
def State.killLaunch (s : State) (n status : Nat) : State :=
  match s.launchOf n, s.partOf n with
  | some r, some p => s.terminate p r.regid status 0
  | _, _ => s

/-- The progress index of an engine command whose STATUS is written and whose push waits for room: its accesses have been
made (R291, R304). -/
def pushPending : Nat := 2 ^ 32

/-- An engine command may still make accesses. -/
def Cmd.accessing (m : Cmd) : Bool := !(m.prog == pushPending)

/-! ## Issue and retirement -/

/-- Fault services that a spent budget holds keep their core from issuing (R346). -/
def State.serviceHeld (s : State) (n : Nat) : Bool := decide (0 < (s.coreAt n).services)

/-- Retirement: the pc, instret (one more for a rider), the rider's push. -/
def State.retireTo (s : State) (n : Nat) (pc : Word) : State :=
  let rider := (s.coreAt n).rider
  let s := s.updCoreAt n fun c => { c with
    pc := pc
    instret := c.instret + (if rider.isSome then 2 else 1)
    resume := none
    wait := .none
    rider := none }
  match rider with
  | some r => match r.push with
    | some id => s.pushToken n id
    | none => s
  | none => s

/-- The waits from which a core is switched at once, before the instruction (R377), or with its push pending (R292). -/
def Wait.yields : Wait → Bool
  | .pop | .push | .word | .barrier | .ending | .engine => true
  | _ => false

/-- A core with a pre-emption pending that comes to such a wait is asked once more. -/
def State.askAgain (s : State) (n : Nat) (w : Wait) : State := match (s.coreAt n).preempt with
  | some q => if w.yields then s.later (.preemptRequest n q.forReg) else s
  | none => s

/-- Cycles, a free number (log 11), for which an item of a core was stalled or held: 11 a full queue, 12 no reply slot, 13
a spent budget (R356). -/
def State.stall (s : State) (n k : Nat) : State := s.used.countCore n k (Config.elapsed s.free)

/-! ## The instruction queue (R286 to R289, R361) -/

/-- What an instruction takes at issue or dispatch: the strip length, the tags of its registers, the scalars its fields
name, qthr and the tile configuration (R144, R146, R203, R218). -/
def State.takes (s : State) (n a b d : Nat) : Issue :=
  let c := s.coreAt n
  ⟨c.strip.len.toNat, c.tag a, c.tag b, c.tag d, c.xreg a, c.xreg b, c.xreg d, 0, c.modes.qthr,
    if kindOf n = .treadle then (s.clusterAt (clusterOf n)).cfg else 0, false, false⟩

/-- The registers whose tags and values an instruction takes. -/
def takenRegs (i : Instr) : Nat × Nat × Nat := match i with
  | .mOp _ _ _ pp | .mOpc _ _ _ pp => (2 * pp, 2 * pp + 1, 0)
  | .mOps _ a _ pp => (2 * pp, 2 * pp + 1, a)
  | .qAxpy _ a b w _ => (a, b, w)
  | i => (fieldA (firstWord i), fieldB (firstWord i), fieldD (firstWord i))

/-- Entries of a core's instruction queue (R286). -/
def queueSize (k : Kind) : Nat := if k = .treadle then 16 else 64

/-- An instruction that a core's queue takes (R287, R288). -/
def queued (k : Kind) (w : Nat) : Bool := if k = .treadle then isTile w else reachesLanes w

/-- An instruction that reserves a reply slot (R289). -/
def reserves (i : Instr) : Bool := match i with
  | .vMvx .. | .kCnt .. | .kFirst .. | .sPos .. => true
  | .crRd _ cn => cn == 0 || cn == 0x10
  | _ => false

/-- The registers for which a core has reserved a reply slot (R289): those whose value waits to be written, and those of
the instructions in its queue. -/
def Core.owed (c : Core) : List Nat :=
  c.replies.map (fun r => r.reg) ++
  (c.held.filter fun h => reserves h.instr).map fun h => fieldD (firstWord h.instr)

/-- An instruction reads or writes a register of a list (R289). -/
def usesAny (l : List Nat) (i : Instr) : Bool :=
  l.any fun r => (xSources i).contains r || fieldD (firstWord i) == r

/-- A core's queue takes an instruction (R287, R288, R289): one that reaches the lanes in a strip that is not empty, or the
array; that meets no trap at decode; that reads no register a reply is due for; and that finds a reply slot if it reserves
one. owed lists the registers with a reserved slot. -/
def State.dispatches (s : State) (n : Nat) (owed : List Nat) (i : Instr) : Bool :=
  queued (kindOf n) (firstWord i) && !(reachesLanes (firstWord i) && (s.coreAt n).strip.len == 0) &&
  (s.decodeCause n i).isNone && (s.ownerCause n i).isNone && !usesAny owed i &&
  !(reserves i && decide (8 ≤ owed.length))

/-- The queue entry of an instruction dispatched at a pc (R146, R287). -/
def State.entry (s : State) (n : Nat) (i : Instr) (pc : Word) : Held :=
  let r := takenRegs i
  ⟨i, { s.takes n r.1 r.2.1 r.2.2 with queued := true }, pc⟩

/-- A core's front end fetches an instruction ahead, at an address in the page of its pc; its fetch reads as any other does
(R401, R402). DEDUCED (log 2): an instruction that does not lie in that page whole is none. -/
def State.fetchAhead (s : State) (n : Nat) (pc : Word) : State × Option Instr :=
  let inPage (a : Word) : Bool := a.toNat / pageBytes == (s.coreAt n).pc.toNat / pageBytes
  if !inPage pc then (s, none)
  else match s.fetchAt n pc with
    | (s, .ok i) => (s, if inPage (pc + .ofNat 64 (lengthOf i) - 1) then some i else none)
    | (s, .error _) => (s, none)

/-- The instructions that follow a pc directly and are dispatched into a core's queue, at most k. -/
def State.heldBehind (s : State) (n : Nat) : Nat → List Nat → Word → State × List Held
  | 0, _, _ => (s, [])
  | k + 1, owed, pc => match s.fetchAhead n pc with
    | (s, some i) =>
      if s.dispatches n owed i then
        let r := s.heldBehind n k (if reserves i then fieldD (firstWord i) :: owed else owed)
          (pc + .ofNat 64 (lengthOf i))
        (r.1, s.entry n i pc :: r.2)
      else (s, [])
    | (s, none) => (s, [])

/-- Where the next instruction that a core dispatches stands: behind its last queue entry, or at a pc. -/
def Core.dispatchPc (c : Core) (pc : Word) : Word := match c.held.getLast? with
  | some h => h.pc + .ofNat 64 (lengthOf h.instr)
  | none => pc

/-- Instructions put behind a core's queue. -/
def State.enqueue (s : State) (n : Nat) (l : List Held) : State := s.updCoreAt n fun c => { c with held := c.held ++ l }

/-- A core stopped with a tail stop: a free number of the instructions that follow have come into its queue (R361,
log 2), beside those that stood in it. -/
def State.dispatchBehind (s : State) (n : Nat) (i : Instr) : State :=
  let c := s.coreAt n
  let room := queueSize (kindOf n) - 1 - c.held.length
  let r := s.used.heldBehind n (Config.dispatched s.free % (room + 1)) c.owed
    (c.dispatchPc (c.pc + .ofNat 64 (lengthOf i)))
  r.1.enqueue n r.2

/-- The oldest reply written to its register, its slot freed (R289); the register of one that cannot be corrected cannot
be either (R401). -/
def Core.writeReply (c : Core) : Core := match c.replies with
  | [] => c
  | r :: rs =>
    let d := { c.setX r.reg r.value with replies := rs }
    if c.badRegs.contains .reply then
      { (if rs.isEmpty then d.good .reply else d) with
        badRegs := .x r.reg :: (if rs.isEmpty then d.good .reply else d).badRegs } else d

/-- Every reply written, at most k (R289). -/
def Core.writeSome (c : Core) : Nat → Core
  | 0 => c
  | k + 1 => c.writeReply.writeSome k

/-- Every reply written (R289). -/
def Core.writeReplies (c : Core) : Core := c.writeSome c.replies.length

/-- A value an instruction returns to an x register: written at once, or, by one that a queue held, through its reply
slot (R289). -/
def State.reply (s : State) (n d : Nat) (v : Word) : State := match (s.coreAt n).resume with
  | some is =>
    if is.queued then (s.updCoreAt n fun c => { c with replies := c.replies ++ [⟨d, v⟩] }).later (.replyWrite n)
    else s.updCoreAt n fun c => c.setX d v
  | none => s.updCoreAt n fun c => c.setX d v

/-- A core comes to a stop at an instruction: the replies of those before it have been written (R361), and what stood in
its queue behind it is dropped, but for a tail stop. -/
def Core.stopsLead (c : Core) : Core := { c.writeReplies with held := [] }

/-- A lead trap of an instruction that resumes keeps the progress it has (R26, R55). -/
def Done.keeping (start : Nat) : Done → Done
  | .lead s cause tval => if start = 0 then .lead s cause tval else .again s cause tval
  | d => d

/-- The end of an instruction of a core. -/
def finish (i : Instr) (n : Nat) : Done → State
  | .retire s => s.retireTo n ((s.coreAt n).pc + .ofNat 64 (lengthOf i))
  | .jump s pc => s.retireTo n pc
  | .lead s cause tval =>
    ((s.undoRider n).updCoreAt n fun c => { c.stopsLead with resume := none }).takeTrap n cause tval
  | .again s cause tval => (s.updCoreAt n Core.stopsLead).trapCluster n .lead cause tval 0
  | .tail s j cause tval is =>
    let s := s.updCoreAt n fun c => { c.writeReplies with resume := some { is with start := j, queued := false } }
    (s.trapCluster n .tail cause tval j).dispatchBehind n i
  | .wait s w =>
    let s := if w = .budget || w = .service then s.stall n 13 else s
    (s.updCoreAt n fun c => { c with wait := w }).askAgain n w
  | .kill s status => s.killLaunch n status
  | .halt s is => s.updCoreAt n fun c => { c with resume := some is }
  | .gone s => s

/-- A lead trap whose value is the instruction's first word (R366). -/
def leadWord (s : State) (i : Instr) (cause : Nat) : Done := .lead s cause (firstWord i)

/-- A condition met by a scalar access at an address (R138): the end of the launch, or a lead trap whose value is the
address, or the instruction's first word for an uncorrectable word (R366, R402). -/
def leadCond (s : State) (i : Instr) (n : Nat) (c : Cond) (va : Nat) : Done :=
  match s.fate n c with
  | .kill st => .kill s st
  | .stop .uncorrectable => leadWord s i Cond.uncorrectable.code
  | .stop c => .lead s c.code va

/-- A rider whose carrier cannot have it (R54): another ride, or a class for a carrier without a memory access. -/
def badCarrier (r : Rider) (i : Instr) : Bool :=
  majorOf (firstWord i) == 0x0E || (r.cls.isSome && !accessesMemory (firstWord i))

/-- The class that a carrier's rider gives its accesses, if it gives one (R54, R264). -/
def Core.riderClass (c : Core) : Option Nat := c.rider.bind fun r => r.cls

/-- The rider's pop waits for a token (R291). -/
def State.popWaits (s : State) (n : Nat) : Bool :=
  match (s.coreAt n).rider with
  | some r => match r.pop with
    | some id => !r.popped && decide (s.fifoCount n id = 0)
    | none => false
  | none => false

/-- An uncorrectable register is counted and reported where it is found. -/
def State.ownerTrap (s : State) (n : Nat) (i : Instr) (cause : Nat) : Done :=
  leadWord (if cause = 15 then s.detectReg n else s) i cause

/-- An instruction that resumes: the checks of R53 again (R380 says so of the vector owner; DEDUCED, log 24: of all), then
its effect; a lead trap keeps the progress it has (R26). -/
def resumed (i : Instr) (n : Nat) (s : State) (is : Issue) (body : State → Done) : Done :=
  (match s.decodeCause n i with
    | some cause => leadWord s i cause
    | none => match s.ownerCause n i with
      | some cause => s.ownerTrap n i cause
      | none => body s).keeping is.start

/-- An instruction reads or writes a register for which a reply is due (R289). -/
def Core.awaitsReply (c : Core) (i : Instr) : Bool := usesAny (c.replies.map fun r => r.reg) i

/-- An instruction finds every reply slot reserved (R289); in a zero-length strip it reserves none. -/
def Core.slotsFull (c : Core) (i : Instr) : Bool :=
  reserves i && !(c.strip.len == 0) && decide (8 ≤ c.owed.length)

/-- The wait for the instruction queue or a reply slot, if an instruction has one (R287 to R289): the oldest reply is
written meanwhile. -/
def State.queueWait (s : State) (n : Nat) (i : Instr) : Option State :=
  let c := s.coreAt n
  if c.awaitsReply i then some (s.updCoreAt n Core.writeReply)
  else if c.slotsFull i then some ((s.stall n 12).updCoreAt n Core.writeReply)
  else if queued (kindOf n) (firstWord i) && decide (queueSize (kindOf n) ≤ c.held.length) then some (s.stall n 11)
  else none

/-- Everything before an instruction's own effect: the rider, the checks of R53, the zero-length strip of R16, the queues
of R287 and R289, the rider's pop. -/
def gate (i : Instr) (n : Nat) (s : State) (body : State → Done) : Done :=
  let c := s.coreAt n
  let w := firstWord i
  if s.serviceHeld n then .wait s .service
  else match c.resume with
  | some is => resumed i n s is body
  | none => match c.rider.filter fun r => badCarrier r i with
    | some r => .lead s 10 r.word
    | none =>
      if s.popWaits n then .wait s .pop
      else match s.decodeCause n i with
        | some cause => leadWord s i cause
        | none =>
          if reachesLanes w && c.strip.len == 0 then .retire (s.popRider n)
          else match s.ownerCause n i with
            | some cause => s.ownerTrap n i cause
            | none => match s.queueWait n i with
              | some s => .wait s .dispatch
              | none => body (s.popRider n)

/-- An instruction of the core whose turn it is. -/
def issue (i : Instr) (s : State) (body : State → Done) : Host.Outcome State Fault Refusal :=
  .next (finish i s.cur (gate i s.cur s body))

end Sys2Proof.Machine
end

