-- ==== Sys2Proof/Machine/Branch.lean ====
section
/-!
DEFINITION. Branch.lean: branches and jumps (spec/05_scalar_control.md R128, R129).
-/

namespace Sys2Proof.Machine

/-- The target of a branch, its offset in words. -/
def branchTarget (pc : Word) (off : BitVec 11) : Word := pc + 4 * off.signExtend 64

/-- A branch on the two registers it compares (R128). -/
def branch (i : Instr) (s : State) (a b : Nat) (off : BitVec 11) (cond : Word → Word → Bool) :
    Host.Outcome State Fault Refusal :=
  issue i s fun s =>
    if cond (s.x a) (s.x b) then .jump s (branchTarget s.core.pc off) else .jump s (s.core.pc + 4)

/-- R128. -/
def execBEq (a : Nat) (b : Nat) (off : BitVec 11) (s : State) : Host.Outcome State Fault Refusal :=
  branch (.bEq a b off) s a b off fun x y => x == y

/-- R128. -/
def execBNe (a : Nat) (b : Nat) (off : BitVec 11) (s : State) : Host.Outcome State Fault Refusal :=
  branch (.bNe a b off) s a b off fun x y => x != y

/-- R128. -/
def execBLt (a : Nat) (b : Nat) (off : BitVec 11) (s : State) : Host.Outcome State Fault Refusal :=
  branch (.bLt a b off) s a b off fun x y => x.slt y

/-- R128. -/
def execBGe (a : Nat) (b : Nat) (off : BitVec 11) (s : State) : Host.Outcome State Fault Refusal :=
  branch (.bGe a b off) s a b off fun x y => !x.slt y

/-- R128. -/
def execBLtn (a : Nat) (b : Nat) (off : BitVec 11) (s : State) : Host.Outcome State Fault Refusal :=
  branch (.bLtn a b off) s a b off fun x y => x.ult y

/-- R128. -/
def execBGen (a : Nat) (b : Nat) (off : BitVec 11) (s : State) : Host.Outcome State Fault Refusal :=
  branch (.bGen a b off) s a b off fun x y => !x.ult y

/-- R129. -/
def execJLink (d : Nat) (off : BitVec 18) (s : State) : Host.Outcome State Fault Refusal :=
  issue (.jLink d off) s fun s =>
    let pc := s.core.pc
    .jump (s.setX d (pc + 4)) (pc + 4 * off.signExtend 64)

/-- R129: a target that is no word address is misaligned. -/
def execJInd (d : Nat) (a : Nat) (off : BitVec 12) (s : State) : Host.Outcome State Fault Refusal :=
  issue (.jInd d a off) s fun s =>
    let t := s.x a + 4 * off.signExtend 64
    if t.toNat % 4 ≠ 0 then .lead s Cond.misaligned.code t.toNat
    else .jump (s.setX d (s.core.pc + 4)) t

end Sys2Proof.Machine
end

