-- ==== Sys2Proof/Machine/Cr.lean ====
section
/-!
DEFINITION. Cr.lean: control registers (spec/05_scalar_control.md R111 to R121, spec/16_events.md R368).
-/

namespace Sys2Proof.Machine

/-- R117: vlanes. -/
def Core.vlanes (c : Core) : Word := .ofNat 64 (c.vlmax * 65536 + c.ident.base * 256 + c.ident.lanes)

/-- R118: crewid. -/
def Core.crewid (c : Core) : Word := .ofNat 64 (c.ident.ncrew.toNat * 65536 + c.ident.crew.toNat)

/-- R117, R242: wswin of a die. DESIGN CHOICE (log 11): LEFT, and NEXT outside a refresh, are free values within the
schedule's bounds; a refresh of 416 cycles begins every 2,600, so that in one the next begins 2,184 after its end. -/
def State.wswin (s : State) (die : Nat) : State × Word :=
  let r := s.hub.refresh.get ⟨false, 0⟩ die
  let left := 1 + (Config.refreshLeft s.free).toNat % 416
  let next := 1 + (Config.refreshNext s.free).toNat % 2184
  (s.used, .ofNat 64 (r.bank % 16 +
    if r.busy then (2184 + left) * 2 ^ 20 + 2 ^ 13 + left * 16 else next * 2 ^ 20))

/-- The trap-register set of a control-register number, if it is one, with the place in it: 0 cause, 1 epc, 2 tval,
3 vec, 4 stat. -/
def trapCr (cn : Nat) : Option (Level × Nat) :=
  if 0x100 ≤ cn && cn ≤ 0x104 then some (.s, cn - 0x100)
  else if 0x200 ≤ cn && cn ≤ 0x204 then some (.h, cn - 0x200)
  else if 0x300 ≤ cn && cn ≤ 0x304 then some (.m, cn - 0x300)
  else none

def TrapRegs.get (t : TrapRegs) : Nat → Word
  | 0 => t.cause
  | 1 => t.epc
  | 2 => t.tval
  | 3 => t.vec
  | _ => t.stat

def TrapRegs.set (t : TrapRegs) (k : Nat) (v : Word) : TrapRegs := match k with
  | 0 => { t with cause := v }
  | 1 => { t with epc := v }
  | 2 => { t with tval := v }
  | 3 => { t with vec := v }
  | _ => { t with stat := v }

/-- A value with no RES bit of R368. -/
def trapValueOk (l : Level) (k : Nat) (v : Word) : Bool := match k with
  | 0 => v &&& 0x7FFFFFFFFFFFFF00 == 0
  | 3 => v &&& 3 == 0
  | 4 => v &&& ~~~(match l with
      | .m => 0xB3
      | .h => 0xB7
      | _ => 0xBF : Word) == 0
  | _ => true

/-- The value of a control register; none where it is not built on this kind of core or may not be read at the level
(R110, R111). -/
def State.crRead (s : State) (n cn : Nat) : Option (State × Word) :=
  let c := s.coreAt n
  let k := kindOf n
  let vector (v : Word) : Option (State × Word) :=
    if k = .treadle then none else some (s, if k = .hub then 0 else v)
  let matrix (v : Half) : Option (State × Word) := if k = .treadle then some (s, v.setWidth 64) else none
  let notTreadle (v : Half) : Option (State × Word) := if k = .treadle then none else some (s, v.setWidth 64)
  match cn with
  | 0x000 => vector (c.strip.len.setWidth 64)
  | 0x001 => vector (c.strip.granted.setWidth 64)
  | 0x002 => vector (c.strip.ff.setWidth 64)
  | 0x003 => notTreadle c.strip.fs
  | 0x004 => vector (c.strip.floor.setWidth 64)
  | 0x005 => notTreadle c.modes.vcfg
  | 0x006 => notTreadle c.modes.stat
  | 0x007 => vector c.vlanes
  | 0x008 => if k = .hub then some (s, 512) else notTreadle c.strip.clamp
  | 0x010 => matrix c.strip.len
  | 0x011 => matrix c.strip.granted
  | 0x012 => matrix c.strip.ff
  | 0x013 => matrix c.strip.fs
  | 0x014 => matrix c.strip.floor
  | 0x015 => matrix c.strip.clamp
  | 0x016 => matrix c.modes.stat
  | 0x020 => if k = .hart then some (s, c.modes.qthr.setWidth 64) else none
  | 0x021 => if k = .hart then some (s, c.modes.qstat.setWidth 64) else none
  | 0x028 => if k = .hub then none else some (s.wswin (dieOf (clusterOf n)))
  | 0x030 =>
    let r := s.cycles n
    some (r.1, .ofNat 64 r.2)
  | 0x031 =>
    let r := s.now
    some (r.1, .ofNat 64 r.2)
  | 0x032 => some (s, c.instret)
  | 0x038 => some (s, .ofNat 64 (s.hartid n))
  | 0x039 => if k = .hub then none else some (s, c.crewid)
  | 0x03A => some (s, c.ident.regid.setWidth 64)
  | 0x03B => some (s, c.ident.asid.setWidth 64)
  | cn => match trapCr cn with
    | none => none
    | some (l, r) =>
      if k = .hub && decide (rankOf l ≤ rankOf c.level) then some (s, (c.trapRegs l).get r) else none

/-- A core with a control register written; none where the register is not writable at the level or the value is
barred (R111, R120). A hub hart's vff stays 0. -/
def Core.crWrite (c : Core) (k : Kind) (cn : Nat) (v : Word) : Option Core :=
  let h : Half := v.setWidth 32
  let strip (st : Strip) : Option Core := some { c with strip := st }
  let modes (ok : Bool) (m : Modes) : Option Core := if ok then some { c with modes := m } else none
  match cn with
  | 0x002 => if k = .treadle then none else if k = .hub then some c else strip { c.strip with ff := h }
  | 0x003 => if k = .treadle || !fsOk h then none else strip { c.strip with fs := h }
  | 0x005 => modes (k != .treadle && vcfgOk h) { c.modes with vcfg := h }
  | 0x006 => modes (k != .treadle && statOk h) { c.modes with stat := h }
  | 0x012 => if k = .treadle then strip { c.strip with ff := h } else none
  | 0x013 => if k = .treadle && fsOk h then strip { c.strip with fs := h } else none
  | 0x016 => modes (k == .treadle && statOk h) { c.modes with stat := h }
  | 0x020 => modes (k == .hart && qthrOk h) { c.modes with qthr := h }
  | 0x021 => modes (k == .hart && qstatOk h) { c.modes with qstat := h }
  | cn => match trapCr cn with
    | none => none
    | some (l, r) =>
      if k = .hub && decide (rankOf l ≤ rankOf c.level) && trapValueOk l r v then
        some (c.setTrapRegs l ((c.trapRegs l).set r v)) else none

/-- A cause register read by cr.rd clears BUSY of its level (R368). -/
def Core.readClears (c : Core) (cn : Nat) : Core := match trapCr cn with
  | some (l, 0) =>
    let t := c.trapRegs l
    c.setTrapRegs l { t with stat := t.stat &&& ~~~(0x80 : Word) }
  | _ => c

/-- A write form of R120: new gives the value from the old one and x[a]. -/
def crUpdate (i : Instr) (s : State) (d a cn : Nat) (new : Word → Word → Word) : Host.Outcome State Fault Refusal :=
  issue i s fun s =>
    match s.crRead s.cur cn with
    | none => leadWord s i 10
    | some (s', old) => match s'.core.crWrite s.kind cn (new old (s.x a)) with
      | none => leadWord s i 10
      | some c => .retire ((s'.setCore c).setX d old)

/-- R120. -/
def execCrRd (d : Nat) (cn : Nat) (s : State) : Host.Outcome State Fault Refusal :=
  issue (.crRd d cn) s fun s =>
    match s.crRead s.cur cn with
    | none => leadWord s (.crRd d cn) 10
    | some (s, old) => .retire ((s.updCore fun c => c.readClears cn).setX d old)

/-- R120. -/
def execCrWr (d : Nat) (a : Nat) (cn : Nat) (s : State) : Host.Outcome State Fault Refusal :=
  crUpdate (.crWr d a cn) s d a cn fun _ v => v

/-- R120. -/
def execCrSet (d : Nat) (a : Nat) (cn : Nat) (s : State) : Host.Outcome State Fault Refusal :=
  crUpdate (.crSet d a cn) s d a cn fun old v => old ||| v

/-- R120. -/
def execCrClr (d : Nat) (a : Nat) (cn : Nat) (s : State) : Host.Outcome State Fault Refusal :=
  crUpdate (.crClr d a cn) s d a cn fun old v => old &&& ~~~v

end Sys2Proof.Machine
end

