-- ==== Sys2Proof/Machine/Fetch.lean ====
section
/-!
DEFINITION. Fetch.lean: which core moves, a fetch that meets a condition (spec/02_encoding.md R40), and what a core does
before an instruction: its rider's push that waits for room (spec/12_queues.md R292), an interrupt (spec/16_events.md
R376).
-/

namespace Sys2Proof.Machine

/-- A core may have a turn: it runs, and, on a cluster, no thermal trip withholds issue (R409). -/
def mayRun (trip : Bool) (e : Nat × Core) : Bool := e.2.run == .running && !(trip && decide (e.1 < 7200))

/-- The first core above a number that may have a turn, else the first of all. DESIGN CHOICE (log 1): cores take turns
in ascending order; the agenda can give any other order. -/
def nextRunning (cores : Tbl Core) (trip : Bool) (cur : Nat) : Option Nat :=
  match cores.find? fun e => mayRun trip e && decide (cur < e.1) with
  | some e => some e.1
  | none => (cores.find? (mayRun trip)).map fun e => e.1

/-- A fetch that meets a condition: a lead trap on the instruction, at the address of its first word (R40). DEDUCED
(log 24): where the first word cannot be read, the trap value it would be (R366) is 0. An instruction that was to resume
keeps its progress (R26, R55). -/
def State.fetchTrap (s : State) (n : Nat) (c : Cond) (w : Nat) : State :=
  let start := match (s.coreAt n).resume with
    | some is => is.start
    | none => 0
  finish (.illegalWord w) n ((leadCond s (.illegalWord w) n c (s.coreAt n).pc.toNat).keeping start)

/-- The oldest held instruction, when the core has come to it, made the one that resumes (R361, R374). -/
def Core.takeHeld (c : Core) : Option (Core × Instr) := match c.held with
  | [] => none
  | h :: hs => if h.pc = c.pc && c.resume.isNone then some ({ c with held := hs, resume := some h.issue }, h.instr) else none

/-- What a core does at its turn: a push that waits, an interrupt, or an instruction. -/
inductive CoreTurn | done (s : State) | run (s : State) (i : Instr)

/-- The instruction at a core's pc: a held one it has come to, or the one fetched. -/
def State.upcoming (s : State) (n : Nat) : CoreTurn :=
  match (s.coreAt n).takeHeld with
  | some (c, i) => .run (s.setCoreAt n c) i
  | none => match s.fetch n with
    | (s, .error e) => .done (s.fetchTrap n e.1 e.2)
    | (s, .ok i) => .run s i

/-- A core's turn, up to the effect of its instruction; nothing for a core that may have none. An
interrupt comes after an invalidation that a hub hart waits for (R328). -/
def State.turn (s : State) (n : Nat) : CoreTurn :=
  if !mayRun s.hub.power.trip (n, s.coreAt n) then .done s
  else match (s.coreAt n).push with
  | some id => .done (s.pushToken n id)
  | none =>
    match (if kindOf n = .hub && !((s.coreAt n).wait == .inval) then s.interrupt n else none) with
      | some (code, l) => .done (s.enterInterrupt n code l)
      | none => s.upcoming n

/-! ## The front end ahead (R287, R288, R289) -/

/-- Where the front end of a core goes on when its queue is empty: at its pc, or behind the instruction that is to
resume there, whose length it knows. -/
def State.frontPc (s : State) (n : Nat) : Word :=
  let c := s.coreAt n
  match c.resume, s.fetch n with
  | some _, (_, .ok i) => c.pc + .ofNat 64 (lengthOf i)
  | _, _ => c.pc

/-- The entries of a core's queue that are taken (R286): those that wait, and the one that is to resume. -/
def Core.taken (c : Core) : Nat := c.held.length + if c.resume.isSome then 1 else 0

/-- The front end of a running core dispatches one more instruction into its queue, if it can; a full queue and a want of
reply slots are counted (R287, R289, R356). Not past a rider whose carrier is to come, whose pair is issued together
(R55). -/
def State.dispatchAhead (s : State) (n : Nat) : State :=
  let c := s.coreAt n
  if !mayRun s.hub.power.trip (n, c) || kindOf n = .hub || c.rider.isSome then s
  else
    let pc := c.dispatchPc (s.frontPc n)
    match s.fetchAhead n pc with
    | (s, some i) =>
      if !queued (kindOf n) (firstWord i) then s
      else if decide (queueSize (kindOf n) ≤ c.taken) then s.stall n 11
      else if c.slotsFull i then s.stall n 12
      else if s.dispatches n c.owed i then s.enqueue n [s.entry n i pc]
      else s
    | (s, none) => s

/-! ## Placing an instruction for the host's questions (log 22) -/

/-- Bytes put where a core fetches, if it fetches from memory. -/
def State.placeBytes (s : State) (n : Nat) (bs : List Byte) : State :=
  match locate s (s.who n) .fetch (s.coreAt n).pc.toNat bs.length 4 with
  | (_, .ok (.mem runs _ _)) => s.setRuns runs bs
  | _ => s

/-- A core of a kind that runs a word: the given one, or hart 0 or the treadle of cluster 0. -/
def coreFor (w n : Nat) : Nat :=
  if runsOn w (kindOf n) then n else if runsOn w .hart then 0 else 8

end Sys2Proof.Machine
end

