-- ==== Sys2Proof/Machine/Flags.lean ====
section
/-!
DEFINITION. Flags.lean: the results and flags of scalar and element operations (spec/04_numbers.md R82 to R91, R103,
R104, R107, spec/05_scalar_control.md R122 to R127, spec/06_vector.md R150 to R154, the tag tables R57 to R59 of
spec/02_encoding.md).
-/

namespace Sys2Proof.Machine

/-! ## Scalar integers (R83, R84, R122) -/

/-- An exact value clamped to S64, SAT when the clamp changes it (R83). -/
def clamp64 (v : Int) : Word × Flags :=
  if v < -(2 ^ 63) then (.ofInt 64 (-(2 ^ 63)), Flags.sat)
  else if 2 ^ 63 ≤ v then (.ofInt 64 (2 ^ 63 - 1), Flags.sat)
  else (.ofInt 64 v, 0)

/-- An exact value wrapped or clamped. -/
def wrap64 (sat : Bool) (v : Int) : Word × Flags := if sat then clamp64 v else (.ofInt 64 v, 0)

/-- R84, signed, 64 bits: quotient. -/
def sdiv64 (a b : Word) : Word × Flags :=
  if b = 0 then (BitVec.allOnes 64, Flags.dz) else (.ofInt 64 (a.toInt.tdiv b.toInt), 0)
/-- R84, signed, 64 bits: remainder. -/
def srem64 (a b : Word) : Word × Flags :=
  if b = 0 then (a, Flags.dz) else (.ofInt 64 (a.toInt.tmod b.toInt), 0)
/-- R84, unsigned, 64 bits: quotient. -/
def udiv64 (a b : Word) : Word × Flags :=
  if b = 0 then (BitVec.allOnes 64, Flags.dz) else (.ofNat 64 (a.toNat / b.toNat), 0)
/-- R84, unsigned, 64 bits: remainder. -/
def urem64 (a b : Word) : Word × Flags :=
  if b = 0 then (a, Flags.dz) else (.ofNat 64 (a.toNat % b.toNat), 0)

/-- Ones among the low n bits. -/
def popCount : Nat → Nat → Nat
  | 0, _ => 0
  | n + 1, v => v % 2 + popCount n (v / 2)

/-- Zeros below the lowest one among the low n bits. -/
def trailingZeros : Nat → Nat → Nat
  | 0, _ => 0
  | n + 1, v => if v % 2 = 1 then 0 else 1 + trailingZeros n (v / 2)

/-- Leading zeros of a 64-bit value. -/
def leadingZeros64 (v : Nat) : Nat := if v = 0 then 64 else 63 - v.log2

/-! ## Scalar floats (R125 to R127) -/

/-- The bits of a format in an x register (R125). -/
def xFloat (f : Fl) (v : Word) : Val := unpack f v.toNat
/-- A result in an x register. -/
def xResult (f : Fl) (rm : Rm) (r : Val × Flags) : Word × Flags :=
  let (b, fl) := finishV f rm r
  (.ofNat 64 b, fl)

/-- The condition of f.cmp, with the flags of R90. -/
def floatCmp (cond : FCond) (a b : Val) : Bool × Flags :=
  let sig : Flags := if a.signals || b.signals then Flags.nv else 0
  let un := a.isNan || b.isNan
  let ord : Flags := if un then Flags.nv else 0
  match cond with
  | .eq => (a.eq b, sig)
  | .lt => (a.lt b, ord)
  | .le => (a.le b, ord)
  | .uo => (un, sig)

/-- f.class: the one-hot bit of a value's bits in a format (R125). -/
def floatClass (f : Fl) (bits : Nat) : Nat :=
  let ex := bits / 2 ^ (f.prec - 1) % 2 ^ f.ebits
  match unpack f bits with
  | .nan s => if s then 256 else 512
  | .inf neg => if neg then 1 else 128
  | .fin neg m _ =>
    if m = 0 then (if neg then 8 else 16)
    else if ex = 0 then (if neg then 4 else 32)
    else (if neg then 2 else 64)

/-- The range of an integer kind (R126). -/
def kindRange : FKind → Int × Int
  | .s64 => (-(2 ^ 63), 2 ^ 63 - 1)
  | .n64 => (0, 2 ^ 64 - 1)
  | .s32 => (-(2 ^ 31), 2 ^ 31 - 1)
  | _ => (0, 2 ^ 32 - 1)

/-- The format of a float kind. -/
def kindFl : FKind → Option Fl
  | .f64 => some Fl.f64
  | .f32 => some Fl.f32
  | .bf16 => some Fl.bf16
  | _ => none

/-- The value of an x register read as a kind (R126). -/
def kindVal (k : FKind) (v : Word) : Val :=
  match kindFl k with
  | some f => xFloat f v
  | none => match k with
    | .s64 => ofInt v.toInt
    | .n64 => ofInt v.toNat
    | .s32 => ofInt (v.setWidth 32).toInt
    | _ => ofInt (v.setWidth 32).toNat

/-- f.cvt (R126, R103). -/
def floatCvt (dk sk : FKind) (rm : Rm) (v : Word) : Word × Flags :=
  match kindFl dk with
  | some f => xResult f rm (kindVal sk v, 0)
  | none =>
    let (r, fl) := toIntV rm (kindRange dk).1 (kindRange dk).2 (kindVal sk v)
    (.ofInt 64 r, fl)

/-! ## Tags (R57 to R59) -/

/-- What a pair of source tags makes of an arithmetic operation: integers of a result tag, the IX with S32 row, or
floats of a result tag. -/
inductive Row | int (t : Tag) | ixs | float (t : Tag)
deriving DecidableEq, Repr

/-- R57, first column; none is a trap. -/
def binRow : Tag → Tag → Option Row
  | .s32, .s32 => some (.int .s32)
  | .n32, .n32 => some (.int .n32)
  | .ix, .ix | .ix, .n32 | .n32, .ix => some (.int .ix)
  | .ix, .s32 | .s32, .ix => some .ixs
  | .fp32, .fp32 | .bf16, .fp32 | .fp32, .bf16 => some (.float .fp32)
  | .bf16, .bf16 => some (.float .bf16)
  | _, _ => none

/-- The result tag of a row. -/
def Row.tag : Row → Tag
  | .int t => t
  | .ixs => .ix
  | .float t => t

/-- A row for an operation: the IX with S32 row serves add and sub alone, sat needs integers (R57, R58). -/
def opRow (addSub sat : Bool) (ta tb : Tag) : Option Row :=
  match binRow ta tb with
  | some .ixs => if addSub then some .ixs else none
  | some (.float t) => if sat then none else some (.float t)
  | r => r

/-- R57, second column: and, or, xor. -/
def logicTag : Tag → Tag → Option Tag
  | .s32, .s32 => some .s32
  | .n32, .n32 => some .n32
  | .ix, .ix | .ix, .n32 | .n32, .ix => some .ix
  | _, _ => none

/-- R57, third column: sel. -/
def selTag (a b : Tag) : Option Tag := if a = b then some a else none

/-- The integer tags. -/
def Tag.isInt : Tag → Bool
  | .s32 | .n32 | .ix => true
  | _ => false
def Tag.isFloat : Tag → Bool
  | .fp32 | .bf16 => true
  | _ => false
/-- An index register's tag (R59). -/
def Tag.isIndex : Tag → Bool
  | .ix | .n32 => true
  | _ => false

/-- R58: fma and fms dispatch twice. -/
def fmaRow (ta tb td : Tag) : Option Row :=
  match opRow false false ta tb with
  | some r => opRow false false r.tag td
  | none => none

/-! ## Integer elements (R83, R84, R150) -/

/-- An integer slot's value under its tag. -/
def intOf (t : Tag) (h : Half) : Int := if t = .s32 then h.toInt else h.toNat

/-- The range of an integer tag; IX as N32. -/
def tagRange (t : Tag) : Int × Int := if t = .s32 then (-(2 ^ 31), 2 ^ 31 - 1) else (0, 2 ^ 32 - 1)

/-- An exact value wrapped, or clamped to the range of a tag (R83). -/
def wrap32 (sat : Bool) (t : Tag) (v : Int) : Half × Flags :=
  let (lo, hi) := tagRange t
  if sat then (if v < lo then (.ofInt 32 lo, Flags.sat) else if hi < v then (.ofInt 32 hi, Flags.sat)
    else (.ofInt 32 v, 0))
  else (.ofInt 32 v, 0)

/-- R84 for an element. -/
def div32 (t : Tag) (a b : Half) : Half × Flags :=
  if b = 0 then (BitVec.allOnes 32, Flags.dz) else (.ofInt 32 ((intOf t a).tdiv (intOf t b)), 0)

/-! ## Float elements (R87, R89, R104) -/

/-- The format of a float tag. -/
def tagFl (t : Tag) : Fl := if t = .bf16 then Fl.bf16 else Fl.f32

/-- The code of a float tag in a slot, and the slot of a code (R88). -/
def slotCode (t : Tag) (h : Half) : Nat := if t = .bf16 then h.toNat / 65536 else h.toNat
def codeSlot (t : Tag) (b : Nat) : Half := if t = .bf16 then .ofNat 32 (b * 65536) else .ofNat 32 b

/-- A float slot as an arithmetic operand, flushed when FTZ says so (R87). -/
def operand (ftz : Bool) (t : Tag) (h : Half) : Val :=
  let f := tagFl t
  unpack f (flushIn ftz f (slotCode t h))

/-- A float result in a slot. -/
def result (ftz : Bool) (rm : Rm) (t : Tag) (r : Val × Flags) : Half × Flags :=
  let f := tagFl t
  let (b, fl) := flushOut ftz f (finishV f rm r)
  (codeSlot t b, fl)

/-- The binary arithmetic functions of R150. -/
inductive BinOp | add | sub | mul | div | min | max
deriving DecidableEq, Repr

/-- A binary integer element of result tag t (R150). -/
def intBin (op : BinOp) (sat : Bool) (t ta tb : Tag) (a b : Half) : Half × Flags :=
  let x := intOf ta a
  let y := intOf tb b
  match op with
  | .add => wrap32 sat t (x + y)
  | .sub => wrap32 sat t (x - y)
  | .mul => wrap32 sat t (x * y)
  | .div => div32 t a b
  | .min => (if y < x then b else a, 0)
  | .max => (if x < y then b else a, 0)

/-- A binary float element of result tag t (R150, R104). -/
def floatBin (op : BinOp) (ftz : Bool) (rm : Rm) (t ta tb : Tag) (a b : Half) : Half × Flags :=
  let x := operand ftz ta a
  let y := operand ftz tb b
  result ftz rm t (match op with
    | .add => addV rm x y
    | .sub => addV rm x y.negate
    | .mul => mulV x y
    | .div => divV x y
    | .min => minMaxV false x y
    | .max => minMaxV true x y)

/-- An element of a binary arithmetic function by its row. -/
def elemBin (op : BinOp) (sat ftz : Bool) (rm : Rm) (row : Row) (ta tb : Tag) (a b : Half) : Half × Flags :=
  match row with
  | .int t => intBin op sat t ta tb a b
  | .ixs => intBin op sat .ix ta tb a b
  | .float t => floatBin op ftz rm t ta tb a b

/-- An element of fma (a b + d) or fms (a b - d) by its row (R150, R104). -/
def elemFma (neg ftz : Bool) (rm : Rm) (row : Row) (ta tb td : Tag) (a b d : Half) : Half × Flags :=
  match row with
  | .float t =>
    let z := operand ftz td d
    result ftz rm t (fmaV rm (operand ftz ta a) (operand ftz tb b) (if neg then z.negate else z))
  | _ =>
    let p := intOf ta a * intOf tb b
    (.ofInt 32 (if neg then p - intOf td d else p + intOf td d), 0)

/-- A compare of R154. -/
def elemCmp (cond : VCond) (ftz : Bool) (row : Row) (ta tb : Tag) (a b : Half) : Bool × Flags :=
  match row with
  | .float _ =>
    let x := operand ftz ta a
    let y := operand ftz tb b
    let un := x.isNan || y.isNan
    let sig : Flags := if x.signals || y.signals then Flags.nv else 0
    let ord : Flags := if un then Flags.nv else 0
    match cond with
    | .eq => (x.eq y, sig)
    | .ne => (!(x.eq y), sig)
    | .lt => (x.lt y, ord)
    | .le => (x.le y, ord)
    | .gt => (y.lt x, ord)
    | .ge => (y.le x, ord)
    | .uo => (un, sig)
  | _ =>
    let x := intOf ta a
    let y := intOf tb b
    (match cond with
      | .eq => decide (x = y)
      | .ne => decide (x ≠ y)
      | .lt => decide (x < y)
      | .le => decide (x ≤ y)
      | .gt => decide (y < x)
      | .ge => decide (y ≤ x)
      | .uo => false, 0)

/-- v.abs (R152). -/
def elemAbs (t : Tag) (a : Half) : Half :=
  if t = .s32 then .ofNat 32 a.toInt.natAbs else a &&& 0x7FFFFFFF
/-- v.neg (R152). -/
def elemNeg (t : Tag) (a : Half) : Half := if t = .s32 then -a else a ^^^ 0x80000000

/-- v.cvt (R153). -/
def elemCvt (ftz : Bool) (rm : Rm) (src dst : Tag) (a : Half) : Half × Flags :=
  if src = dst then (a, 0)
  else match Tag.isInt src, Tag.isInt dst with
    | true, true => wrap32 true dst (intOf src a)
    | true, false => result false rm dst (ofInt (intOf src a), 0)
    | false, true =>
      let (v, fl) := toIntV rm (tagRange dst).1 (tagRange dst).2 (operand ftz src a)
      (.ofInt 32 v, fl)
    | false, false => result ftz rm dst (operand ftz src a, 0)

/-- A 32-bit FP32 addition in RNE with subnormals kept, the flags dropped (R257, R260). -/
def addF32 (old new : Half) : Half :=
  .ofNat 32 (finishV Fl.f32 .rne (addV .rne (unpack Fl.f32 old.toNat) (unpack Fl.f32 new.toNat))).1

/-- A slot's value as FP32: a BF16 element is bits 31:16, widened exactly (R88, R106). -/
def bfSlot (t : Tag) (h : Half) : Half := if t = .bf16 then h &&& 0xFFFF0000 else h

/-- min or max of FP32 codes by R90, the flags dropped (R260, R308). -/
def minMaxF32 (max : Bool) (a b : Half) : Half :=
  .ofNat 32 (finishV Fl.f32 .rne (minMaxV max (unpack Fl.f32 a.toNat) (unpack Fl.f32 b.toNat))).1

/-! ## Reduction trees (R106) -/

/-- One level of the tree over pairs of positions. -/
def treeLevel (op : Half → Half → Half × Flags) : List (Option Half) → List (Option Half) × Flags
  | x :: y :: rest =>
    let (t, fl) := treeLevel op rest
    match x, y with
    | none, y => (y :: t, fl)
    | x, none => (x :: t, fl)
    | some a, some b =>
      let (v, f) := op a b
      (some v :: t, f ||| fl)
  | _ => ([], 0)

/-- n levels of the tree over a row of 2^n positions: its value and the flags raised. -/
def treeValue (op : Half → Half → Half × Flags) : Nat → List (Option Half) → Option Half × Flags
  | 0, l => (l.headD none, 0)
  | n + 1, l =>
    let (t, fl) := treeLevel op l
    let (v, f) := treeValue op n t
    (v, fl ||| f)

/-- The reductions of R161. -/
inductive RedOp | sum | max | min | and | or
deriving DecidableEq, Repr

/-- The result tag of a reduction (R59). -/
def redTag (op : RedOp) (t : Tag) : Option Tag :=
  match op with
  | .and | .or => if Tag.isInt t then some t else none
  | _ => match t with
    | .s32 => some .s32
    | .n32 => some .n32
    | .fp32 | .bf16 => some .fp32
    | _ => none

/-- The combination of two values of a reduction with result tag t (R161, R106). -/
def redOp (op : RedOp) (ftz : Bool) (rm : Rm) (t : Tag) (a b : Half) : Half × Flags :=
  match op with
  | .and => (a &&& b, 0)
  | .or => (a ||| b, 0)
  | .sum => if t = .fp32 then floatBin .add ftz rm t t t a b else (a + b, 0)
  | .max => if t = .fp32 then floatBin .max ftz rm t t t a b else intBin .max false t t t a b
  | .min => if t = .fp32 then floatBin .min ftz rm t t t a b else intBin .min false t t t a b

end Sys2Proof.Machine
end

