-- ==== Sys2Proof/Machine/Operands.lean ====
section
/-!
DEFINITION. Operands.lean: how an instruction runs over the elements of its strip: what it took at issue
(spec/06_vector.md R144, R146), reading protected slots (R147, R148, R170), the element template (R149), element
addresses (R163), element accesses with their batch records (R166, R253, R256), and where an instruction that meets a
condition stops (spec/01_machine.md R24, R34, spec/16_events.md R385).
-/

namespace Sys2Proof.Machine

/-- A condition met at an element, with the trap value R366 gives it. -/
structure Hit where
  cond : Cond
  tval : Nat
deriving DecidableEq, Repr

/-- What an instruction took at issue; one that resumes has it saved (R26, R146), and one that comes from the queue finds
the tags and the tile configuration that the instructions before it leave (R287, R216). DEDUCED (log 24): the strip length
is the one that now holds, which an instruction before it may have shortened (R24) or the supervisor written (R365). -/
def State.issued (s : State) (n a b d : Nat) : Issue :=
  let c := s.coreAt n
  match c.resume with
  | some is =>
    let is := { is with n := c.strip.len.toNat }
    if is.queued then
      let t := s.takes n a b d
      { is with ta := t.ta, tb := t.tb, td := t.td, cfg := t.cfg, queued := false }
    else is
  | none => s.takes n a b d

/-- A core's instruction goes on after a stop: what it is charged at issue has been charged (R26, R346). -/
def Core.resumes (c : Core) : Bool := match c.resume with
  | some is => !is.queued
  | none => false

/-! ## Protected slots (R147, R148, R170) -/

/-- A register that an instruction reads: file 0 v, 1 k, 2 and 3 the lo and hi of q; elements lo to hi - 1. -/
structure Reads where
  file : Nat
  reg : Nat
  lo : Nat
  hi : Nat
deriving DecidableEq, Repr

/-- A read touches a failing slot of the cluster's lanes. -/
def Core.touches (c : Core) (r : Reads) (b : BadSlot) : Bool :=
  let g := c.ident.lanes
  let p := b.lane - c.ident.base
  let within (t : Nat) : Bool := decide (r.lo ≤ g * t + p) && decide (g * t + p < r.hi)
  decide (b.file = r.file) && decide (b.reg = r.reg) && decide (c.ident.base ≤ b.lane) &&
  decide (b.lane < c.ident.base + g) &&
  (if r.file = 1 then (List.range 16).any within else within b.slot)

/-- Reading registers: single failing slots are rebuilt and counted; with two in a group nothing is read and the
instruction traps. DESIGN CHOICE (log 16): it traps where a slot it reads is one of the two; a group of which it reads good
slots only does not stop it. -/
def State.readSlots (s : State) (n : Nat) (reads : List Reads) : State × Bool :=
  let cl := clusterOf n
  match (s.clusterAt cl).badSlots with
  | [] => (s, true)
  | l =>
    let hit := l.filter fun b => reads.any fun r => (s.coreAt n).touches r b
    if hit.any fun b => decide (1 < (groupOf l b).length) then (s.detectReg n, false)
    else
      let s := s.updClusterAt cl fun k => { k with badSlots := l.filter fun b => !hit.contains b }
      (if hit.isEmpty then s else s.countCluster cl 9 hit.length, true)

/-- Elements written by a core rewrite a slot whole: its own element, or the 16 elements of a mask slot (R141, R170). -/
def Core.rewrites (c : Core) (ks : List Nat) (b : BadSlot) : Bool :=
  let g := c.ident.lanes
  let p := b.lane - c.ident.base
  decide (c.ident.base ≤ b.lane) && decide (b.lane < c.ident.base + g) &&
  (if b.file = 1 then (List.range 16).all fun t => ks.contains (g * t + p) else ks.contains (g * b.slot + p))

/-- Failing slots that an instruction writes without reading them are good again (R148). -/
def State.rewriteSlots (s : State) (n : Nat) (i : Instr) (ks : List Nat) : State :=
  match (s.clusterAt (clusterOf n)).badSlots with
  | [] => s
  | l => s.updClusterAt (clusterOf n) fun k => { k with badSlots := l.filter fun b =>
      !((slotWrites i).contains (b.file, b.reg) && (s.coreAt n).rewrites ks b) }

/-- A mask operand's read; k0 is not held in slots. -/
def maskRead (km n : Nat) : List Reads := if km = 0 then [] else [⟨1, km, 0, n⟩]
/-- A whole vector operand below a length. -/
def vecRead (r n : Nat) : Reads := ⟨0, r, 0, n⟩
/-- A whole interval operand below a length. -/
def pairRead (r n : Nat) : List Reads := [⟨2, r, 0, n⟩, ⟨3, r, 0, n⟩]

/-! ## Where an instruction stops (R24, R34, R131, R385) -/

/-- The stop of an instruction of length n: the one found, or a pending pre-emption's row when that is lower. -/
def Core.cut (c : Core) (n : Nat) (found : Option (Nat × Hit)) : Option (Nat × Hit) :=
  match c.preempt.bind fun p => p.bound, found with
  | some b, some (j, h) => if b < j then some (b, ⟨.preempt, 0⟩) else some (j, h)
  | some b, none => if b < n then some (b, ⟨.preempt, 0⟩) else none
  | none, f => f

/-- A stop position moved down to its granule, and on a hart to its row in length-agnostic mode (R131, R149). -/
def Core.moved (c : Core) (j : Nat) : Nat :=
  let g := c.strip.gran * (j / c.strip.gran)
  if c.la && !(c.ident.hidx == 8) then 32 * (g / 32) else g

/-- What a strip instruction comes to: every element performed; the launch ended at a moved position with a STATUS; or
a stop at a moved position. -/
inductive Verdict | all | dies (e status : Nat) | stops (out : StopOut) (e : Nat) (h : Hit)
deriving DecidableEq, Repr

/-- The number of elements performed. -/
def Verdict.pos (n : Nat) : Verdict → Nat
  | .all => n
  | .dies e _ => e
  | .stops _ e _ => e

/-- An element that fails as it performs has been found, where a word that cannot be corrected ends the launch (R402). -/
def Verdict.finds (v : Verdict) (f : Nat × Hit) (k : Nat) : Bool := match v, f.2.cond with
  | .dies _ _, .uncorrectable => k == f.1
  | _, _ => false

/-- The verdict on an instruction of length n of a core. -/
def State.verdict (s : State) (core n : Nat) (found : Option (Nat × Hit)) : Verdict :=
  let c := s.coreAt core
  match c.cut n found with
  | none => .all
  | some (j, h) =>
    let e := c.moved j
    match s.fate core h.cond with
    | .kill st => .dies e st
    | .stop cond => .stops (stopOut e c.strip.floor.toNat) e ⟨cond, h.tval⟩

/-- The end of a strip instruction: `stop_at`, then `commit` where the instruction raises the floor (R24, R27, R253).
lead is the state a lead trap leaves, done the one with the elements below the position performed. -/
def conclude (core : Nat) (is : Issue) (lead done : State) (v : Verdict) (commits fq : Bool) (leadBit : Nat) : Done :=
  let commit (s : State) (e : Nat) : State := if commits then s.commit core e else s
  match v with
  | .all => .retire (commit done is.n)
  | .dies _ st => .kill done st
  | .stops .lead _ h => .lead lead h.cond.code (h.tval ||| leadBit)
  | .stops .tail e h => .tail (commit (done.markTail core e h.cond.code fq) e) e h.cond.code h.tval is
  | .stops .short e h => .retire (commit (done.shorten core e h.cond.code fq) e)

/-! ## Element-wise instructions (R149) -/

/-- The loop of R149 over k elements from i on: the results of the selected elements below the first that meets a
condition, and that element. -/
def scan (sel : Nat → Bool) (op : Nat → Except Hit α) : Nat → Nat → List (Nat × α) × Option (Nat × Hit)
  | 0, _ => ([], none)
  | k + 1, i =>
    if sel i then match op i with
      | .error h => ([], some (i, h))
      | .ok r =>
        let (l, st) := scan sel op k (i + 1)
        ((i, r) :: l, st)
    else scan sel op k (i + 1)

/-- A result whose flags meet no stop bit, or the arithmetic condition (R85, R150). -/
def Core.arith (c : Core) (r : α × Flags) : Except Hit (α × Flags) :=
  if r.2 &&& c.stopMask = 0 then .ok r else .error ⟨.arithmetic r.2, r.2.toNat⟩

/-- The flags of a list of results. -/
def flagsOf (l : List (Nat × α × Flags)) : Flags := l.foldl (fun f e => f ||| e.2.2) 0

/-- An element-wise instruction: op gives element i with its flags, write puts results into the core. DESIGN CHOICE (log
16): one that resumes reads the slots of its elements from 0 on again, those below its progress index too. -/
def elements (i : Instr) (s : State) (is : Issue) (reads : List Reads) (sel : Core → Nat → Bool)
    (op : Core → Nat → α × Flags) (write : List (Nat × α) → Core → Core) : Done :=
  let n := s.cur
  match s.readSlots n reads with
  | (s, false) => leadWord s i 15
  | (s, true) =>
    let c := s.coreAt n
    let (vals, found) := scan (sel c) (fun k => c.arith (op c k)) (is.n - is.start) is.start
    let v := s.verdict n is.n found
    let kept := vals.filter fun e => e.1 < v.pos is.n
    let done := (s.rewriteSlots n i (kept.map fun e => e.1)).updCoreAt n fun c =>
      (write (kept.map fun e => (e.1, e.2.1)) c).raise (flagsOf kept)
    conclude n is s done v false false 0

/-- Results written to a vector register with its tag (R144). -/
def writeVec (d : Nat) (t : Tag) (vals : List (Nat × Half)) (c : Core) : Core := (c.setElems d vals).setTag d t

/-- A register-only instruction that is never split: it performs the elements below a pre-emption's row, or all
(R156, R174); wrote gives the elements it then writes. -/
def unsplit (i : Instr) (s : State) (is : Issue) (reads : List Reads) (wrote : Nat → Core → List Nat)
    (perform : Nat → Core → Core) : Done :=
  let n := s.cur
  match s.readSlots n reads with
  | (s, false) => leadWord s i 15
  | (s, true) =>
    let v := s.verdict n is.n none
    let e := v.pos is.n
    conclude n is s ((s.rewriteSlots n i (wrote e (s.coreAt n))).updCoreAt n (perform e)) v false false 0

/-! ## Element accesses -/

/-- An element of memory: the bytes its access covers, its alignment, and the place of its code in them. -/
structure Elem where
  addr : Nat
  span : Nat
  align : Nat
  shift : Nat
  bits : Nat
deriving DecidableEq, Repr

/-- An element of a format at an address of its own. -/
def elemAt (f : Fmt) (addr : Nat) : Elem := ⟨addr % 2 ^ 64, Fmt.span f, Fmt.align f, 0, Fmt.bits f⟩

/-- Element i of an array of a format at a base (R163, R94, R98). -/
def elemOf (f : Fmt) (base i : Nat) : Elem :=
  match f with
  | .t6 => ⟨(base + 3 * (i / 4)) % 2 ^ 64, 3, 1, 6 * (i % 4), 6⟩
  | .e2m1 => ⟨(base + i / 2) % 2 ^ 64, 1, 1, 4 * (i % 2), 4⟩
  | f => elemAt f (base + i * Fmt.bytes f)

/-- An interval element at an address (R209, R254). -/
def pairAt (addr : Nat) : Elem := ⟨addr % 2 ^ 64, 8, 8, 0, 64⟩

/-- base + i stride, the stride a signed 64-bit value (R163). -/
def stridedAddr (base : Word) (stride : Word) (i : Nat) : Nat := (base + .ofNat 64 i * stride).toNat

/-- The code of an element in the number its bytes make. -/
def Elem.code (e : Elem) (v : Nat) : Nat := v / 2 ^ e.shift % 2 ^ e.bits
/-- The number with an element's code replaced. -/
def Elem.put (e : Elem) (old code : Nat) : Nat :=
  old - e.code old * 2 ^ e.shift + code % 2 ^ e.bits * 2 ^ e.shift

/-- An element checked and located (R164, R248). -/
def State.checkElem (s : State) (w : Who) (k : Acc) (e : Elem) : State × Except Hit (Elem × Loc) :=
  match locate s w k e.addr e.span e.align with
  | (s, .error c) => (s, .error ⟨c, e.addr⟩)
  | (s, .ok loc) => (s, .ok (e, loc))

/-- An element read. -/
def State.loadElem (s : State) (w : Who) (x : Elem × Loc) : State × Except Hit Nat :=
  match s.loadLoc w x.2 x.1.span with
  | (s, .error c) => (s, .error ⟨c, x.1.addr⟩)
  | (s, .ok v) => (s, .ok (x.1.code v))

/-- An element written; one that does not fill its bytes keeps the rest (R250). -/
def State.storeElem (s : State) (w : Who) (x : Elem × Loc) (code : Nat) : State × Except Hit Unit :=
  let e := x.1
  let store (s : State) (v : Nat) : State × Except Hit Unit :=
    match s.storeLoc w e.addr x.2 e.span v with
    | (s, .error c) => (s, .error ⟨c, e.addr⟩)
    | (s, .ok _) => (s, .ok ())
  if e.bits = 8 * e.span then store s code
  else match s.loadLoc w x.2 e.span with
    | (s, .error c) => (s, .error ⟨c, e.addr⟩)
    | (s, .ok old) => store s (e.put old code)

/-- An attempt to write that fails leaves no byte behind: memory is as it was before it. -/
def State.keepsMem (s t : State) : State := { t with mem := s.mem }

/-- An element's read-modify-write; its old code is the result. An I/O page meets permission (R248). -/
def State.modifyElem (s : State) (w : Who) (x : Elem × Loc) (f : Nat → Nat) : State × Except Hit Nat :=
  match s.loadElem w x with
  | (s, .error h) => (s, .error h)
  | (s, .ok old) => match s.storeElem w x (f old) with
    | (s, .error h) => (s, .error h)
    | (s, .ok _) => (s, .ok old)

/-- The loop of R149 over checks that change the state: stops at the first condition. -/
def checks (sel : Nat → Bool) (chk : State → Nat → State × Except Hit α) :
    Nat → Nat → State → State × List (Nat × α) × Option (Nat × Hit)
  | 0, _, s => (s, [], none)
  | k + 1, i, s =>
    if sel i then match chk s i with
      | (s, .error h) => (s, [], some (i, h))
      | (s, .ok a) =>
        let (s, l, st) := checks sel chk k (i + 1) s
        (s, (i, a) :: l, st)
    else checks sel chk k (i + 1) s

/-- Addresses in ascending order without repeats. -/
def sortedInsert (a : Nat) : List Nat → List Nat
  | [] => [a]
  | x :: xs => if a < x then a :: x :: xs else if a = x then x :: xs else x :: sortedInsert a xs
def sortedSet (l : List Nat) : List Nat := l.foldl (fun acc a => sortedInsert a acc) []

/-- The pages that an element's bytes lie on. -/
def Elem.pages (e : Elem) : List Nat := sortedSet [pageOf e.addr, pageOf ((e.addr + e.span - 1) % 2 ^ 64)]

/-- The pages not present of an element that meets a condition (R166): of one not present, those that the walk found so;
one that is misaligned is translated too, so that a gather or scatter records it. -/
def State.elemAbsent (s : State) (w : Who) (k : Acc) (e : Elem) : Cond → State × List Nat
  | .notPresent => (s, e.pages.filter fun p => s.pageAbsent w k p)
  | .misaligned => e.pages.foldl (fun r page =>
      match locateBlock r.1 w k page 1 with
      | (s, .error .notPresent) => (s, r.2 ++ [page])
      | (s, _) => (s, r.2)) (s, [])
  | _ => (s, [])

/-- Every selected element checked, as a gather or scatter does (R166, R256): those below the first condition, that
condition, and the elements on pages not present, as pages finds them for one that fails. -/
def checksAll (sel : Nat → Bool) (chk : State → Nat → State × Except Hit α)
    (pages : State → Nat → Hit → State × List Nat) :
    Nat → Nat → State → State × List (Nat × α) × Option (Nat × Hit) × List (Nat × Nat)
  | 0, _, s => (s, [], none, [])
  | k + 1, i, s =>
    if sel i then match chk s i with
      | (s, .error h) =>
        let (s, absent) := pages s i h
        let (s, _, _, miss) := checksAll sel chk pages k (i + 1) s
        (s, [], some (i, h), absent.map (fun p => (i, p)) ++ miss)
      | (s, .ok a) =>
        let (s, l, st, miss) := checksAll sel chk pages k (i + 1) s
        (s, (i, a) :: l, st, miss)
    else checksAll sel chk pages k (i + 1) s

/-- Elements performed in ascending order, up to one that fails. -/
def performs (act : State → Nat → α → State × Except Hit β) :
    List (Nat × α) → State → State × List (Nat × β) × Option (Nat × Hit)
  | [], s => (s, [], none)
  | (i, a) :: t, s => match act s i a with
    | (s, .error h) => (s, [], some (i, h))
    | (s, .ok b) =>
      let (s, l, st) := performs act t s
      (s, (i, b) :: l, st)

/-- OUT of a fault record (R313). -/
def outCode : StopOut → Nat
  | .short => 1
  | .lead => 2
  | .tail => 3

/-- The batch record of a gather or scatter, with whether it was written (R166, R256, R313). -/
def State.postBatch (s : State) (core kind n : Nat) (out : StopOut) (cause j : Nat) (miss : List (Nat × Nat)) :
    State × Bool :=
  if miss.isEmpty || !s.demand core then (s, false)
  else
    let c := s.coreAt core
    s.postFault ⟨kind, cause, outCode out, core, c.ident.asid.toNat, c.ident.regid.toNat, j, c.pc, n,
      sortedSet (miss.map fun e => e.1), sortedSet (miss.map fun e => e.2)⟩

/-- What checking the elements of an access found: those located below the first condition, and that condition. -/
structure Located (α : Type) where
  s : State
  elems : List (Nat × α)
  found : Option (Nat × Hit)

/-- A record posted with a stop: from the outcome, the cause and the lowest failing element, whether it was written. -/
abbrev Post := State → StopOut → Nat → Nat → State × Bool

/-- No record. -/
def noPost : Post := fun s _ _ _ => (s, false)

/-- The rest of a memory instruction once its elements are located: those below the moved position are performed in
ascending order, after puts what they gave into the core. An element that fails when it performs is a stop of its own;
then only the elements below its moved position are performed, and one that ends the launch by a word that cannot be
corrected has found it. mark is the bit a lead trap's value has for a written record (R366). -/
def accesses (core : Nat) (is : Issue) (loc : Located α) (perform : List (Nat × α) → State →
    State × List (Nat × β) × Option (Nat × Hit)) (after : Nat → List (Nat × β) → State → State)
    (commits : List (Nat × α) → Bool) (post : Post) (mark : Nat) : Done :=
  let s := loc.s
  let ends (v : Verdict) (j : Nat) (kept : List (Nat × α)) (r : State × List (Nat × β) × Option (Nat × Hit)) : Done :=
    let is := { is with io := is.io || commits kept }
    match v with
    | .dies _ st => .kill r.1 st
    | .all => conclude core is r.1 (after is.n r.2.1 r.1) v is.io false 0
    | .stops out e h =>
      let (t, fq) := post r.1 out h.cond.code j
      conclude core is t (after e r.2.1 t) v is.io fq (if fq then mark else 0)
  let v := s.verdict core is.n loc.found
  let kept := loc.elems.filter fun e => e.1 < v.pos is.n
  let r := perform kept s
  match r.2.2 with
  | none => ends v ((loc.found.map fun f => f.1).getD (v.pos is.n)) kept r
  | some f =>
    let v := s.verdict core is.n (some f)
    ends v f.1 (kept.filter fun x => x.1 < v.pos is.n)
      (perform (kept.filter fun x => x.1 < v.pos is.n || v.finds f x.1) s)

/-- A load's elements: the lines of the L1D they lie in are dropped on P0 (R247). -/
def State.p0Load (s : State) (core : Nat) (w : Who) (x : Elem × Loc) : State × Except Hit Nat :=
  (s.updCoreAt core fun c => c.dropRuns x.2.runs).loadElem w x

/-- Some element lies on an I/O page. -/
def anyIo (l : List (Nat × Elem × Loc)) : Bool := l.any fun e => e.2.2.isIo

/-- A unit or strided load (R164): elem gives element i, write puts the codes into the core. -/
def loadStrip (i : Instr) (s : State) (is : Issue) (km : Nat) (elem : Nat → Elem)
    (write : List (Nat × Nat) → Core → Core) : Done :=
  let n := s.cur
  match s.readSlots n (maskRead km is.n) with
  | (s, false) => leadWord s i 15
  | (s, true) =>
    let w := s.who n
    let (s, l, f) := checks ((s.coreAt n).mask km) (fun s k => s.checkElem w .read (elem k)) (is.n - is.start)
      is.start s
    accesses n is ⟨s, l, f⟩ (performs fun s _ x => s.p0Load n w x)
      (fun _ vals s => (s.rewriteSlots n i (vals.map fun v => v.1)).updCoreAt n (write vals)) anyIo noPost 0

/-- An element's code lies over a bit of the byte at a key. -/
def coversBit (x : Elem × Loc) (k b : Nat) : Bool := (runKeys x.2.runs).zipIdx.any fun r =>
  decide (r.1 = k) && decide (x.1.shift ≤ 8 * r.2 + b) && decide (8 * r.2 + b < x.1.shift + x.1.bits)

/-- A scratchpad word that one window of 64 elements, of those below lim, writes whole in one access (R240); words of
other memories have no such windows. -/
def wholeIn (l : List (Nat × Elem × Loc)) (lim w : Nat) : Bool := (scratchOf (w * 16)).isSome &&
  (List.range 64).any fun m =>
    let window := l.filter fun e => decide (e.1 < lim) && decide (e.1 / 64 = m)
    (List.range 128).all fun b => window.any fun e => coversBit e.2 (w * 16 + b / 8) (b % 8)

/-- The first of some elements that writes a part of a bad word: those from it on are not written (R402). -/
def writeLimit (bad : List Nat) (l : List (Nat × Elem × Loc)) : Nat → Nat → Nat
  | 0, lim => lim
  | k + 1, lim => match l.find? fun e => decide (e.1 < lim) && bad.any fun w => !wholeIn l lim w &&
      e.2.2.runs.any fun r => decide (w * 16 < r.1 + r.2) && decide (r.1 < w * 16 + 16) with
    | some e => writeLimit bad l k e.1
    | none => lim

/-- Words that one window of 64 elements to be performed rewrites whole are rewritten without being read and are good again,
where no element below meets a bad word (R240, R403). -/
def State.windowRepair (s : State) (l : List (Nat × Elem × Loc)) : State :=
  match s.hub.badWords, s.hub.softWords with
  | [], [] => s
  | bad, soft =>
    let lim := writeLimit bad l (bad.length + 1) 4096
    s.updHub fun h => { h with badWords := bad.filter fun w => !wholeIn l lim w
                               softWords := soft.filter fun w => !wholeIn l lim w }

/-- A store's element on P0: the line it writes leaves the core's own L1D (R270). -/
def State.p0Store (s : State) (core : Nat) (w : Who) (x : Elem × Loc) (code : Nat) : State × Except Hit Unit :=
  match s.storeElem w x code with
  | (s, .error h) => (s, .error h)
  | (s, .ok _) => (s.updCoreAt core fun c => c.dropRuns x.2.runs, .ok ())

/-- A unit or strided store (R253): elem gives element i, code its narrowed value. -/
def storeStrip (i : Instr) (s : State) (is : Issue) (km : Nat) (reads : List Reads) (elem : Nat → Elem)
    (code : Core → Nat → Nat) : Done :=
  let n := s.cur
  match s.readSlots n (reads ++ maskRead km is.n) with
  | (s, false) => leadWord s i 15
  | (s, true) =>
    let w := s.who n
    let c := s.coreAt n
    let (s, l, f) := checks (c.mask km) (fun s k => s.checkElem w .write (elem k)) (is.n - is.start) is.start s
    accesses n is ⟨s, l, f⟩ (fun l s => performs (fun s k x => s.p0Store n w x (code c k)) l (s.windowRepair l))
      (fun _ _ s => s) (fun _ => true) noPost 0

/-! ## Gathers and scatters (R166, R246, R256) -/

/-- One gather command of a region's budget, or none left (R346). -/
def State.budgeted (s : State) (core k amount : Nat) : Option State :=
  match s.launchOf core, s.partOf core with
  | some r, some p => if s.budgetLeft p r.regid k then some (s.charge p r.regid k amount) else none
  | _, _ => some s

/-- An element lies in device memory. -/
def inDevice (x : Elem × Loc) : Bool := x.2.runs.any fun r => decide (r.1 < deviceTop)

/-- An indexed memory instruction: checked whole, sent as a broadcast where an element lies in device memory, performed
below the moved position. rmw says that an I/O page meets permission. -/
def indexed (i : Instr) (s : State) (is : Issue) (km kind : Nat) (acc : Acc) (rmw : Bool) (reads : List Reads)
    (elem : Core → Nat → Elem) (act : Core → State → Nat → Elem × Loc → State × Except Hit β)
    (after : Nat → List (Nat × β) → State → State) (commits : List (Nat × Elem × Loc) → Bool) : Done :=
  let n := s.cur
  match s.readSlots n (reads ++ maskRead km is.n) with
  | (s, false) => leadWord s i 15
  | (s, true) =>
    match (if (s.coreAt n).resumes then some s else s.budgeted n 4 1) with
    | none => .wait s .budget
    | some s =>
      let w := s.who n
      let c := s.coreAt n
      let chk (s : State) (k : Nat) : State × Except Hit (Elem × Loc) :=
        match s.checkElem w acc (elem c k) with
        | (s, .ok x) => if rmw && x.2.isIo then (s, .error ⟨.permission, x.1.addr⟩) else (s, .ok x)
        | r => r
      let pages (s : State) (k : Nat) (h : Hit) : State × List Nat := s.elemAbsent w acc (elem c k) h.cond
      let (s, l, f, miss) := checksAll (c.mask km) chk pages (is.n - is.start) is.start s
      let low := l.filter fun e => e.1 < (s.verdict n is.n f).pos is.n
      let s := if (low.any fun e => inDevice e.2) then s.countCluster (clusterOf n) 8 1 else s
      accesses n is ⟨s, l, f⟩
        (fun l s => performs (act c) l (if acc = .write && !rmw then s.windowRepair l else s))
        (fun e vals s => after e vals (s.rewriteSlots n i (vals.map fun v => v.1))) commits
        (fun s out cause j => s.postBatch n kind is.n out cause j miss) (2 ^ 63)

/-- The address of an indexed element: x[a] + b[i] size (R163, R252, R260). -/
def indexedAddr (base : Word) (c : Core) (b i size : Nat) : Nat := base.toNat + (c.elem b i).toNat * size

end Sys2Proof.Machine
end

