-- ==== Sys2Proof/Machine/Engine.lean ====
section
/-!
DEFINITION. Engine.lean: engine commands: blocks, layout programs, conversions, the range checker, starts and ends,
the e instructions (spec/12_queues.md R298 to R309), the fabric and port compression (spec/17_outside.md R393 to R395).
-/

namespace Sys2Proof.Machine

/-! ## Layout programs (R302) -/

/-- The product of a shape. -/
def shapeSize (l : List Nat) : Nat := l.foldl (· * ·) 1

/-- The index of a linear position, dimension 0 fastest, and back. -/
def unravel : List Nat → Nat → List Nat
  | [], _ => []
  | n :: ns, e => e % n :: unravel ns (e / n)
def ravel : List Nat → List Nat → Nat
  | n :: ns, j :: js => j + n * ravel ns js
  | _, _ => 0

/-- Dimension k of the permutation byte P. -/
def permDim (p k : Nat) : Nat := p / 4 ^ k % 4

/-- The bytes a step does not use are 0, and its dimension numbers are dimensions. -/
def LStep.fieldsOk (s : LStep) : Bool :=
  let uses (ab b p v0 v1 v2 : Bool) : Bool :=
    (ab || s.a == 0) && (b || s.b == 0) && (p || s.p == 0) && (v0 || s.v0 == 0) && (v1 || s.v1 == 0) && (v2 || s.v2 == 0)
  decide (s.a ≤ 3) && decide (s.b ≤ 3) &&
  (match s.op with
    | 1 => uses false false false true true true
    | 2 => uses false false true false false false
    | 3 => uses true true false true false false
    | 4 => uses true false false true true false
    | 5 => uses true false false true true true
    | 6 => uses true true false false false false
    | _ => false)

/-- The shape a step makes, or none where its conditions fail. -/
def LStep.shape (s : LStep) (sh : List Nat) : Option (List Nat) :=
  let n (k : Nat) : Nat := sh.getD k 0
  if !s.fieldsOk then none
  else match s.op with
    | 1 =>
      let p := s.v0 * s.v1 * s.v2.toNat
      if p = 0 || shapeSize sh % p ≠ 0 then none else some [s.v0, s.v1, s.v2.toNat, shapeSize sh / p]
    | 2 =>
      let dims := (List.range 4).map (permDim s.p)
      if dims.eraseDups.length = 4 then some (dims.map n) else none
    | 3 =>
      if s.a = s.b || n s.b ≠ 1 || s.v0 = 0 || n s.a % s.v0 ≠ 0 then none
      else some ((sh.set s.a s.v0).set s.b (n s.a / s.v0))
    | 4 => some (sh.set s.a (s.v0 + n s.a + s.v1))
    | 5 =>
      let last : Int := s.v0 + ((s.v1 - 1 : Nat) : Int) * s.v2
      if s.v1 = 0 || (decide (s.v0 < n s.a) && decide (0 ≤ last) && decide (last < n s.a)) then some (sh.set s.a s.v1)
      else none
    | _ => if s.a = s.b then none else some ((sh.set s.a (n s.a * n s.b)).set s.b 1)

/-- The old index that feeds an index of the new shape; none is PAD. -/
def LStep.source (s : LStep) (old new j : List Nat) : Option (List Nat) :=
  let at_ (k : Nat) : Nat := j.getD k 0
  match s.op with
  | 1 => some (unravel old (ravel new j))
  | 2 => some ((List.range 4).map fun d => at_ (((List.range 4).find? fun k => permDim s.p k == d).getD 0))
  | 3 => some ((j.set s.a (at_ s.a + s.v0 * at_ s.b)).set s.b 0)
  | 4 => if at_ s.a < s.v0 || s.v0 + old.getD s.a 0 ≤ at_ s.a then none else some (j.set s.a (at_ s.a - s.v0))
  | 5 => some (j.set s.a ((s.v0 : Int) + (at_ s.a : Int) * s.v2).toNat)
  | _ => some ((j.set s.a (at_ s.a % old.getD s.a 1)).set s.b (at_ s.a / old.getD s.a 1))

/-- A layout program worked out: the final shape, and its steps, last first, with the shapes they stand between. -/
structure Layout where
  shape : List Nat
  back : List (LStep × List Nat × List Nat)

/-- The layout of a list of steps from a shape, or none where the block is illegal. -/
def layoutFrom : List LStep → List Nat → List (LStep × List Nat × List Nat) → Option Layout
  | [], sh, acc => some ⟨sh, acc⟩
  | s :: ss, sh, acc => match s.shape sh with
    | none => none
    | some t => if 2 ^ 32 ≤ shapeSize t then none else layoutFrom ss t ((s, sh, t) :: acc)

def Block.layout (b : Block) : Option Layout := layoutFrom b.steps [b.nsrc, 1, 1, 1] []

/-- An index carried back through the steps. -/
def pullBack : List (LStep × List Nat × List Nat) → List Nat → Option (List Nat)
  | [], j => some j
  | (s, old, new) :: rest, j => match s.source old new j with
    | none => none
    | some i => pullBack rest i

/-- The destination elements, and the source element that feeds one. -/
def Layout.length (l : Layout) : Nat := shapeSize l.shape
def Layout.sourceOf (l : Layout) (nsrc e : Nat) : Option Nat :=
  (pullBack l.back (unravel l.shape e)).map (ravel [nsrc, 1, 1, 1])

/-- The destination elements of a block. -/
def Block.count (b : Block) : Nat := match b.layout with
  | some l => l.length
  | none => 0

/-! ## Command blocks (R300, R301, R306 to R308) -/

/-- Step k of a block. -/
def stepOf (b : List Byte) (k : Nat) : LStep :=
  let o := 64 + 16 * k
  ⟨natIn b o 1, natIn b (o + 1) 1, natIn b (o + 2) 1, natIn b (o + 3) 1, natIn b (o + 4) 4, natIn b (o + 8) 4,
    (BitVec.ofNat 32 (natIn b (o + 12) 4)).toInt⟩

/-- The block in 192 bytes. -/
def blockOf (b : List Byte) : Block :=
  let ctl := natIn b 36 4
  { src := .ofNat 64 (natIn b 0 8)
    dst := .ofNat 64 (natIn b 8 8)
    ssca := .ofNat 64 (natIn b 16 8)
    dsca := .ofNat 64 (natIn b 24 8)
    nsrc := natIn b 32 4
    steps := (List.range (ctl / 2 ^ 28)).map (stepOf b)
    push := bitOf ctl 27
    pid := ctl / 2 ^ 22 % 32
    waitt := bitOf ctl 21
    dsc := bitOf ctl 20
    ssc := bitOf ctl 19
    dspace := ctl / 2 ^ 17 % 4
    sspace := ctl / 2 ^ 15 % 4
    op := ctl / 2 ^ 12 % 8
    dfmt := fmtOf (ctl / 2 ^ 8 % 16)
    sfmt := fmtOf (ctl / 2 ^ 4 % 16)
    pad := .ofNat 32 (natIn b 40 4)
    scl := natIn b 44 2
    dcl := natIn b 46 2
    peer := .ofNat 64 (natIn b 48 8) }

/-- A format that may have block scales (R301). -/
def scalable (f : Fmt) : Bool := f == .t8 || f == .t6 || f == .e2m1

/-- The commands of the fabric unit (R298). -/
def CmdKind.fabric : CmdKind → Bool
  | .put | .get | .red => true
  | _ => false

/-- The illegal blocks of R306, with the conditions of R300 to R302, R307 and R308. DESIGN CHOICE (log 28): an OP of 3 to 7 of
an e.red, to which R301 gives no meaning and which R306's list does not name, is illegal. -/
def Block.illegal (k : CmdKind) (bytes : List Byte) (b : Block) : Bool :=
  let ctl := natIn bytes 36 4
  let unused := (bytes.drop (64 + 16 * b.steps.length)).take (128 - 16 * b.steps.length)
  ctl % 16 ≠ 0 || decide (8 < b.steps.length) || b.dspace == 3 || b.sspace == 3 ||
  (b.push && !(decide (17 ≤ b.pid) && decide (b.pid ≤ 25))) ||
  ((b.sfmt == .pk) != (b.dfmt == .pk)) ||
  (b.ssc && !scalable b.sfmt) || (b.dsc && !scalable b.dfmt) || (!b.ssc && b.ssca ≠ 0) || (!b.dsc && b.dsca ≠ 0) ||
  (b.sspace ≠ 2 && b.scl ≠ 0) || (b.dspace ≠ 2 && b.dcl ≠ 0) || (!k.fabric && b.peer ≠ 0) ||
  decide (2 < b.op) || (k ≠ .red && b.op ≠ 0) || unused.any (· ≠ 0) || b.layout.isNone ||
  (k == .wsl && (b.dspace ≠ 0 || b.dsc)) ||
  (k.fabric && (!b.steps.isEmpty || b.ssc || b.dsc || b.sfmt != b.dfmt ||
    (if k = .get then b.sspace else b.dspace) == 1)) ||
  (k == .red && !(b.sfmt == .s32 || b.sfmt == .n32 || b.sfmt == .f32 || b.sfmt == .bf16))

/-- A block that names a masked feature (R52, R306). -/
def Block.maskedBy (k : CmdKind) (b : Block) (masked : Nat → Bool) : Bool :=
  let feat (f : Fmt) : Bool := match Fmt.feature f with
    | some n => masked n
    | none => false
  feat b.sfmt || feat b.dfmt || ((b.ssc || b.dsc) && masked 4) || (k.fabric && masked 5) || (k == .wsl && masked 6)

/-! ## The range checker (R299) -/

/-- A span of scratchpad offsets, both ends in it. -/
abbrev Span := Option (Nat × Nat)

def joinSpan : Span → Span → Span
  | some (a, b), some (c, d) => some (min a c, max b d)
  | none, y => y
  | x, none => x

def spansMeet : Span → Span → Bool
  | some (a, b), some (c, d) => decide (a ≤ d) && decide (c ≤ b)
  | _, _ => false

/-- The part of n bytes in a space that lies in the scratchpad of a cluster: by offset, or through the window. -/
def ownSpan (own space cl base n : Nat) : Span :=
  if n = 0 then none
  else if space = 0 then
    let lo := max base windowBase
    let hi := min (base + n) windowTop
    if lo < hi then some (lo - windowBase, hi - 1 - windowBase) else none
  else if space = 1 || cl = own then some (base, base + n - 1) else none

/-- The bytes of its own scratchpad a command may read, and those it may write, its STATUS among them (R299). DESIGN
CHOICE (log 28): it may read its whole source array, whatever its layout slices or pads. -/
def Cmd.reads (m : Cmd) : Span :=
  let b := m.block
  let own := clusterOf m.core
  if m.kind = .get then none
  else joinSpan (ownSpan own b.sspace b.scl b.src.toNat (Fmt.arrayBytes b.sfmt b.nsrc))
    (if b.ssc then ownSpan own b.sspace b.scl b.ssca.toNat ((b.nsrc + 31) / 32) else none)
def Cmd.writes (m : Cmd) : Span :=
  let b := m.block
  let own := clusterOf m.core
  let status := ownSpan own 0 0 (m.addr.toNat + 56) 8
  if m.kind = .put || m.kind = .red then status
  else joinSpan status (joinSpan (ownSpan own b.dspace b.dcl b.dst.toNat (Fmt.arrayBytes b.dfmt b.count))
    (if b.dsc then ownSpan own b.dspace b.dcl b.dsca.toNat ((b.count + 31) / 32) else none))

/-- A command must wait for one accepted before it. -/
def Cmd.blockedBy (y x : Cmd) : Bool :=
  spansMeet x.writes y.reads || spansMeet x.writes y.writes || spansMeet x.reads y.writes

/-! ## Starts (R299, R301, R346) -/

/-- The amount of a command's budget charge, and its field. -/
def Cmd.charge (m : Cmd) : Nat × Nat :=
  if m.kind.fabric then (2, Fmt.arrayBytes m.block.sfmt m.block.nsrc)
  else (1, Fmt.arrayBytes m.block.dfmt m.block.count)

/-- The command at an index replaced. -/
def State.setCmd (s : State) (cluster idx : Nat) (m : Cmd) : State :=
  s.updClusterAt cluster fun c => { c with cmds := c.cmds.set idx m }

/-- The pop of FIFO 16 has a token. -/
def State.hasStartToken (s : State) (m : Cmd) : Bool := !m.block.waitt || decide (0 < s.fifoCount m.core 16)

/-- An earlier command of the crew that was saved before it completed is in the way of a command (R299, R305). -/
def State.savedBlocks (s : State) (m : Cmd) : Bool := match s.regionAt m.part m.regid with
  | some r => r.saved.any fun c => decide (c.crew = (s.coreAt m.core).ident.crew.toNat) &&
      c.cmds.any fun x => decide (x.order < m.order) && m.blockedBy x
  | none => false

/-- R299: the row of a command's start: no earlier command is in its way, its pop has a token, and its budget is not
spent. A command that has started stays as it is (R305); one of a stopped partition does not start (R387). -/
def execEngineCommandStart (cluster : Nat) (idx : Nat) (s : State) : Host.Outcome State Fault Refusal :=
  let q := (s.clusterAt cluster).cmds
  .next (match q[idx]? with
    | none => s
    | some m =>
      if m.started || (q.take idx).any m.blockedBy || s.savedBlocks m || !s.hasStartToken m ||
        (s.partAt m.part).stopped then s
      else if !s.budgetLeft m.part m.regid m.charge.1 then s.stall m.core 13
      else
        let s := if m.block.waitt then s.setFifo m.core 16 (s.fifoCount m.core 16 - 1) else s
        (s.charge m.part m.regid m.charge.1 m.charge.2).setCmd cluster idx { m with started := true })

/-! ## Elements (R301, R303, R304, R307) -/

/-- A cluster holds a crew of the command's launch. -/
def State.holdsCrew (s : State) (m : Cmd) (cluster : Nat) : Bool :=
  decide (cluster < 800) && s.partOf (9 * cluster) == some m.part && !(s.crewOn cluster m.regid).isEmpty

/-- An element whose address, for a store's invalidations (R232), is the one its bytes have in the cluster: those of
another cluster's scratchpad have none. -/
def Elem.inScratch (e : Elem) (own cluster : Nat) : Elem :=
  { e with addr := if cluster = own then windowBase + e.addr else 2 ^ 64 }

/-- The identity of a command's accesses: its core's, made by the copy engine, or by the die's fabric unit (R326). -/
def State.engineWho (s : State) (m : Cmd) : Who :=
  { s.who m.core with unit := if m.kind.fabric then .device else .engine }

/-- Every byte of a location lies in a weight store whose write window is open (R307). -/
def State.inOpenWindow (s : State) (loc : Loc) : Bool := loc.runs.all fun r => match spaceOf r.1 with
  | some (.weight d) => s.hub.windows.get false d
  | _ => false

/-- An element of a command checked and located in its space. -/
def State.copyLoc (s : State) (m : Cmd) (src : Bool) (e : Elem) : State × Except Hit (Elem × Loc) :=
  let b := m.block
  let w := s.engineWho m
  let own := clusterOf m.core
  let space := if src then b.sspace else b.dspace
  let cl := if space = 1 then own else if src then b.scl else b.dcl
  if space = 0 then
    if m.kind = .wsl && !src then match s.checkElem w .wswrite e with
      | (s, .ok x) => (s, if s.inOpenWindow x.2 then .ok x else .error ⟨.permission, e.addr⟩)
      | (s, .error h) => (s, .error h)
    else s.checkElem w (if src then .read else .write) e
  else if e.addr % e.align ≠ 0 then (s, .error ⟨.misaligned, e.addr⟩)
  else if (space = 2 && !s.holdsCrew m cl) || scratchBytes < e.addr + e.span then (s, .error ⟨.permission, e.addr⟩)
  else (s, .ok (e.inScratch own cl, .mem [(scratchKey cl e.addr, e.span)] false true))

/-- The place of the scale byte of element e of an array (R94). -/
def scaleElem (base e : Nat) : Elem := elemAt .n8 (base + e / 32)

/-- The value of PAD (R300). -/
def Block.padVal (b : Block) : Nat × Val :=
  (b.pad.toNat, if Fmt.isInt b.sfmt then ofInt b.pad.toInt else unpack Fl.f32 b.pad.toNat)

/-- The source of a destination element: its code and its value (R302, R303). -/
def State.copySource (s : State) (m : Cmd) (l : Layout) (e : Nat) : State × Except Hit (Nat × Val) :=
  let b := m.block
  let w := s.engineWho m
  match l.sourceOf b.nsrc e with
  | none => (s, .ok b.padVal)
  | some i => match s.copyLoc m true (elemOf b.sfmt b.src.toNat i) with
    | (s, .error h) => (s, .error h)
    | (s, .ok x) => match s.loadElem w x with
      | (s, .error h) => (s, .error h)
      | (s, .ok code) =>
        if !b.ssc then (s, .ok (code, copyVal b.sfmt code none))
        else match s.copyLoc m true (scaleElem b.ssca.toNat i) with
          | (s, .error h) => (s, .error h)
          | (s, .ok y) => match s.loadElem w y with
            | (s, .error h) => (s, .error h)
            | (s, .ok sc) => (s, .ok (code, copyVal b.sfmt code (some sc)))

/-- A destination element ready to be written. -/
abbrev ReadyElem := Nat × (Elem × Loc) × Nat × Val

/-- Elements e to e + n - 1 read and their destinations checked, up to the first that meets a condition. DESIGN CHOICE
(log 28): of an element whose read and write both meet one, the read's is the one it stops with (R304 names either). -/
def copyGather (m : Cmd) (l : Layout) : Nat → Nat → State → State × List ReadyElem × Option (Nat × Hit)
  | 0, _, s => (s, [], none)
  | n + 1, e, s => match s.copySource m l e with
    | (s, .error h) => (s, [], some (e, h))
    | (s, .ok v) => match s.copyLoc m false (elemOf m.block.dfmt m.block.dst.toNat e) with
      | (s, .error h) => (s, [], some (e, h))
      | (s, .ok x) =>
        let (s, r, o) := copyGather m l n (e + 1) s
        (s, (e, x, v) :: r, o)

/-- Gathered elements written, up to the first that fails. -/
def copyScatter (m : Cmd) (code : Nat × Val → Nat) : List ReadyElem → State → State × Option (Nat × Hit)
  | [], s => (s, none)
  | (e, x, v) :: r, s => match s.storeElem (s.engineWho m) x (code v) with
    | (s, .error h) => (s, some (e, h))
    | (s, .ok _) => copyScatter m code r s

/-- Gathered elements of a block written after their scale byte, whose failure is that of the first of them (R418); with
none, no scale byte is written. -/
def scatterScaled (m : Cmd) (y : Elem × Loc) (r : List ReadyElem) (s : State) : State × Option (Nat × Hit) :=
  let sc := blockScale m.block.dfmt (r.map fun x => x.2.2.2)
  match r with
  | [] => (s, none)
  | x :: _ => match s.storeElem (s.engineWho m) y sc with
    | (s, .error h) => (s, some (x.1, h))
    | (s, .ok _) => copyScatter m (fun v => encodeScaled m.block.dfmt sc v.2) r s

/-- The write at which a gathered element fails, made once more behind those below it: the scale byte, where it is the
first and that is what fails, else its own. -/
def scatterFailing (m : Cmd) (y : Elem × Loc) (r : List ReadyElem) (j : Nat) (s : State) : State :=
  let sc := blockScale m.block.dfmt (r.map fun x => x.2.2.2)
  let own := (copyScatter m (fun v => encodeScaled m.block.dfmt sc v.2) (r.filter fun x => decide (x.1 = j)) s).1
  if r.head?.any fun x => decide (x.1 = j) then match s.storeElem (s.engineWho m) y sc with
    | (t, .error _) => t
    | (_, .ok _) => own
  else own

/-- One run of destination elements: a block of a scaled destination, which takes its scale from the elements it
performs (R303, R418), or one element. Where an element fails as it is written, those below it alone are performed, with
their scale, and a scale byte that none of them needs keeps its value (R304). DEDUCED (log 28): no element beyond those
of the command is written (R304, R418): what R102 encodes as zero is the rest of a block that the encoder works on, and
the partial block of R102 is a run of fewer than 32 elements. -/
def copyRun (m : Cmd) (l : Layout) (e n : Nat) (s : State) : State × Option (Nat × Hit) :=
  let b := m.block
  let (s, r, stop) := copyGather m l n e s
  let ended (t : State × Option (Nat × Hit)) : State × Option (Nat × Hit) := (t.1, match t.2 with
    | some f => some f
    | none => stop)
  if !b.dsc || r.isEmpty then ended (copyScatter m (fun v => copyEncode b.dfmt v.1 v.2) r s)
  else match s.copyLoc m false (scaleElem b.dsca.toNat e) with
    | (s, .error h) => (s, some (e, h))
    | (s, .ok y) => match scatterScaled m y r s with
      | (s, none) => (s, stop)
      | (_, some (j, h)) =>
        let t := (scatterScaled m y (r.filter fun x => decide (x.1 < j)) s).1
        (t.keepsMem (scatterFailing m y r j t), some (j, h))

/-- A copy from element e on, in at most f runs: the element it stops at, if any. -/
def copyFrom (m : Cmd) (l : Layout) : Nat → Nat → State → State × Option (Nat × Hit)
  | 0, _, s => (s, none)
  | f + 1, e, s =>
    let n := min (if m.block.dsc then 32 - e % 32 else 1) (l.length - e)
    if n = 0 then (s, none)
    else match copyRun m l e n s with
      | (s, some h) => (s, some h)
      | (s, none) => copyFrom m l f (e + n) s

/-! ## The fabric (R308, R393 to R395) -/

/-- The codes of an array as its bytes (R94, R98). -/
def packCodes (f : Fmt) (codes : List Nat) : List Byte :=
  leBytes (Fmt.arrayBytes f codes.length) (codes.foldr (fun c v => c % 2 ^ Fmt.bits f + v * 2 ^ Fmt.bits f) 0)

/-- A line of 64 bytes, all zero. -/
def zeroLine : List Byte := List.replicate 64 0

/-- The code of a line after another and its data bytes (R395). DESIGN CHOICE (log 14): the shortest code, the lower of
two that are as short. -/
def lineCode (prev line : List Byte) : Nat × List Byte :=
  let delta := (line.zip prev).map fun e => e.1 ^^^ e.2
  let marked := delta.filter (· != 0)
  let bitmap := (delta.zipIdx.filter fun e => e.1 != 0).foldl (fun m e => m + 2 ^ e.2) 0
  if line = zeroLine then (0, []) else if line = prev then (1, [])
  else if 8 + marked.length ≤ 64 then (2, leBytes 8 bitmap ++ marked) else (3, line)

/-- The lines of a block coded, n of them: their codes and their data; a partial line is padded with zeros. -/
def lineCodes : Nat → List Byte → List Byte → List Nat × List Byte
  | 0, _, _ => ([], [])
  | n + 1, prev, bs =>
    let line := (bs.take 64 ++ zeroLine).take 64
    let (code, data) := lineCode prev line
    let (codes, rest) := lineCodes n line (bs.drop 64)
    (code :: codes, data ++ rest)

/-- The header of a block: TYPE, BLEN, LEN (R395). -/
def blockHeader (type blen len : Nat) : List Byte := leBytes 4 (type * 2 ^ 30 + blen * 2 ^ 13 + len)

/-- A block of 1 to 4,096 bytes as the port sends it: compressed when that is shorter, else raw (R395). -/
def blockBytes (bs : List Byte) : List Byte :=
  let (codes, data) := lineCodes ((bs.length + 63) / 64) zeroLine bs
  if 20 + data.length < 4 + bs.length then
    blockHeader 1 bs.length (16 + data.length) ++ leBytes 16 (codes.foldr (fun c m => c + 4 * m) 0) ++ data
  else blockHeader 0 bs.length bs.length ++ bs

/-- The line that a delta bitmap and its bytes make of another (R395). -/
def applyDelta (bitmap : Nat) : Nat → List Byte → List Byte → List Byte
  | _, [], _ => []
  | b, p :: ps, data =>
    if bitOf bitmap b then (p ^^^ data.headD 0) :: applyDelta bitmap (b + 1) ps data.tail
    else p :: applyDelta bitmap (b + 1) ps data

/-- n lines decoded from their codes and data. -/
def decodeLines : Nat → Nat → List Byte → List Byte → List Byte
  | 0, _, _, _ => []
  | n + 1, codes, prev, data =>
    let bitmap := natIn data 0 8
    let size := 8 + popCount 64 bitmap
    let (line, rest) := match codes % 4 with
      | 0 => (zeroLine, data)
      | 1 => (prev, data)
      | 2 => (applyDelta bitmap 0 prev ((data.take size).drop 8), data.drop size)
      | _ => (data.take 64, data.drop 64)
    line ++ decodeLines n (codes / 4) line rest

/-- The bytes a received block decodes to: BLEN of them (R395). -/
def decodeBlock (bs : List Byte) : List Byte :=
  let h := natIn bs 0 4
  let blen := h / 2 ^ 13 % 2 ^ 13
  if h / 2 ^ 30 = 0 then (bs.drop 4).take blen
  else (decodeLines ((blen + 63) / 64) (natIn bs 4 16) zeroLine (bs.drop 20)).take blen

/-- A block is sent compressed. -/
def isCompressed (block : List Byte) : Bool := natIn block 0 4 / 2 ^ 30 == 1

/-- A payload counted at a port in blocks of 4,096 bytes; at most n blocks (R358). -/
def Port.send : Nat → List Byte → Port → Port
  | 0, _, p => p
  | n + 1, bs, p =>
    if bs.isEmpty then p
    else
      let block := blockBytes (bs.take 4096)
      Port.send n (bs.drop 4096) { p with
        resends := 0
        rawb := p.rawb + .ofNat 64 (bs.take 4096).length
        sentb := p.sentb + .ofNat 64 block.length
        blkc := p.blkc + (if isCompressed block then 1 else 0)
        blkr := p.blkr + (if isCompressed block then 0 else 1) }

/-- The ports of a list that are not down. -/
def State.portsUp (s : State) (l : List Nat) : List Nat := l.filter fun p => !(s.hub.ports.get Port.reset p).down

/-- DESIGN CHOICE (log 14): a payload leaves by one of the ports that are up, which one is a free value; nothing is
counted when none is. -/
def State.sendPayload (s : State) (ports : List Nat) (bs : List Byte) : State :=
  match s.portsUp ports with
  | [] => s
  | l =>
    let p := l.getD (Config.elapsed s.free % l.length) 0
    s.used.updHub fun h =>
      { h with ports := Tbl.set Port.reset h.ports p (Port.send (bs.length / 4096 + 1) bs (h.ports.get Port.reset p)) }

/-- The loom ports of a die. -/
def diePorts (d : Nat) : List Nat := [2 * d, 2 * d + 1]

/-- A command has a route to its peer, a package of the system (R308, R393, R394). -/
def State.routed (s : State) (m : Cmd) : Bool :=
  let peer := m.block.peer.toNat
  decide (peer < 131072) && Config.inSystem peer &&
  (!Config.peerInDomain peer || !(s.portsUp (diePorts (dieOf (clusterOf m.core)))).isEmpty)

/-- A condition with which a peer ends an element, by the number Config gives. -/
def remoteCond : Nat → Option Cond
  | 1 => some .notPresent
  | 2 => some .permission
  | 3 => some .misaligned
  | 4 => some .uncorrectable
  | 5 => some .pinned
  | _ => none

/-- How a peer ends an element: the condition, and whether it wrote a record, which only a page not present has (R304,
R308). -/
def peerEnds (free : Nat) : Option (Cond × Bool) :=
  let reply := Config.peerCause free
  (remoteCond (reply.1 % 6)).map fun c => (c, reply.2 && c == .notPresent)

/-- The element that leaves for the peer. -/
def Cmd.message (m : Cmd) (e code : Nat) : FabMsg :=
  let b := m.block
  if m.kind = .get then
    .element b.peer m.kind (if b.sspace = 2 then some b.scl else none) (elemOf b.sfmt b.src.toNat e).addr b.sfmt 0 e
  else .element b.peer m.kind (if b.dspace = 2 then some b.dcl else none) (elemOf b.dfmt b.dst.toNat e).addr b.dfmt b.op code

/-- Where a fabric command stops: at an element, with a condition met here, as where there is no route to its PEER (R308),
or one a peer reports with FQ. -/
inductive FabStop | here (e : Nat) (h : Hit) | there (e : Nat) (c : Cond) (fq : Bool)

/-- One element of a fabric command: its code, or where the command stops. DESIGN CHOICE (log 28): the write of an e.get's
element is checked before the peer is asked, so that of an element whose read there and write here both meet a condition
the write's is the one it stops with (R304 names either). -/
def State.fabricElem (s : State) (m : Cmd) (e : Nat) : State × Except FabStop Nat :=
  let b := m.block
  let w := s.engineWho m
  if !s.routed m then (s, .error (.here e ⟨.permission, (elemOf b.dfmt b.dst.toNat e).addr⟩))
  else if m.kind = .get then match s.copyLoc m false (elemOf b.dfmt b.dst.toNat e) with
    | (s, .error h) => (s, .error (.here e h))
    | (s, .ok x) =>
      match peerEnds s.free with
      | some (c, fq) => (s.used, .error (.there e c fq))
      | none =>
        let code := Config.peerReads s.free % 2 ^ Fmt.bits b.dfmt
        let s := { s.used with fabOut := s.fabOut ++ [m.message e 0] }
        match s.storeElem w x code with
        | (s, .error h) => (s, .error (.here e h))
        | (s, .ok _) => (s, .ok code)
  else match s.copyLoc m true (elemOf b.sfmt b.src.toNat e) with
    | (s, .error h) => (s, .error (.here e h))
    | (s, .ok x) => match s.loadElem w x with
      | (s, .error h) => (s, .error (.here e h))
      | (s, .ok code) =>
        match peerEnds s.free with
        | some (c, fq) => (s.used, .error (.there e c fq))
        | none => ({ s.used with fabOut := s.fabOut ++ [m.message e code] }, .ok code)

/-- The elements of a fabric command from e on, n of them: their codes, and where it stops. -/
def fabricFrom (m : Cmd) : Nat → Nat → State → State × List Nat × Option FabStop
  | 0, _, s => (s, [], none)
  | n + 1, e, s => match s.fabricElem m e with
    | (s, .error f) => (s, [], some f)
    | (s, .ok code) =>
      let (s, l, o) := fabricFrom m n (e + 1) s
      (s, code :: l, o)

/-! ## Ends (R304) -/

/-- The pages of n bytes at an address that are not present. -/
def State.absentPages (s : State) (w : Who) (k : Acc) (va n : Nat) : List Nat :=
  (sortedSet [pageOf va, pageOf (va + n - 1)]).filter fun p => s.pageAbsent w k p

/-- An engine record for a condition met by n bytes at an address in a demand domain, with the pages of them that are
missing (R304, R313), and whether it was written. -/
def State.postEngine (s : State) (m : Cmd) (h : Hit) (n : Nat) : State × Bool :=
  if s.demand m.core then
    s.postFault ⟨6, h.cond.code, 4, m.core, m.asid, m.regid, 0, m.addr, m.ticket.toNat, [],
      s.absentPages (s.engineWho m) .read h.tval n⟩
  else (s, false)

/-- The bytes of the access at an address that element e of a command makes: those of its source, of its destination, or
a scale byte. -/
def Cmd.spanAt (m : Cmd) (e va : Nat) : Nat :=
  let b := m.block
  let i := match b.layout with
    | some l => (l.sourceOf b.nsrc e).getD 0
    | none => e
  let x := elemOf b.sfmt b.src.toNat i
  let y := elemOf b.dfmt b.dst.toNat e
  if x.addr = va then x.span else if y.addr = va then y.span else 1

/-- A command leaves the queue, its token pushed, or waits for room (R291, R304); the others look again. -/
def State.leaveQueue (s : State) (cluster idx : Nat) (m : Cmd) : State :=
  let gone (s : State) : State :=
    (s.updClusterAt cluster fun c => { c with cmds := c.cmds.eraseIdx idx }).pokeEngine cluster
  if !m.block.push then gone s
  else if s.fifoCount m.core m.block.pid < 15 then
    gone (s.setFifo m.core m.block.pid (s.fifoCount m.core m.block.pid + 1))
  else s.setCmd cluster idx { m with prog := pushPending }

/-- STATUS (R304). -/
def statusValue (count cause : Nat) (fq : Bool) : Nat := count * 2 ^ 32 + 2 ^ 31 + (if fq then 256 else 0) + cause

/-- STATUS written to the block; any condition leaves it as it was, with a record, or ends the launch (R304, R385). -/
def State.writeStatus (s : State) (m : Cmd) (v : Nat) : State × Option Nat :=
  let w := s.engineWho m
  let e := elemAt .n8 (m.addr.toNat + 56)
  let res := match locate s w .write e.addr 8 8 with
    | (s, .error c) => (s, Except.error c)
    | (s, .ok loc) => s.storeLoc w e.addr loc 8 v
  match res with
  | (s, .ok _) => (s, none)
  | (s, .error c) => match s.fate m.core c with
    | .kill st => (s, some st)
    | .stop c => ((s.postEngine m ⟨c, e.addr⟩ 8).1, none)

/-- The end of a command that has performed its elements below count. -/
def State.endCommand (s : State) (cluster idx : Nat) (m : Cmd) (count cause : Nat) (fq : Bool) : State :=
  match s.writeStatus m (statusValue count cause fq) with
  | (s, some st) => s.terminate m.part m.regid st 0
  | (s, none) => s.leaveQueue cluster idx m

/-- A command stopped by a condition of its own at element e. -/
def State.stopCommand (s : State) (cluster idx : Nat) (m : Cmd) (e : Nat) (h : Hit) : State :=
  match s.fate m.core h.cond with
  | .kill st => s.terminate m.part m.regid st 0
  | .stop c =>
    let (s, fq) := if c = .notPresent then s.postEngine m ⟨c, h.tval⟩ (m.spanAt e h.tval) else (s, false)
    s.endCommand cluster idx m e c.code fq

/-- A fabric command's elements performed and its end. -/
def State.runFabric (s : State) (cluster idx : Nat) (m : Cmd) : State :=
  let (s, codes, stop) := fabricFrom m (m.block.nsrc - m.prog) m.prog s
  let s := if m.kind = .get || !Config.peerInDomain m.block.peer.toNat then s
    else s.sendPayload (diePorts (dieOf cluster)) (packCodes m.block.dfmt codes)
  match stop with
  | none => s.endCommand cluster idx m m.block.nsrc 0 false
  | some (.here e h) => s.stopCommand cluster idx m e h
  | some (.there e c fq) => s.endCommand cluster idx m e c.code fq

/-- R304: the row of a command's completion; a command of a stopped partition goes no further (R387). DESIGN CHOICE (log 28):
a command performs all its elements in this one row, so that a switch finds it at the element it started or resumed at, or
with its push alone left (R305). -/
def execEngineCommandComplete (cluster : Nat) (idx : Nat) (s : State) : Host.Outcome State Fault Refusal :=
  .next (match (s.clusterAt cluster).cmds[idx]? with
    | none => s
    | some m =>
      if !m.started || (s.partAt m.part).stopped then s
      else if m.prog = pushPending then
        if s.fifoCount m.core m.block.pid < 15 then s.leaveQueue cluster idx m else s
      else if m.kind.fabric then s.runFabric cluster idx m
      else match m.block.layout with
        | none => s
        | some l => match copyFrom m l (l.length - m.prog) m.prog s with
          | (s, none) => s.endCommand cluster idx m l.length 0 false
          | (s, some (e, h)) => s.stopCommand cluster idx m e h)

/-! ## The e instructions (R298, R306, R309) -/

/-- Entries of an engine queue. -/
def engineEntries : Nat := 32

/-- An e command's acceptance: its block read and checked, a queue entry and a ticket taken. -/
def commandOp (i : Instr) (s : State) (k : CmdKind) (d a : Nat) : Host.Outcome State Fault Refusal :=
  issue i s fun s =>
    let n := s.cur
    let va := (s.x a).toNat
    if va % 64 ≠ 0 then .lead s Cond.misaligned.code va
    else match s.loadBlock n va 24 with
      | (s, .error (c, at_)) => leadCond s i n c at_
      | (s, .ok bytes) =>
        let b := blockOf bytes
        if b.illegal k bytes then leadWord s i 10
        else if b.maskedBy k (s.masked n) then leadWord s i 12
        else
          let cl := clusterOf n
          let q := (s.clusterAt cl).cmds
          if engineEntries ≤ q.length then .wait s .queue
          else
            let c := s.core
            let m : Cmd := ⟨k, n, (s.partOf n).getD 16, c.ident.regid.toNat, c.ident.asid.toNat, c.ticket, .ofNat 64 va,
              b, s.hub.accepted, false, 0, []⟩
            let s := s.updHub fun h => { h with accepted := h.accepted + 1 }
            let s := s.updClusterAt cl fun x => { x with cmds := x.cmds ++ [m] }
            let s := s.updCore fun x => ({ x with ticket := x.ticket + 1 }).setX d (c.ticket.setWidth 64)
            .retire ((s.later (.engineCommandStart cl q.length)).later (.engineCommandComplete cl q.length))

/-- R306. -/
def execECpy (d : Nat) (a : Nat) (s : State) : Host.Outcome State Fault Refusal := commandOp (.eCpy d a) s .cpy d a
/-- R307. -/
def execEWsl (d : Nat) (a : Nat) (s : State) : Host.Outcome State Fault Refusal := commandOp (.eWsl d a) s .wsl d a
/-- R308. -/
def execEPut (d : Nat) (a : Nat) (s : State) : Host.Outcome State Fault Refusal := commandOp (.ePut d a) s .put d a
/-- R308. -/
def execEGet (d : Nat) (a : Nat) (s : State) : Host.Outcome State Fault Refusal := commandOp (.eGet d a) s .get d a
/-- R308. -/
def execERed (d : Nat) (a : Nat) (s : State) : Host.Outcome State Fault Refusal := commandOp (.eRed d a) s .red d a

/-- A core's e.wait: the commands with tickets up to its own have left the queue, or it waits (R309). -/
def State.atEngineWait (s : State) (n d a : Nat) : Done :=
  let t : Half := ((s.coreAt n).xreg a).setWidth 32
  let mine := (s.clusterAt (clusterOf n)).cmds.filter fun m => decide (m.core = n)
  if mine.any fun m => decide ((t - m.ticket).toNat < 2 ^ 31) then .wait s .engine
  else .retire (s.updCoreAt n fun c => c.acquire.setX d (.ofNat 64 mine.length))

/-- R309. -/
def execEWait (d : Nat) (a : Nat) (s : State) : Host.Outcome State Fault Refusal :=
  issue (.eWait d a) s fun s => s.atEngineWait s.cur d a

/-- R309: the row of a waiting core's completion. -/
def execEWaitDone (core : Nat) (s : State) : Host.Outcome State Fault Refusal :=
  if (s.coreAt core).wait = .engine then match s.fetch core with
    | (t, .ok (.eWait d a)) => .next (finish (.eWait d a) core (t.atEngineWait core d a))
    | _ => .next s
  else .next s

/-! ## A peer's commands (R308) -/

/-- The code an e.red element leaves. -/
def redCode (f : Fmt) (op old new : Nat) : Nat :=
  let fl := if f = .bf16 then Fl.bf16 else Fl.f32
  if Fmt.isInt f then
    let x := intVal f old
    let y := intVal f new
    intCode f (if op = 0 then x + y else if op = 1 then min x y else max x y)
  else
    let x := unpack fl old
    let y := unpack fl new
    (finishV fl .rne (if op = 0 then addV .rne x y else minMaxV (op == 2) x y)).1

/-- An element of a peer's command located: in the region's FASID, or in a scratchpad that holds a crew of it. -/
def State.peerLoc (s : State) (q : FabricReq) (w : Who) (e : Elem) : State × Except Hit (Elem × Loc) :=
  if !q.scratch then s.checkElem w (if q.kind = .get then .read else .write) e
  else if e.addr % e.align ≠ 0 then (s, .error ⟨.misaligned, e.addr⟩)
  else if !(s.partOf (9 * q.cluster) == some q.part) || (s.crewOn q.cluster q.regid).isEmpty ||
    scratchBytes < e.addr + e.span then (s, .error ⟨.permission, e.addr⟩)
  else (s, .ok ({ e with addr := 2 ^ 64 }, .mem [(scratchKey q.cluster e.addr, e.span)] false true))

/-- One element of a peer's command; its code is the answer of a get. -/
def State.peerElem (s : State) (q : FabricReq) (w : Who) (k : Nat) : State × Except Hit Nat :=
  let code := q.data.getD k 0
  match s.peerLoc q w (elemOf q.fmt q.addr.toNat k) with
  | (s, .error h) => (s, .error h)
  | (s, .ok x) => match q.kind with
    | .get => s.loadElem w x
    | .put => match s.storeElem w x code with
      | (s, .error h) => (s, .error h)
      | (s, .ok _) => (s, .ok 0)
    | .red => if x.2.isIo then (s, .error ⟨.permission, x.1.addr⟩)
      else s.modifyElem w x fun old => redCode q.fmt q.op old code

/-- Elements of a peer's command in ascending order, n of them from k on. -/
def peerElems (q : FabricReq) (w : Who) : Nat → Nat → State → State × List Nat × Option (Nat × Hit)
  | 0, _, s => (s, [], none)
  | n + 1, k, s => match s.peerElem q w k with
    | (s, .error h) => (s, [], some (k, h))
    | (s, .ok v) =>
      let (s, l, o) := peerElems q w n (k + 1) s
      (s, v :: l, o)

/-- The record of a peer's command in this partition's fault queue (R308, R313). -/
def State.postPeer (s : State) (q : FabricReq) (w : Who) (k : Nat) (h : Hit) : State :=
  let (s, time) := s.now
  let seq := (s.partAt q.part).faultSeq
  let s := s.updPartAt q.part fun p => { p with faultSeq := seq + 1 }
  let r : FaultRec := ⟨6, h.cond.code, 4, q.issuer, w.asid, q.regid, 0, q.block, q.ticket.toNat, [],
    s.absentPages w .read h.tval (elemOf q.fmt q.addr.toNat k).span⟩
  (s.post q.part .fault (r.bytes seq time)).1

/-- R308: the row of a peer's command. A region that is not there grants nothing. The answer to a peer of the domain leaves
by a loom port, that to another by Ethernet, which has no counters (R394, R358). A command for a stopped partition is not
performed: nothing of the partition changes (R387). -/
def execFabricRequestReceive (req : FabricReq) (s : State) : Host.Outcome State Fault Refusal :=
  let answer (s : State) (count cause : Nat) (data : List Nat) : State :=
    let s := if req.kind = .get && Config.peerInDomain req.peer then
        s.sendPayload (List.range 16) (packCodes req.fmt data)
      else s
    { s with fabOut := s.fabOut ++ [.answer count cause data] }
  .next (if (s.partAt req.part).stopped then s
    else match s.regionAt req.part req.regid with
    | none => answer s 0 Cond.permission.code []
    | some r =>
      let w : Who := ⟨7200, some req.part, r.rcb.fasid, .u, some r.rcb.wsmask, .device⟩
      match peerElems req w req.count 0 s with
      | (s, l, none) => answer s req.count 0 (if req.kind = .get then l else [])
      | (s, l, some (k, h)) =>
        let s := if h.cond = .notPresent && r.rcb.fpol == fpolDemand then s.postPeer req w k h else s
        answer s k h.cond.code (if req.kind = .get then l else []))

end Sys2Proof.Machine
end

