-- ==== Sys2Proof/Machine/Sched.lean ====
section
/-!
DEFINITION. Sched.lean: the surveyor: pre-emption and saved contexts (spec/01_machine.md R34 to R38,
spec/16_events.md R377 to R379), placement, victims, clamps, re-grants (spec/14_regions_scheduling.md R347 to R351).
-/

namespace Sys2Proof.Machine

/-! ## Switching out (R34, R35, R377, R378) -/

/-- A core's streams hold no translation. -/
def State.dropStreams (s : State) (n : Nat) : State := { s with tlb := s.tlb.filter fun t => !heldByStream n t.holder }

/-- A core's slot after its context has left it; the counters of the slot stay, the translations of its streams go. -/
def State.vacate (s : State) (n : Nat) : State :=
  let ev := (s.coreAt n).events
  (s.dropStreams n).setCoreAt n (if kindOf n = .treadle then { Core.absentTreadle with events := ev }
    else { Core.absent with events := ev })

/-- The accumulators of a cluster read whole by a save: those that are corrected are counted, those that cannot be are
counted and reported, and keep their bits (R212, R400, R402). -/
def State.readAccs (s : State) (cluster : Nat) : State :=
  let c := s.clusterAt cluster
  match c.badAcc, c.softAcc with
  | [], [] => s
  | bad, soft =>
    bad.foldl (fun s _ => (s.countCluster cluster 12 1).report (.badRegister cluster))
      ((s.updClusterAt cluster fun c => { c with softAcc := [] }).countCluster cluster 11 soft.length)

/-- A crew of a launch has tile state to save on a cluster. -/
def State.savesTile (s : State) (p : Nat) (r : Region) (cluster : Nat) : Bool :=
  r.rcb.hasTreadle && (s.clusterAt cluster).enable && !s.foreignTile p r cluster

/-- The tile state, and the tokens, saved with a whole crew (R292, R378). -/
def State.saveCrew (s : State) (p : Nat) (r : Region) (crew cluster : Nat) : SavedCrew :=
  let c := s.clusterAt cluster
  let lo := 32 * r.regid
  let fifos := (c.fifos.filter fun e => lo ≤ e.1 && e.1 < lo + 32).map fun e => (e.1 - lo, e.2)
  if s.savesTile p r cluster then ⟨crew, true, c.cfg, c.acc, c.badAcc, fifos, false⟩
  else ⟨crew, false, c.cfg, [], [], fifos, false⟩

/-- A launch is displaced for no gang any more. -/
def Gang.forget (g : Gang) (id : Nat) : Gang :=
  { g with displaced := g.displaced.filter (· != id), overdue := g.overdue.filter (· != id) }

/-- The last core of a vacating launch is saved: its crews are saved, it enters the ready set, before the others where the
slice that displaced it has ended (R352), and the cairn receives "pre-empted" (R349). -/
def State.launchSaved (s : State) (p : Nat) (r : Region) (forReg : Nat) : State :=
  let here := r.clusters.zipIdx.filter fun e => !r.crewOut e.2
  let crews := here.map fun e => s.saveCrew p r e.2 e.1
  let s := here.foldl (fun s e => if s.savesTile p r e.1 then s.readAccs e.1 else s) s
  let s := s.clearClusters r p
  let (s, time) := s.now
  let seq := (s.partAt p).readySeq + 1
  let first := (s.partAt p).gangs.any fun g => g.overdue.contains r.regid
  let s := s.updPartAt p fun q => { q with
    readySeq := seq
    gangs := q.gangs.map fun g => { g with overdue := g.overdue.filter (· != r.regid) } }
  let s := s.updRegionAt p r.regid fun x => { x with
    phase := .ready, order := if first then 0 else seq, since := time, clusters := []
    savedCrews := x.savedCrews ++ crews }
  (s.cairn p r.regid 4 0 r.firstCluster forReg).occupancyChanged p r.clusters

/-- The context of a core saved by the surveyor and its slot vacated; live says that its vector registers are saved
(R37, R378, R379). -/
def State.switchOut (s : State) (n : Nat) (live : Bool) : State :=
  match s.launchOf n, s.partOf n with
  | some r, some p =>
    let s := if live then (s.undoRider n).readLanes n else s.undoRider n
    let c := s.coreAt n
    let mine (m : Cmd) : Bool := m.core == n
    let cl := s.clusterAt (clusterOf n)
    let lanes := match c.regrant with
      | some g => if live then c.ident.lanes else g.lanes
      | none => c.ident.lanes
    let core := { c.writeReplies with
      wait := if c.wait = .push then .push else .none
      preempt := none, requested := none, regrant := none, l1d := [], arrived := false, events := []
      vec := if live then c.vec else Vec.reset
      ident := { c.ident with lanes := lanes }
      streams := c.streams.map fun e => (e.1, { e.2 with ahead := [], noticed := [] }) }
    let save : SavedCore := ⟨c.ident.crew.toNat, c.ident.hidx, core, live && decide (c.ident.lanes ≠ 0),
      cl.cmds.filter mine⟩
    let s := (s.setClusterAt (clusterOf n) { cl with cmds := cl.cmds.filter fun m => !mine m }).pokeEngine (clusterOf n)
    let s := (s.countCore n 14 1).vacate n
    let s := s.updRegionAt p r.regid fun x => { x with saved := x.saved ++ [save] }
    match r.phase with
    | .vacating f => if (s.coresOf p r.regid).isEmpty then
        match s.regionAt p r.regid with
        | some r => s.launchSaved p r f
        | none => s
      else s
    | _ => s
  | _, _ => s

/-- The row boundary b of R34, or the K-group boundary of R35. -/
def boundary (k : Kind) (floor : Nat) : Nat :=
  if k = .treadle then 8 * (floor / 8 + 1) else 32 * (floor / 32 + 1)

/-- A running core is stopped where it is by a pre-emption request (R34, R35): its next boundary lies at or beyond its
length, and it has raised its floor. -/
def State.stopsHere (s : State) (n : Nat) : Bool :=
  let c := s.coreAt n
  c.run == .running && !c.wait.yields && decide (c.strip.len.toNat ≤ boundary (kindOf n) c.strip.floor.toNat) &&
  decide (c.strip.floor.toNat ≠ 0)

/-- A pre-emption request reaches a core (R34, R35, R38, R377); during a thermal trip it waits (R409). A core of a stopped
partition stays where it is (R387). -/
def State.requestPreempt (s : State) (n forReg : Nat) : State :=
  match s.launchOf n, s.partOf n with
  | some r, some p =>
    let s := match r.phase, (s.partAt p).stopped with
      | .placed, false => s.updRegionAt p r.regid fun x => { x with phase := .vacating forReg }
      | _, _ => s
    let c := s.coreAt n
    let k := kindOf n
    let b := boundary k c.strip.floor.toNat
    if (s.partAt p).stopped then s
    else if s.hub.power.trip then
      (if c.run = .absent then s else s.updCoreAt n fun c => { c with requested := some forReg })
    else match c.run with
    | .absent => s
    | .stopped => s.switchOut n true
    | .running =>
      if c.wait.yields then s.switchOut n true
      else if k = .hart && c.ident.lanes = 0 then s.switchOut n false
      else if b < c.strip.len.toNat then s.updCoreAt n fun c => { c with preempt := some ⟨some b, forReg⟩ }
      else if c.strip.floor.toNat = 0 then s.updCoreAt n fun c => { c with preempt := some ⟨none, forReg⟩ }
      else s.switchOut n true
  | _, _ => s

/-- A launch pre-empted whole, to make room for a region (R349): its cores receive their requests in turn. -/
def State.vacateLaunch (s : State) (p : Nat) (r : Region) (forReg : Nat) : State :=
  let cores := s.coresOf p r.regid
  let s := s.updRegionAt p r.regid fun x => { x with phase := .vacating forReg }
  cores.foldl (fun s n => s.later (.preemptRequest n forReg)) s

/-! ## Grants (R13, R36, R348, R351) -/

/-- A pending re-grant takes effect (R36, R145); with no lanes BASE is 0 (R117). -/
def Core.applyRegrant (c : Core) : Core := match c.regrant with
  | some g => { c with
      regrant := none, vec := Vec.reset
      ident := { c.ident with lanes := g.lanes, base := if g.lanes = 0 then 0 else g.base } }
  | none => c

/-- A re-grant that a core has pending takes effect: every slot of its lanes is 0 (R145), and its cluster's occupancy has
changed (R36, R347). -/
def State.takeRegrant (s : State) (n : Nat) : State := match (s.coreAt n).regrant with
  | none => s
  | some _ =>
    let t := (s.updCoreAt n Core.applyRegrant).freshSlots n
    match s.partOf n with
    | some p => t.later (.placement p)
    | none => t

/-- The lanes a cluster's harts hold, as base and count; a pending re-grant holds both its ranges. -/
def State.lanesHeld (s : State) (cluster : Nat) (ignore : List Nat) : List (Nat × Nat) :=
  (List.range 8).flatMap fun i =>
    let c := s.coreAt (9 * cluster + i)
    if c.run = .absent || ignore.contains c.ident.regid.toNat then []
    else (c.ident.base, c.ident.lanes) :: (match c.regrant with
      | some g => [(g.base, g.lanes)]
      | none => [])

/-- Lanes base to base + g - 1 are free of the held ones. -/
def lanesFree (held : List (Nat × Nat)) (base g : Nat) : Bool :=
  held.all fun e => e.2 == 0 || decide (e.1 + e.2 ≤ base) || decide (base + g ≤ e.1)

/-- The lowest aligned free lane index for a grant. -/
def findLanes (held : List (Nat × Nat)) (g : Nat) : Option Nat :=
  if g = 0 then some 0
  else ((List.range (32 / g)).map (· * g)).find? fun b => lanesFree held b g

/-- Harts by decreasing grant, then by ascending index. -/
def byGrant (want : List (Nat × Nat)) : List (Nat × Nat) :=
  [32, 16, 8, 4, 0].flatMap fun g => want.filter fun e => e.2 == g

/-- Bases for a set of grants, taken in order (R348); the result pairs hart, grant and base. -/
def fitLanes : List (Nat × Nat) → List (Nat × Nat) → Option (List (Nat × Nat × Nat))
  | _, [] => some []
  | held, (h, g) :: rest => match findLanes held g with
    | none => none
    | some b => (fitLanes ((b, g) :: held) rest).map fun t => (h, g, b) :: t

/-- The harts of a crew lowered one at a time to their limits, from the last to the first (R348): the sets tried. -/
def lowerings : List (Nat × Nat × Nat) → List (Nat × Nat) → List (List (Nat × Nat))
  | [], cur => [cur]
  | (h, want, limit) :: rest, cur =>
    cur :: (if want = limit then (lowerings rest cur).drop 1
      else lowerings rest (cur.map fun e => if e.1 = h then (h, limit) else e))

/-- A core of a launch that waits to be placed: hart index or 8, LANES, and the lower limit of its grant. -/
abbrev Seat := Nat × Nat × Nat

/-- The seats a crew of a launch needs, in ascending index: every core with an entry, or, resumed, every core that has not
ended; a hart that has executed ln.rel has no lanes until it ends (R14). -/
def Region.seats (r : Region) (crew : Nat) : List Seat :=
  if r.started && !r.fresh.contains crew then
    ((List.range 9).flatMap fun h => r.saved.filter fun c => c.crew == crew && c.hidx == h).map fun c =>
      if c.hidx = 8 then (8, 0, 0)
      else if c.core.released then (c.hidx, 0, 0)
      else (c.hidx, r.rcb.lanes.getD c.hidx 0,
        if c.live then c.core.ident.lanes else r.rcb.minlanes.getD c.hidx 0)
  else (r.rcb.harts.map fun h => (h, r.rcb.lanes.getD h 0, r.rcb.minlanes.getD h 0)) ++
    (if r.rcb.hasTreadle then [(8, 0, 0)] else [])

/-- The cores resident on a cluster, but for some regions. -/
def State.residents (s : State) (cluster : Nat) (ignore : List Nat) : List Core :=
  ((List.range 9).map fun i => s.coreAt (9 * cluster + i)).filter fun c =>
    c.run != .absent && !ignore.contains c.ident.regid.toNat

/-- A region's latency class by REGID. -/
def State.classOf (s : State) (p regid : Nat) : Nat := match s.regionAt p regid with
  | some r => r.rcb.lclass
  | none => 3

/-- Two latency classes may share a cluster (R348). -/
def classesFit (a b : Nat) : Bool := decide (a ≤ b + 1) && decide (b ≤ a + 1)

/-- Whether and how a crew fits a cluster (R348): hart, grant and base of each hart. DESIGN CHOICE (log 29): a crew whose
treadle has ended keeps the cluster's treadle while it has other cores there, because the accumulators stay its own. -/
def State.crewFits (s : State) (p : Nat) (r : Region) (crew cluster : Nat) (ignore : List Nat) :
    Option (List (Nat × Nat × Nat)) :=
  let res := s.residents cluster ignore
  let seats := r.seats crew
  let harts := seats.filter fun e => !(e.1 == 8)
  let freeSlots := (List.range 8).filter fun i =>
    let c := s.coreAt (9 * cluster + i)
    c.run == .absent || ignore.contains c.ident.regid.toNat
  let owner := (s.partAt p).regions.any fun q =>
    !ignore.contains q.regid && q.rcb.hasTreadle && s.occupies q cluster
  if !(res.all fun c => decide (c.ident.asid.toNat = r.rcb.asid) &&
      classesFit r.rcb.lclass (s.classOf p c.ident.regid.toNat)) then none
  else if r.rcb.hasTreadle && owner then none
  else if freeSlots.length < harts.length then none
  else
    let held := s.lanesHeld cluster ignore
    let full := harts.map fun e => (e.1, e.2.1)
    (lowerings (harts.reverse) full).findSome? fun set => fitLanes held (byGrant set)

/-- The online clusters of a partition, ascending (R348). DESIGN CHOICE (log 30): but for those that gang crews wait for. -/
def State.openClusters (s : State) (p : Nat) : List Nat :=
  let kept := (s.partAt p).gangs.flatMap fun g => g.waiting.map fun w => w.cluster
  (s.hub.clusterAtt.filter fun e => decide (e.2.state = 2) && decide (e.2.part = p) && !kept.contains e.1).map
    fun e => e.1

/-- First-fit of crews on clusters (R348): cluster and grants for each crew from a number on. -/
def State.firstFit (s : State) (p : Nat) (r : Region) (ignore : List Nat) : Nat → Nat → List Nat →
    Option (List (Nat × List (Nat × Nat × Nat)))
  | 0, _, _ => some []
  | _ + 1, _, [] => none
  | n + 1, crew, c :: cs => match s.crewFits p r crew c ignore with
    | some g => (s.firstFit p r ignore n (crew + 1) cs).map fun t => (c, g) :: t
    | none => s.firstFit p r ignore (n + 1) crew cs
termination_by structural _ _ cs => cs

/-- A die of the region's weight-store mask has its write window open (R243). -/
def State.wsBlocked (s : State) (r : Region) : Bool :=
  (List.range 8).any fun d => bitOf r.rcb.wsmask d && s.hub.windows.get false d

/-- Where a launch would be placed with some regions' contexts gone. -/
def State.fitsWithout (s : State) (p : Nat) (r : Region) (ignore : List Nat) :
    Option (List (Nat × List (Nat × Nat × Nat))) :=
  if s.wsBlocked r then none else s.firstFit p r ignore r.rcb.ncrew 0 (s.openClusters p)

/-! ## Clamps (R350) -/

def classVclamp (c : Nat) : Nat := if c = 0 then 128 else 512
def classKclamp (c : Nat) : Nat :=
  if c = 0 then 256 else if c = 1 then 4096 else if c = 2 then 65536 else 0xFFFFFFFF

/-- The clamps of a cluster's cores rewritten whole (R401). -/
def State.reclamp (s : State) (p cluster : Nat) : State :=
  let classes := (s.residents cluster []).map fun c => s.classOf p c.ident.regid.toNat
  let v := classes.foldl (fun m c => min m (classVclamp c)) 512
  let k := classes.foldl (fun m c => min m (classKclamp c)) 0xFFFFFFFF
  (List.range 9).foldl (fun s i =>
    let n := 9 * cluster + i
    if (s.coreAt n).run = .absent then s
    else s.updCoreAt n fun c =>
      { c with strip := { c.strip with clamp := .ofNat 32 (if i = 8 then k else v) } }.goodCtl
        [if i = 8 then 0x15 else 8]) s

/-! ## Starting and restoring cores (R110, R145, R336, R348, R378, R379) -/

/-- A core started by placement. DEDUCED (log 24): the pc is a multiple of 4 (R39): bits 1:0 of an entry are dropped. -/
def startCore (r : Region) (crew hidx slot lanes base : Nat) (events : Tbl Word) : Core :=
  let blank := if hidx = 8 then Core.absentTreadle else Core.absent
  let entry := if hidx = 8 then r.rcb.tentry else r.rcb.hentry.getD hidx 0
  let sp := r.rcb.stack + .ofNat 64 ((9 * crew + slot + 1) * r.rcb.ssize)
  (((({ blank with
    run := .running, level := .u, pc := entry &&& ~~~(3 : Word), events := events
    ident := ⟨.ofNat 16 r.rcb.asid, .ofNat 32 r.regid, .ofNat 16 crew, .ofNat 16 r.rcb.ncrew, hidx, lanes, base⟩
    }).setX 2 sp).setX 3 r.rcb.data).setX 4 r.rcb.params)

/-- A saved core on its new slot. -/
def restoreCore (c : SavedCore) (lanes base : Nat) (events : Tbl Word) : Core :=
  { c.core with events := events, ident := { c.core.ident with lanes := lanes, base := base } }

/-- The slots the harts of a crew take: in ascending index, the free slots in ascending order; the treadle slot 8. -/
def slotsFor (free : List Nat) (harts : List Nat) : List (Nat × Nat) := harts.zip free

/-- A restored command takes its place among a queue's, in the order of acceptance (R299). -/
def insertCmd (m : Cmd) : List Cmd → List Cmd
  | [] => [m]
  | x :: xs => if m.order < x.order then m :: x :: xs else x :: insertCmd m xs

/-- The translations ahead of a core's bound streams start again (R192). -/
def State.streamsAhead (s : State) (n : Nat) : State :=
  (s.coreAt n).streams.foldl (fun s e =>
    if e.2.state = .unbound || e.2.desc.scratch then s else s.later (.streamTranslateAhead n e.1)) s

/-- One core of a crew put on a slot: started, or restored with its commands, its streams' translations (R192) and a
window command in progress; a stopped one is stopped once more (R379). DESIGN CHOICE (log 28): the commands take their
places in the cluster's queue even where it then has more than 32 entries (R298, R305). -/
def State.seatCore (s : State) (p : Nat) (r : Region) (crew cluster hidx slot lanes base : Nat) : State :=
  let n := 9 * cluster + slot
  let ev := (s.coreAt n).events
  if !r.started || r.fresh.contains crew then
    (s.setCoreAt n (startCore r crew hidx slot lanes base ev)).freshSlots n
  else match r.saved.find? fun c => c.crew == crew && c.hidx == hidx with
    | none => s
    | some c =>
      let s := (s.setCoreAt n (restoreCore c lanes base ev)).freshSlots n
      let s := s.updClusterAt cluster fun cl => { cl with
        cmds := c.cmds.foldl (fun l m => insertCmd { m with core := n, part := p } l) cl.cmds }
      let s := if c.cmds.isEmpty then s else s.pokeEngine cluster
      let s := (s.streamsAhead n).continueCommand n
      if c.core.run = .stopped && (c.core.win.kind = .lead || c.core.win.kind = .tail) && c.core.win.cause ≠ 12 then
        s.postTrap n c.core.win.cause c.core.win.kind.code
      else s

/-- A crew put on a cluster with its tile state and tokens (R348, R212, R290, R292). -/
def State.startCrew (s : State) (p : Nat) (r : Region) (crew cluster : Nat) (grants : List (Nat × Nat × Nat)) : State :=
  let free := (List.range 8).filter fun i => (s.coreAt (9 * cluster + i)).run == .absent
  let harts := (List.range 8).filter fun h => grants.any fun g => g.1 == h
  let s := if r.rcb.hasTreadle then s.updClusterAt cluster fun cl =>
      { cl with enable := false, cfg := 0x3F3F, acc := [], badAcc := [], softAcc := [] } else s
  let s := match r.savedCrews.find? fun c => c.crew == crew with
    | none => s
    | some c => s.updClusterAt cluster fun cl =>
        let cl := if c.enable then { cl with enable := true, cfg := c.cfg, acc := c.acc, badAcc := c.badAcc } else cl
        { cl with fifos := c.fifos.foldl (fun t (e : Nat × Nat) => Tbl.set 0 t (32 * r.regid + e.1) e.2) cl.fifos }
  let s := (slotsFor free harts).foldl (fun s e =>
    match grants.find? fun g => g.1 == e.1 with
    | some g => s.seatCore p r crew cluster e.1 e.2 g.2.1 g.2.2
    | none => s) s
  let s := if (r.seats crew).any fun e => e.1 == 8 then s.seatCore p r crew cluster 8 8 0 0 else s
  s.reclamp p cluster

/-- A crew of a launch has saved tile state that cannot be corrected, whose restore ends the launch (R382). -/
def Region.tileLost (r : Region) : Bool := r.savedCrews.any fun c => c.enable && c.lost

/-- A save area read that cannot be corrected, on the way to a cluster: counted there and reported (R382, R402). DESIGN
CHOICE (log 16): the address of the area, which no rule gives, is free. -/
def State.detectArea (s : State) (cluster : Nat) : State :=
  (s.used.countCluster cluster 12 1).report (.uncorrectable (Config.lostArea s.free))

/-- A crew's saved tile state is lost. -/
def Region.lostCrew (r : Region) (crew : Nat) : Bool :=
  r.savedCrews.any fun c => decide (c.crew = crew) && c.enable && c.lost

/-- A launch that is placed is displaced for no gang any more (R352). -/
def State.forgetDisplaced (s : State) (p id : Nat) : State :=
  s.updPartAt p fun q => { q with gangs := q.gangs.map fun g => g.forget id }

/-- A launch placed whole (R348); the cairn receives "placed" or "resumed". One whose tile state is lost is terminated,
and the loss is reported (R382, R397). -/
def State.placeLaunch (s : State) (p : Nat) (r : Region) (where_ : List (Nat × List (Nat × Nat × Nat))) : State :=
  if r.tileLost then
    (where_.zipIdx.foldl (fun s e => if r.lostCrew e.2 then s.detectArea e.1.1 else s) s).terminate p r.regid 4 0
  else
  let s := where_.zipIdx.foldl (fun s e => s.startCrew p r e.2 e.1.1 e.1.2) s
  let (s, time) := s.now
  let s := s.updRegionAt p r.regid fun x => { x with
    phase := .placed, placedAt := time, clusters := where_.map fun e => e.1
    cores := if r.started then x.cores else r.rcb.coreCount, started := true, saved := [], savedCrews := [] }
  let s := s.forgetDisplaced p r.regid
  let first := (where_.map fun e => e.1).headD noCluster
  if r.started then s.cairn p r.regid 5 0 first 0 else s.cairn p r.regid 3 0 first r.rcb.ncrew

/-! ## The ready set (R347) -/

/-- A launch stands before another in the ready set. -/
def readyBefore (a b : Region) : Bool :=
  decide (b.rcb.prio < a.rcb.prio) ||
  (decide (a.rcb.prio = b.rcb.prio) && (decide (a.order < b.order) ||
    (decide (a.order = b.order) && decide (a.regid < b.regid))))

/-- A launch inserted in its place. -/
def readyInsert (r : Region) : List Region → List Region
  | [] => [r]
  | x :: xs => if readyBefore r x then r :: x :: xs else x :: readyInsert r xs

/-- The ready set in order; gang launches start by their slices (R352). -/
def readySet (rs : List Region) : List Region :=
  (rs.filter fun r => r.rcb.launch && r.rcb.gang == 0 && r.phase == .ready).foldl (fun l r => readyInsert r l) []

/-- The launches that are leaving their clusters. -/
def State.leaving (s : State) (p : Nat) : List Nat :=
  ((s.partAt p).regions.filter fun r => match r.phase with
    | .vacating _ => true
    | _ => false).map fun r => r.regid

/-- The state once every pending re-grant has taken effect. -/
def State.afterRegrants (s : State) : State := { s with cores := s.cores.map fun e => (e.1, e.2.applyRegrant) }

/-- A ready launch will fit with some launches gone, beside those that are leaving, and the pending re-grants in effect
(R349, R351). -/
def State.fitsOnce (s : State) (p : Nat) (h : Region) (gone : List Nat) : Bool :=
  (s.afterRegrants.fitsWithout p h (s.leaving p ++ gone)).isSome

/-- A ready launch has room, or room is being made for it. -/
def State.promised (s : State) (p : Nat) (h : Region) : Bool := s.fitsOnce p h []

/-- The ready launches for which room is being made, of those that meet a condition. -/
def State.roomFor (s : State) (p : Nat) (of : Region → Bool) : List Region :=
  (readySet (s.partAt p).regions).filter fun h => of h && (s.fitsWithout p h []).isNone && s.promised p h

/-- Every launch that can be placed is placed, in order (R347), but for one that would take the room made for a launch
before it in that order (R349). -/
def State.placeReady (s : State) (p : Nat) : List Region → State
  | [] => s
  | r :: rs => match s.fitsWithout p r [] with
    | some w =>
      let t := s.placeLaunch p r w
      if (s.roomFor p fun h => readyBefore h r).all (t.promised p) then t.placeReady p rs else s.placeReady p rs
    | none => s.placeReady p rs

/-! ## Victims (R349) -/

def subsets : List α → List (List α)
  | [] => [[]]
  | x :: xs => subsets xs ++ (subsets xs).map (x :: ·)

/-- A launch the head may pre-empt (R349, 1). -/
def eligible (head : Region) (now : Nat) (v : Region) : Bool :=
  v.rcb.launch && v.phase == .placed &&
  (decide (v.rcb.prio < head.rcb.prio) ||
    (decide (v.rcb.prio = head.rcb.prio) && decide (v.placedAt + 1024000 ≤ now) &&
      decide ((head.since + 63999) / 64000 * 64000 + 64000 ≤ now)))

/-- The keys of R349, 3, of a set: the least preferred first. -/
def victimKeys (vs : List Region) : List Int :=
  let hi := vs.foldl (fun m v => max m v.rcb.prio) 0
  let bound := vs.foldl (fun m v => max m v.rcb.lclass) 0
  let early := vs.foldl (fun m v => min m v.placedAt) ((vs.map fun v => v.placedAt).headD 0)
  let low := vs.foldl (fun m v => min m v.regid) ((vs.map fun v => v.regid).headD 0)
  [(hi : Int), (bound : Int), -(early : Int), (vs.length : Int), -(low : Int)]

/-- Lexicographic order of key lists. -/
def keysBefore : List Int → List Int → Bool
  | a :: as, b :: bs => decide (a < b) || (decide (a = b) && keysBefore as bs)
  | _, _ => false

/-- The victims of a head: the preferred candidate set (R349), beside the launches that are leaving already. DESIGN CHOICE
(log 29): of candidates equal on every key, the first in the order of `subsets`. -/
def State.victims (s : State) (p : Nat) (head : Region) (now : Nat) : Option (List Region) :=
  let el := (s.partAt p).regions.filter (eligible head now)
  let fits (vs : List Region) : Bool := s.fitsOnce p head (vs.map fun v => v.regid)
  let cands := (subsets el).filter fun vs => !vs.isEmpty && fits vs &&
    vs.all fun v => !fits (vs.filter fun x => !(x.regid == v.regid))
  match cands with
  | [] => none
  | c :: cs => some (cs.foldl (fun b x => if keysBefore (victimKeys x) (victimKeys b) then x else b) c)

/-! ## Re-grants (R36, R351) -/

/-- The harts whose grant may be lowered for a launch of a priority, with the least grant they accept. -/
def State.lowerable (s : State) (p prio : Nat) : List (Nat × Nat) :=
  ((s.partAt p).regions.filter fun r => r.phase == .placed && decide (r.rcb.prio < prio)).flatMap fun r =>
    (s.coresOf p r.regid).filterMap fun n =>
      let c := s.coreAt n
      let lim := r.rcb.minlanes.getD c.ident.hidx 0
      if kindOf n = .hart && decide (lim < c.ident.lanes) && c.regrant.isNone then some (n, lim) else none

/-- The state in which some harts hold less. -/
def State.withLess (s : State) (l : List (Nat × Nat)) : State :=
  l.foldl (fun s e => s.updCoreAt e.1 fun c => { c with ident := { c.ident with lanes := e.2 } }) s

/-- A lowering of some harts lets a launch fit without pre-emption (R351). -/
def State.fitsLess (s : State) (p : Nat) (head : Region) (l : List (Nat × Nat)) : Bool :=
  (s.withLess l).fitsOnce p head []

/-- DESIGN CHOICE (log 26): of the shortest run of lowerable harts, in ascending core number, whose lowering lets the head
fit, those that it needs (R351 does not say which harts are taken). -/
def State.lowerFor (s : State) (p : Nat) (head : Region) : Option (List (Nat × Nat)) :=
  let l := s.lowerable p head.rcb.prio
  (((List.range l.length).map fun i => l.take (i + 1)).find? (s.fitsLess p head)).map fun t =>
    t.foldl (fun need e => if s.fitsLess p head (need.filter fun x => !(x == e)) then need.filter fun x => !(x == e)
      else need) t

/-- A re-grant request reaches a hart (R36). -/
def State.requestRegrant (s : State) (n lanes base forReg : Nat) : State :=
  match s.launchOf n, s.partOf n with
  | some r, some p =>
    let c := s.coreAt n
    let max := 16 * lanes
    let g : Regrant := ⟨lanes, base⟩
    if kindOf n ≠ .hart || c.run = .absent || c.ident.lanes = 0 || (s.partAt p).stopped then s
    else if c.strip.len.toNat ≤ max then s.updCoreAt n fun c => { c with regrant := some g }
    else if c.strip.floor.toNat < max then
      (s.shorten n max Cond.regrant.code false).updCoreAt n fun c => { c with regrant := some g }
    else s.vacateLaunch p r forReg
  | _, _ => s

/-- A raise of a hart's grant by one step, when its aligned neighbour lanes are free and LANES allows it (R351). DESIGN
CHOICE (log 26): a grant of 0 lanes, which has no lanes next to it, is not raised. -/
def State.raiseFor (s : State) (p n : Nat) : Option (Nat × Nat) :=
  let c := s.coreAt n
  match s.regionAt p c.ident.regid.toNat with
  | none => none
  | some r =>
    let g := c.ident.lanes
    let base := c.ident.base / (2 * g) * (2 * g)
    let other := if base = c.ident.base then base + g else base
    if kindOf n = .hart && c.run != .absent && c.regrant.isNone && decide (g ≠ 0) &&
      decide (2 * g ≤ r.rcb.lanes.getD c.ident.hidx 0) && lanesFree (s.lanesHeld (clusterOf n) []) other g
    then some (2 * g, base) else none

/-! ## The PLACEMENT row -/

/-- The first of some ready launches without room to come that a lowering lets fit, with the harts lowered (R351). -/
def State.lowering (s : State) (p : Nat) (rs : List Region) : Option (Region × List (Nat × Nat)) :=
  rs.findSome? fun h => if s.wsBlocked h || s.promised p h then none else (s.lowerFor p h).map fun l => (h, l)

/-- A lowering requested; once its requests have arrived the surveyor looks again. -/
def State.lowers (s : State) (p : Nat) (h : Region) (l : List (Nat × Nat)) : State :=
  (l.foldl (fun s e => s.later (.regrantRequest e.1 e.2 (s.coreAt e.1).ident.base h.regid)) s).later (.placement p)

/-- The victims of the head of the ready set asked to leave, where it has no room and none is being made (R349). -/
def State.takeVictims (s : State) (p : Nat) (rs : List Region) : State := match rs with
  | [] => s
  | head :: _ =>
    if s.wsBlocked head || s.promised p head then s
    else
      let r := s.now
      match r.1.victims p head r.2 with
      | some vs => vs.foldl (fun s v => s.vacateLaunch p v head.regid) r.1
      | none => s

/-- A raise of a hart that is open: no ready launch fits in the lanes, and none has room made for it there (R351). -/
def State.raiseOpen (s : State) (p n : Nat) : Option (Nat × Nat) := (s.raiseFor p n).filter fun g =>
  let t := s.updCoreAt n fun c => { c with regrant := some ⟨g.1, g.2⟩ }
  (readySet (s.partAt p).regions).all fun h => t.promised p h || !s.promised p h

/-- The raises that the free lanes of some clusters allow (R351). -/
def State.raises (s : State) (p : Nat) (clusters : List Nat) : State :=
  clusters.foldl (fun s c => (List.range 8).foldl (fun s i =>
    match s.raiseOpen p (9 * c + i) with
    | some g => s.later (.laneRegrantRaise (9 * c + i) g.1 g.2)
    | none => s) s) s

/-- The surveyor's round for a partition: clamps, ready launches, a lowering for a ready launch, which for the head comes
before victims, and raises (R347 to R351). -/
def State.surveyor (s : State) (p : Nat) : State :=
  let q := s.partAt p
  let clusters := (s.hub.clusterAtt.filter fun e => decide (e.2.part = p) && decide (e.2.state ≠ 0)).map fun e => e.1
  let s := clusters.foldl (fun s c => s.reclamp p c) s
  if q.stopped || q.recov.hold || q.state ≠ 2 then s
  else
    let s := s.placeReady p (readySet q.regions)
    let ready := readySet (s.partAt p).regions
    let low := s.lowering p ready
    let s := match low with
      | some (h, l) => s.lowers p h l
      | none => s
    let s := match low, ready with
      | some (h, _), head :: _ => if h.regid = head.regid then s else s.takeVictims p ready
      | _, _ => s.takeVictims p ready
    s.raises p clusters

/-! ## The end of a core (R295) -/

/-- A core that has ended: its replies are written (R289), its streams released (R184), and what it had in progress is gone;
its registers keep their values until its slot is taken again (R110, R413). -/
def Core.ended (c : Core) : Core := { c.writeReplies with
  run := .absent
  wait := .none
  streams := c.streams.map fun e => (e.1, { e.2 with state := .unbound, pos := 0, noticed := [], ahead := [] })
  rider := none
  push := none
  resume := none
  preempt := none
  requested := none
  regrant := none
  held := []
  replies := []
  l1d := []
  arrived := false
  released := false
  services := 0 }

/-- A core leaves its slot at its end; the translations of its streams go. -/
def State.leave (s : State) (n : Nat) : State := (s.dropStreams n).updCoreAt n Core.ended

/-- A core of a launch has ended: its crew's tokens and tile state go with the last core of the crew, saved ones
included (R290, R292); the launch completes with its last core. -/
def State.endCore (s : State) (n : Nat) : State :=
  match s.launchOf n, s.partOf n with
  | some r, some p =>
    let c := s.coreAt n
    let r := { r with word := wordEnded r.word c.modes.stat r.cores }
    let s := s.updRegionAt p r.regid fun x => { x with word := r.word }
    let s := s.writeWord p r
    let s := s.leave n
    let cl := clusterOf n
    let others := r.saved.any fun x => decide (x.crew = c.ident.crew.toNat)
    let s := if (s.crewOn cl r.regid).isEmpty && !others then s.updClusterAt cl fun k =>
        let k := k.clearCrew r.regid
        { k with enable := if r.rcb.hasTreadle then false else k.enable } else s
    if r.word.getLsbD 63 then
      let s := s.updPartAt p fun q => q.withRegions (q.regions.filter fun x => !(x.regid == r.regid))
      (s.cairn p r.regid 6 0 r.firstCluster r.word.toNat).occupancyChanged p r.clusters
    else match r.phase with
      | .vacating f => if (s.coresOf p r.regid).isEmpty then
          match s.regionAt p r.regid with
          | some r => s.launchSaved p r f
          | none => s
        else s.occupancyChanged p [cl]
      | _ => s.occupancyChanged p [cl]
  | _, _ => s.leave n

end Sys2Proof.Machine
end

