-- ==== Sys2Proof/Machine/Streams.lean ====
section
/-!
DEFINITION. Streams.lean: stream descriptors, the s instructions, vld.sm and vst.sm, translation ahead and read-ahead
(spec/07_masks_streams.md R178 to R192, R418, spec/06_vector.md R167, spec/10_memories.md R255).
-/

namespace Sys2Proof.Machine

/-! ## Descriptors (R179, R180, R183) -/

/-- A signed 32-bit field. -/
def signed32 (v : Nat) : Int := (BitVec.ofNat 32 v).toInt

/-- The descriptor in 64 bytes. -/
def descOf (b : List Byte) : Desc :=
  let ctl := natIn b 16 4
  { base := .ofNat 64 (natIn b 0 8)
    sbase := .ofNat 64 (natIn b 8 8)
    scope := ctl / 2 ^ 16 % 8
    cls := ctl / 2 ^ 12 % 16
    ndim := ctl / 2 ^ 10 % 4
    scratch := ctl / 2 ^ 8 % 4 == 1
    scaled := bitOf ctl 7
    fmt := fmtOf (ctl % 16)
    counts := (List.range 4).map fun k => natIn b (24 + 4 * k) 4
    strides := (List.range 4).map fun k => signed32 (natIn b (40 + 4 * k) 4) }

/-- The number of elements (R180). -/
def Desc.length (d : Desc) : Nat := (d.counts.take (d.ndim + 1)).foldl (· * ·) 1

/-- The element offset of a linear index, dimension 0 fastest (R180). -/
def offsetOf : List Nat → List Int → Nat → Int
  | c :: cs, t :: ts, e => ((e % c : Nat) : Int) * t + offsetOf cs ts (e / c)
  | _, _, _ => 0

def Desc.offset (d : Desc) (e : Nat) : Int := offsetOf (d.counts.take (d.ndim + 1)) d.strides e

/-- The bytes of the element at an offset; packed formats take their field of a group (R180, R94, R98). -/
def offsetElem (f : Fmt) (base : Nat) (o : Int) : Elem :=
  let at_ (k : Int) : Nat := ((base : Int) + k).toNat % 2 ^ 64
  let wrap (k : Int) : Nat := (((base : Int) + k) % (2 ^ 64 : Int)).toNat
  match f with
  | .t6 => ⟨wrap (3 * (o / 4)), 3, 1, 6 * (o % 4).toNat, 6⟩
  | .e2m1 => ⟨wrap (o / 2), 1, 1, 4 * (o % 2).toNat, 4⟩
  | f => if 0 ≤ o then elemAt f (at_ (o * Fmt.bytes f)) else elemAt f (wrap (o * Fmt.bytes f))

def Desc.elem (d : Desc) (e : Nat) : Elem := offsetElem d.fmt d.base.toNat (d.offset e)

/-- The block a scaled element belongs to, and its scale byte's address (R94, R418). -/
def Desc.block (d : Desc) (e : Nat) : Int := d.offset e / 32
def Desc.scaleAddr (d : Desc) (e : Nat) : Nat := (((d.sbase.toNat : Int) + d.block e) % (2 ^ 64 : Int)).toNat

/-- A dimension above NDIM has a count or a stride. -/
def Desc.deadDims (d : Desc) : Bool :=
  !((d.counts.drop (d.ndim + 1)).all (· == 0)) || !((d.strides.drop (d.ndim + 1)).all (· == 0))

/-- The descriptor packs several elements to a byte group. -/
def Desc.packed (d : Desc) : Bool := d.fmt == .t6 || d.fmt == .e2m1

/-- The checks of R183 in their order: the cause of the first that fails. -/
def bindCause (masked : Nat → Bool) (b : List Byte) : Option Cond ⊕ Nat :=
  let ctl := natIn b 16 4
  let d := descOf b
  let write := bitOf ctl 4
  let g : Int := Fmt.granule d.fmt
  let stride0 := d.strides.headD 0
  let size := Fmt.bytes d.fmt
  let tapered := d.fmt == .t8 || d.fmt == .t6
  if !(ctl / 2 ^ 19 == 0) || !(ctl / 32 % 4 == 0) || !(natIn b 20 4 == 0) || !(natIn b 56 8 == 0) ||
    decide (4 < d.scope) || decide (1 < ctl / 2 ^ 8 % 4) then .inr 10
  else if d.deadDims then .inr 10
  else if (d.scaled && !(tapered || d.fmt == .e2m1)) || (!d.scaled && !(d.sbase == 0)) then .inr 10
  else if (tapered && masked 3) || ((d.fmt == .e2m1 || d.fmt == .e8m0 || d.scaled) && masked 4) then .inr 12
  else if 2 ^ 48 ≤ d.length then .inr 10
  else if (size == 2 || size == 4) && !(d.base.toNat % size == 0) then .inl (some .misaligned)
  else if d.packed && (!((d.strides.drop 1).all fun t => t % g == 0) || !(stride0 == 1 || stride0 % g == 0)) then
    .inl (some .misaligned)
  else if write && d.packed && (!(stride0 == 1) || !((d.counts.headD 0 : Int) % g == 0)) then .inr 10
  else .inl none

/-! ## Elements of a bound stream (R187, R188, R191) -/

/-- A stream element ready to be performed: its index, place and scale byte's place, or the codes held ahead and the place
they were read from. -/
structure Ready where
  index : Nat
  elem : Elem
  loc : Loc
  scale : Option Loc
  held : Option (Nat × Nat)
deriving DecidableEq, Repr

/-- The identity of the accesses of a stream of a core (R326). -/
def Who.forStream (w : Who) (i : Nat) : Who := { w with unit := .stream i }

/-- The virtual address of a byte of a stream: with SPACE = 1 that of its scratchpad in the window (R237). -/
def Desc.va (d : Desc) (a : Nat) : Nat := if d.scratch then windowBase + a else a

/-- Where a run of bytes of a stream lies: in the cluster's scratchpad up to 3 MiB, or at a virtual address. -/
def State.streamLoc (s : State) (w : Who) (k : Acc) (d : Desc) (addr span align : Nat) : State × Except Cond Loc :=
  if d.scratch then
    if scratchBytes < addr + span then (s, .error .permission)
    else (s, .ok (.mem [(scratchKey (clusterOf w.core) addr, span)] false true))
  else locate s w k addr span align

/-- TVAL of a stream's end (R366). -/
def endValue (sr e : Nat) : Nat := sr * 2 ^ 48 + e % 2 ^ 48

/-- Element e of a stream checked for the stream's kind of access (R191, R23). DESIGN CHOICE (log 34): a condition that its
scale byte alone meets is the element's, with the element's address as its trap value; and with SPACE = 1 the scale bytes
lie in the scratchpad too, at the offsets that sbase counts, where R179 calls it an address and names no space. -/
def State.checkStream (s : State) (w : Who) (sr : Nat) (st : Stream) (e : Nat) : State × Except Hit Ready :=
  let d := st.desc
  let x := d.elem e
  let kind : Acc := if st.state = .write then .write else .read
  if d.length ≤ e then (s, .error ⟨.streamEnd sr e, endValue sr e⟩)
  else match st.ahead.find? fun a => a.index == e with
    | some a => (s, .ok ⟨e, x, .mem a.runs false true, none, some (a.code, a.scale)⟩)
    | none =>
      let r := s.streamLoc w kind d x.addr x.span x.align
      if d.scaled then
        let t := r.1.streamLoc w kind d (d.scaleAddr e) 1 1
        (t.1, match r.2, t.2 with
          | .error c, .error b => .error ⟨c.first b, x.addr⟩
          | .error c, .ok _ | .ok _, .error c => .error ⟨c, x.addr⟩
          | .ok loc, .ok sl => .ok ⟨e, x, loc, some sl, none⟩)
      else (r.1, match r.2 with
        | .error c => .error ⟨c, x.addr⟩
        | .ok loc => .ok ⟨e, x, loc, none, none⟩)

/-- An element of a read stream: its code and its scale code (0 when it has none). -/
def State.readStream (s : State) (w : Who) (r : Ready) : State × Except Hit (Nat × Nat) :=
  match r.held with
  | some v => (s, .ok v)
  | none => match s.loadElem w (r.elem, r.loc) with
    | (s, .error h) => (s, .error h)
    | (s, .ok code) => match r.scale with
      | none => (s, .ok (code, 0))
      | some sl => match s.loadLoc w sl 1 with
        | (s, .error c) => (s, .error ⟨c, r.elem.addr⟩)
        | (s, .ok sc) => (s, .ok (code, sc))

/-- A stream element's slot (R99, R60). -/
def Desc.slot (d : Desc) (v : Nat × Nat) : Half := if d.scaled then widenScaled d.fmt v.1 v.2 else widen d.fmt v.1

/-- A stream element's exact value, for the array (R180). -/
def Desc.val (d : Desc) (v : Nat × Nat) : Val :=
  if d.scaled then (mulV (fmtVal d.fmt v.1) (e8m0Val v.2)).1 else fmtVal d.fmt v.1

/-- Some element to be performed lies on an I/O page. DESIGN CHOICE (log 34): by the page of the element's own bytes, not
that of its scale byte. -/
def Ready.isIo (r : Ready) : Bool := r.loc.isIo

/-- A stream's position moved to p: what was held ahead below it is gone. -/
def Stream.moveTo (st : Stream) (p : Nat) : Stream :=
  { st with pos := p, ahead := st.ahead.filter fun a => decide (p ≤ a.index) }

/-- The pages of an element's bytes. -/
def Desc.elemPages (d : Desc) (e : Nat) : List Nat :=
  let x := d.elem e
  [pageOf x.addr, pageOf ((x.addr + x.span - 1) % 2 ^ 64)].eraseDups

/-- The first pages of the elements from e on, at most k more distinct ones, over m elements. DESIGN CHOICE (log 34): the
pages of their own bytes, not those of their scale bytes; each of 128 KiB, also where a leaf of 2 GiB maps it. -/
def Desc.pagesFrom (d : Desc) : Nat → Nat → Nat → List Nat → List (Nat × Nat)
  | 0, _, _, _ => []
  | _ + 1, _, 0, _ => []
  | m + 1, e, k + 1, seen =>
    let new := ((d.elemPages e).filter fun p => !seen.contains p).take (k + 1)
    new.map (fun p => (e, p)) ++ d.pagesFrom m (e + 1) (k + 1 - new.length) (new ++ seen)

/-- The page of element p of a bound stream and the next two distinct ones, each with the element that reaches it
(R189). -/
def Stream.nextPages (st : Stream) : List (Nat × Nat) := st.desc.pagesFrom (st.desc.length - st.pos) st.pos 3 []

/-- A held translation maps the 128 KiB page at an address. -/
def TlbEntry.covers (t : TlbEntry) (page : Nat) : Bool := decide (t.page = page / if t.big then bigBytes else pageBytes)

/-- A stream holds the translations of its next pages alone (R189), and those of accesses that have not taken effect. -/
def State.followPages (s : State) (n sr : Nat) : State :=
  if s.lag.isNone && s.tlb.any fun t => t.holder == streamTlb n sr then
    let pages := ((s.coreAt n).stream sr).nextPages
    { s with tlb := s.tlb.filter fun t => !(t.holder == streamTlb n sr) || pages.any fun p => t.covers p.2 }
  else s

/-- A stream holds no translation (R184, R316). -/
def State.dropStream (s : State) (n sr : Nat) : State :=
  { s with tlb := s.tlb.filter fun t => !(t.holder == streamTlb n sr) }

/-- A stream of a core moved to a position; its translations ahead follow (R187, R189). -/
def State.moveStream (s : State) (n sr p : Nat) : State :=
  let t := (s.updCoreAt n fun c => c.updStream sr fun st => st.moveTo p).followPages n sr
  if ((s.coreAt n).stream sr).desc.scratch then t else t.later (.streamTranslateAhead n sr)

/-- The pages not present among those of a stream element (R191, R313). -/
def State.missingPages (s : State) (w : Who) (k : Acc) (d : Desc) (e : Nat) : List Nat :=
  let x := d.elem e
  let bytes := [(x.addr, x.span)] ++ (if d.scaled then [(d.scaleAddr e, 1)] else [])
  let pages := sortedSet (bytes.flatMap fun r => [pageOf r.1, pageOf (r.1 + r.2 - 1)])
  if d.scratch then []
  else pages.filter fun p => s.pageAbsent w k p

/-- The batch record of a stream consumption that met a page not present (R191, R313). -/
def State.postStream (s : State) (n sr : Nat) (st : Stream) (e : Nat) (out : StopOut) (cause j : Nat) : State × Bool :=
  if !s.demand n then (s, false)
  else
    let w := (s.who n).forStream sr
    let c := s.coreAt n
    let pages := s.missingPages w (if st.state = .write then .write else .read) st.desc e
    if pages.isEmpty then (s, false)
    else s.postFault ⟨3, cause, outCode out, n, c.ident.asid.toNat, c.ident.regid.toNat, j, st.addr, endValue sr e,
      [], pages⟩

/-- The record of a vector consumer's stop, posted when the failing element is not present. -/
def streamPost (n sr : Nat) (st : Stream) (is : Issue) (found : Option (Nat × Hit)) : Post :=
  fun s out cause j => match found with
    | some (_, h) => if h.cond = .notPresent then s.postStream n sr st (st.pos + (j - is.start)) out cause j else (s, false)
    | none => (s, false)

/-- The positions of a vector consumer checked: a masked one needs an element, and nothing else (R167, R255). -/
def State.consume (s : State) (n sr km : Nat) (st : Stream) (is : Issue) : Located (Option Ready) :=
  let w := (s.who n).forStream sr
  let c := s.coreAt n
  let chk (s : State) (k : Nat) : State × Except Hit (Option Ready) :=
    let e := st.pos + (k - is.start)
    if c.mask km k then match s.checkStream w sr st e with
      | (s, .error h) => (s, .error h)
      | (s, .ok r) => (s, .ok (some r))
    else if st.desc.length ≤ e then (s, .error ⟨.streamEnd sr e, endValue sr e⟩)
    else (s, .ok none)
  let r := checks (fun _ => true) chk (is.n - is.start) is.start s
  ⟨r.1, r.2.1, r.2.2⟩

/-- Some selected element lies on an I/O page. -/
def anyIoReady (l : List (Nat × Option Ready)) : Bool := l.any fun e => match e.2 with
  | some r => r.isIo
  | none => false

/-- The stop of a consumer, for its record. -/
def Located.stopOf (l : Located α) (core n : Nat) : Option (Nat × Hit) := (l.s.coreAt core).cut n l.found

/-! ## Writing block-scaled elements (R418) -/

/-- The values one performance writes to a block, with the block's scale code. -/
def runScale (f : Fmt) (vals : List (Int × Val)) (blk : Int) : Nat :=
  blockScale f ((vals.filter fun v => v.1 == blk).map fun v => v.2)

/-- A stream element's code written. -/
def State.writeCode (s : State) (w : Who) (d : Desc) (r : Ready) (code : Nat) : State × Except Hit Unit :=
  match s.storeElem w ({ r.elem with addr := d.va r.elem.addr }, r.loc) code with
  | (s, .error h) => (s, .error ⟨h.cond, r.elem.addr⟩)
  | (s, .ok _) => (s, .ok ())

/-- The scale byte of a stream element's block written. -/
def State.writeScale (s : State) (w : Who) (d : Desc) (r : Ready) (sc : Nat) : State × Except Hit Unit := match r.scale with
  | some sl => match s.storeLoc w (d.va (d.scaleAddr r.index)) sl 1 sc with
    | (s, .error c) => (s, .error ⟨c, r.elem.addr⟩)
    | (s, .ok _) => (s, .ok ())
  | none => (s, .ok ())

/-- A stream element written: before it the scale byte of its block, where it is the first of its run. -/
def State.writeStream (s : State) (w : Who) (d : Desc) (r : Ready) (code : Nat) (scale : Option Nat) :
    State × Except Hit Unit :=
  match scale with
  | some sc => match s.writeScale w d r sc with
    | (s, .error h) => (s, .error h)
    | (s, .ok _) => s.writeCode w d r code
  | none => s.writeCode w d r code

/-- The scale code that the elements of a performance give the block of one of them (R418). -/
def scaleOf (d : Desc) (val : Nat → Val) (all : List (Nat × Ready)) (r : Ready) : Nat :=
  runScale d.fmt (all.map fun e => (d.block e.2.index, val e.1)) (d.block r.index)

/-- An element is the first of its block among the elements of a performance. -/
def firstOf (d : Desc) (all : List (Nat × Ready)) (k : Nat) (r : Ready) : Bool :=
  (all.find? fun e => d.block e.2.index == d.block r.index).any fun e => e.1 == k

/-- One element of a performance written (R418): all are the elements of the performance, from which its block takes the
scale. -/
def State.writeScaled (s : State) (w : Who) (d : Desc) (val : Nat → Val) (all : List (Nat × Ready)) (k : Nat) (r : Ready) :
    State × Except Hit Unit :=
  let sc := scaleOf d val all r
  s.writeStream w d r (encodeScaled d.fmt sc (val k)) (if firstOf d all k r then some sc else none)

/-- The write at which an element fails, made once more behind the elements below it: the scale byte of a block that they
have none of, where that is what fails, else the element's own. -/
def State.writeFailing (s : State) (w : Who) (d : Desc) (val : Nat → Val) (all : List (Nat × Ready)) (k : Nat) (r : Ready) :
    State × Except Hit Unit :=
  let sc := scaleOf d val all r
  match (if firstOf d all k r then s.writeScale w d r sc else (s, .ok ())) with
  | (t, .error h) => (t, .error h)
  | (_, .ok _) => s.writeCode w d r (encodeScaled d.fmt sc (val k))

/-- The elements of one performance written; val gives an element's value, code its code without a scale. Where one fails
as it is written, the scales are those of the elements below it (R418), and what its own attempt has done beside memory
stays. -/
def writeRun (w : Who) (d : Desc) (val : Nat → Val) (code : Nat → Nat) (l : List (Nat × Option Ready)) (s : State) :
    State × List (Nat × Unit) × Option (Nat × Hit) :=
  let live := l.filterMap fun e => e.2.map fun r => (e.1, r)
  let s := s.windowRepair (live.map fun e => (e.1, e.2.elem, e.2.loc))
  if !d.scaled then performs (fun s k r => s.writeStream w d r (code k) none) live s
  else
    let write (all : List (Nat × Ready)) : State → Nat → Ready → State × Except Hit Unit :=
      fun s k r => s.writeScaled w d val all k r
    let r := performs (write live) live s
    match r.2.2 with
    | none => r
    | some (j, h) =>
      let low := live.filter fun e => e.1 < j
      let t := performs (write low) low s
      (t.1.keepsMem (performs (fun s k r => s.writeFailing w d val live k r) (live.filter fun e => e.1 == j) t.1).1, t.2.1,
        some (j, h))

/-! ## The s instructions (R181 to R186) -/

/-- After a core's stream writes, what its streams of related classes have read ahead of them is read again (R268). -/
def State.wroteStream (s : State) (n cls : Nat) : State :=
  s.updCoreAt n fun c => c.dropAhead fun t => related t.desc.cls cls

/-- The ordering class of a carrier's stream accesses (R264). -/
def Core.classOf (c : Core) (d : Desc) : Nat := c.riderClass.getD d.cls

/-- A stream as its consumer finds it: what it holds ahead was read in its own class, so that a consumer whose rider gives
another reads anew (R264, R268). -/
def Core.feedOf (c : Core) (i : Nat) : Stream :=
  if c.riderClass.isSome then { c.stream i with ahead := [] } else c.stream i

/-- Two lists of runs have a byte in common. -/
def runsMeet (a b : List (Nat × Nat)) : Bool :=
  a.any fun r => b.any fun t => decide (r.1 < t.1 + t.2) && decide (t.1 < r.1 + r.2)

/-- After stream register sr of a core has read some bytes in a class, no stream of a related class still holds an older
reading of one of them (R266, R268); nor does the stream itself, where the class was its rider's. -/
def Core.readBy (c : Core) (sr cls : Nat) (runs : List (Nat × Nat)) : Core :=
  { c with streams := c.streams.map fun e =>
      if e.1 = sr then (e.1, if c.riderClass.isSome then { e.2 with ahead := [] } else e.2)
      else if related e.2.desc.cls cls then
        (e.1, { e.2 with ahead := e.2.ahead.takeWhile fun a => !runsMeet a.runs runs })
      else e }

/-- The bytes of some elements of a stream, with their scale bytes. -/
def readyRuns (l : List Ready) : List (Nat × Nat) := l.flatMap fun r => r.loc.runs ++ match r.scale with
  | some sl => sl.runs
  | none => []

/-- The order that a core keeps among its streams after one has read some elements. -/
def State.readBy (s : State) (n sr : Nat) (d : Desc) (l : List Ready) : State :=
  s.updCoreAt n fun c => c.readBy sr (c.classOf d) (readyRuns l)

/-- A stream released (R184). -/
def Stream.release (st : Stream) : Stream := { st with state := .unbound, pos := 0, noticed := [], ahead := [] }

/-- R182. DEDUCED (log 24): the trap value of a base or stride that is not a multiple of its granule is the descriptor's
base field, the address of the array's first byte. -/
def execSBind (d : Nat) (a : Nat) (s : State) : Host.Outcome State Fault Refusal :=
  issue (.sBind d a) s fun s =>
    let n := s.cur
    let da := s.x a
    if da.toNat % 64 ≠ 0 then .lead s Cond.misaligned.code da.toNat
    else match s.loadBlock n da.toNat 8 with
      | (t, .error (c, va)) => leadCond t (.sBind d a) n c va
      | (t, .ok b) => match bindCause (t.masked n) b with
        | .inr cause => leadWord t (.sBind d a) cause
        | .inl (some c) => .lead t c.code (natIn b 0 8)
        | .inl none =>
          let desc := descOf b
          let desc := match (t.coreAt n).rider.bind fun r => r.cls with
            | some k => { desc with cls := k }
            | none => desc
          let st : Stream := ⟨if bitOf (natIn b 16 4) 4 then .write else .read, desc, 0, da, [], []⟩
          let t := (t.updCore fun c => c.setStream d st).dropStream n d
          .retire (if desc.scratch then t else t.later (.streamTranslateAhead n d))

/-- R184. -/
def execSRel (d : Nat) (s : State) : Host.Outcome State Fault Refusal :=
  issue (.sRel d) s fun s => .retire ((s.updCore fun c => c.setStream d (c.stream d).release).dropStream s.cur d)

/-- R185. -/
def execSSkip (d : Nat) (a : Nat) (s : State) : Host.Outcome State Fault Refusal :=
  issue (.sSkip d a) s fun s =>
    let st := s.core.stream d
    if st.state = .unbound then leadWord s (.sSkip d a) 10
    else .retire (s.moveStream s.cur d (min (st.pos + (s.x a).toNat) st.desc.length))

/-- R185. -/
def execSPos (d : Nat) (a : Nat) (s : State) : Host.Outcome State Fault Refusal :=
  issue (.sPos d a) s fun s => .retire (s.setX d (.ofNat 64 (s.core.stream a).pos))

/-! ## vld.sm and vst.sm -/

/-- R167. -/
def execVldSm (d : Nat) (a : Nat) (km : Nat) (s : State) : Host.Outcome State Fault Refusal :=
  issue (.vldSm d a km) s fun s =>
    let n := s.cur
    let st := s.core.feedOf a
    let is := s.issued n a 0 d
    if st.state ≠ .read then leadWord s (.vldSm d a km) 10
    else match s.readSlots n (maskRead km is.n) with
      | (s, false) => leadWord s (.vldSm d a km) 15
      | (s, true) =>
        let loc := s.consume n a km st is
        let perform := performs fun s _ (o : Option Ready) => match o with
          | none => (s, .ok none)
          | some r => match s.readStream (s.who n) r with
            | (s, .error h) => (s, .error h)
            | (s, .ok v) => (s, .ok (some v))
        accesses n is loc perform
          (fun e vals s =>
            let slots := vals.filterMap fun v => v.2.map fun x => (v.1, st.desc.slot x)
            let s := (s.rewriteSlots n (.vldSm d a km) (slots.map fun v => v.1)).updCoreAt n
              (writeVec d (loadTag st.desc.fmt) slots)
            let s := s.readBy n a st.desc (loc.elems.filterMap fun x => if x.1 < e then x.2 else none)
            s.moveStream n a (st.pos + (e - is.start)))
          anyIoReady (streamPost n a st is (loc.stopOf n is.n)) 0

/-- R255. -/
def execVstSm (d : Nat) (a : Nat) (km : Nat) (s : State) : Host.Outcome State Fault Refusal :=
  issue (.vstSm d a km) s fun s =>
    let n := s.cur
    let c := s.core
    let st := c.stream a
    let is := s.issued n a 0 d
    if st.state ≠ .write then leadWord s (.vstSm d a km) 10
    else if !storeAccepts st.desc.fmt is.td then leadWord s (.vstSm d a km) 9
    else match s.readSlots n (vecRead d is.n :: maskRead km is.n) with
      | (s, false) => leadWord s (.vstSm d a km) 15
      | (s, true) =>
        let loc := s.consume n a km st is
        accesses n is loc
          (writeRun (s.who n) st.desc (fun k => slotVal is.td (c.elem d k)) fun k => narrow st.desc.fmt is.td (c.elem d k))
          (fun e _ s => (s.moveStream n a (st.pos + (e - is.start))).wroteStream n (c.classOf st.desc))
          (fun _ => true) (streamPost n a st is (loc.stopOf n is.n)) 0

/-! ## Ahead of consumption -/

/-- One page translated ahead; a page not present is noticed once per binding in a demand domain (R189, R190). -/
def State.translatePage (s : State) (n sr : Nat) (e page : Nat) : State :=
  let st := (s.coreAt n).stream sr
  let w := (s.who n).forStream sr
  match locateBlock s w (if st.state = .write then .write else .read) page 1 with
  | (s, .error .notPresent) =>
    if s.demand n && !st.noticed.contains page then
      let c := s.coreAt n
      let s := s.updCoreAt n fun c => c.updStream sr fun st => { st with noticed := page :: st.noticed }
      (s.postFault ⟨4, 1, 0, n, c.ident.asid.toNat, c.ident.regid.toNat, 0, st.addr, endValue sr e, [], [page]⟩).1
    else s
  | (s, _) => s

/-- R189, R190: the row of translation ahead: the page of element p and the next two; none for a stopped partition
(R387). -/
def execStreamTranslateAhead (core : Nat) (sr : Nat) (s : State) : Host.Outcome State Fault Refusal :=
  let st := (s.coreAt core).stream sr
  .next (if st.state = .unbound || st.desc.scratch || s.halted core then s
    else st.nextPages.foldl (fun s e => s.translatePage core sr e.1 e.2) s)

/-- R188: the row of read-ahead: one more element read into the stream's buffer, unless it lies on an I/O page or meets
a condition; none for a stopped partition (R387). -/
def execStreamReadAhead (core : Nat) (sr : Nat) (s : State) : Host.Outcome State Fault Refusal :=
  let st := (s.coreAt core).stream sr
  if st.state ≠ .read || s.halted core then .next s
  else
    let w := (s.who core).forStream sr
    let e := st.pos + st.ahead.length
    match s.checkStream w sr st e with
    | (t, .ok r) =>
      if r.isIo || r.held.isSome then .next t
      else match t.readStream w r with
        | (t, .ok v) => .next (t.updCoreAt core fun c => c.updStream sr fun st =>
            { st with ahead := st.ahead ++ [⟨e, v.1, v.2, readyRuns [r]⟩] })
        | (t, .error _) => .next t
    | (t, .error _) => .next t

end Sys2Proof.Machine
end

