-- ==== Sys2Proof/Machine/Tile.lean ====
section
/-!
DEFINITION. Tile.lean: the m instructions of the treadle, the heddle and its pattern cache, and v.tr and v.tc
(spec/09_tiles.md R212 to R235, spec/04_numbers.md R105, spec/01_machine.md R33, R35).
-/

namespace Sys2Proof.Machine

/-! ## Configuration (R215, R216) -/

/-- A matrix format: its stream format, whether it has block scales, and its k-steps per cycle. -/
structure MatFmt where
  fmt : Fmt
  scaled : Bool
  rate : Nat
deriving DecidableEq, Repr

/-- The formats of R215 by code; none for the illegal codes. -/
def matFmt : Nat → Option MatFmt
  | 0 => some ⟨.bf16, false, 1⟩
  | 1 => some ⟨.e4m3, false, 2⟩
  | 2 => some ⟨.e5m2, false, 2⟩
  | 3 => some ⟨.t8, false, 2⟩
  | 4 => some ⟨.t6, false, 4⟩
  | 5 => some ⟨.t8, true, 2⟩
  | 6 => some ⟨.t6, true, 4⟩
  | 7 => some ⟨.e2m1, true, 6⟩
  | _ => none

/-- The fields of the configuration word: R, C, AFMT, BFMT, CFMT. -/
def cfgRows (w : Nat) : Nat := w % 64 + 1
def cfgCols (w : Nat) : Nat := w / 2 ^ 8 % 64 + 1
def cfgA (w : Nat) : Nat := w / 2 ^ 16 % 16
def cfgB (w : Nat) : Nat := w / 2 ^ 20 % 16
def cfgC (w : Nat) : Nat := w / 2 ^ 24 % 16

/-- Codes at one rate. -/
def sameRate (a b : Nat) : Bool := match matFmt a, matFmt b with
  | some x, some y => x.rate == y.rate
  | _, _ => false

/-- The cause of the first check of R216 that a configuration word fails. -/
def cfgCause (masked : Nat → Bool) (w : Nat) : Option Nat :=
  let codes := [cfgA w, cfgB w, cfgC w]
  if w / 2 ^ 28 ≠ 0 || w / 2 ^ 14 % 4 ≠ 0 || w / 2 ^ 6 % 4 ≠ 0 || (codes.any fun c => decide (7 < c)) ||
    decide (4 < cfgC w) || !sameRate (cfgA w) (cfgB w) then some 10
  else if ((codes.any fun c => decide (3 ≤ c) && decide (c ≤ 6)) && masked 3) || (codes.contains 7 && masked 4) then
    some 12
  else none

/-- The cluster of the core whose turn it is. -/
def State.tile (s : State) : Cluster := s.clusterAt (clusterOf s.cur)

/-- R215, R216. -/
def execMCfg (a : Nat) (s : State) : Host.Outcome State Fault Refusal :=
  issue (.mCfg a) s fun s =>
    let v := (s.issued s.cur a 0 0).xa
    match cfgCause (s.masked s.cur) v.toNat with
    | some cause => leadWord s (.mCfg a) cause
    | none => .retire (s.updClusterAt (clusterOf s.cur) fun cl => { cl with cfg := v.setWidth 32 })

/-! ## Accumulators (R212) -/

/-- Elements of an accumulator, as row and column. -/
abbrev Cells := List (Nat × Nat)

/-- Reading accumulator elements; one that cannot be corrected traps the reader, one that can is corrected and counted
(R212, R400). -/
def State.readCells (s : State) (n a : Nat) (cells : Cells) : State × Bool :=
  let cl := s.clusterAt (clusterOf n)
  match cl.badAcc, cl.softAcc with
  | [], [] => (s, true)
  | bad, soft =>
    let reads (l : List Nat) : List Nat := l.filter fun k => cells.any fun e => accKey a e.1 e.2 == k
    if !(reads bad).isEmpty then (s.detectReg n, false)
    else
      let s := s.updClusterAt (clusterOf n) fun cl => { cl with softAcc := soft.filter fun k => !(reads soft).contains k }
      (s.countCluster (clusterOf n) 11 (reads soft).length, true)

/-- Every element below R rows and C columns, in row-major order. -/
def cellsOf (rows cols : Nat) : Cells := (List.range rows).flatMap fun r => (List.range cols).map fun c => (r, c)

/-- The products of two lists of rows and columns. -/
def cellsAt (rows cols : List Nat) : Cells := rows.flatMap fun r => cols.map fun c => (r, c)

/-- An element written whole, whatever it held. -/
def Cluster.fillAcc (cl : Cluster) (a r c : Nat) (v : Half) : Cluster :=
  { cl.setAcc a r c v with badAcc := cl.badAcc.filter fun k => !(k == accKey a r c)
                           softAcc := cl.softAcc.filter fun k => !(k == accKey a r c) }

/-- R222: every element of an accumulator is +0. -/
def Cluster.zeroAcc (cl : Cluster) (a : Nat) : Cluster :=
  let other (k : Nat) : Bool := decide (k < accKey a 0 0) || decide (accKey (a + 1) 0 0 ≤ k)
  { cl with
    acc := cl.acc.clear (accKey a 0 0) (accKey (a + 1) 0 0)
    badAcc := cl.badAcc.filter other, softAcc := cl.softAcc.filter other }

/-- R222, R214. -/
def execMZero (d : Nat) (s : State) : Host.Outcome State Fault Refusal :=
  issue (.mZero d) s fun s =>
    let s := s.updClusterAt (clusterOf s.cur) fun cl => cl.zeroAcc d
    .retire (s.commit s.cur s.core.strip.len.toNat)

/-! ## One exact sum per K-group (R105) -/

/-- The exact sum of an accumulator value and products, with its flags. -/
def groupSum (acc : Val) (terms : List (Val × Val)) : Val × Flags :=
  let ps := acc :: terms.map fun t => (mulV t.1 t.2).1
  let up := ps.any fun v => v == .inf false
  let down := ps.any fun v => v == .inf true
  if ps.any Val.isNan || (up && down) then invalid
  else if up then (.inf false, 0)
  else if down then (.inf true, 0)
  else (ps.tail.foldl (fun a b => (addV .rne a b).1) acc, 0)

/-- An accumulator element after a K-group. -/
def groupElem (old : Half) (terms : List (Val × Val)) : Half × Flags :=
  let (b, fl) := finishV Fl.f32 .rne (groupSum (unpack Fl.f32 old.toNat) terms)
  (.ofNat 32 b, fl)

/-- The operand rows of one k-step: a by row, b by column. -/
structure KStep where
  a : List Val
  b : List Val

/-- Some elements of an accumulator updated by one K-group, and the flags raised. -/
def updateCells (d : Nat) (ks : List KStep) : Cells → Cluster × Flags → Cluster × Flags
  | [], r => r
  | (r, c) :: cells, (cl, fl) =>
    let terms := ks.map fun k => (k.a.getD r (.fin false 0 0), k.b.getD c (.fin false 0 0))
    let (v, f) := groupElem (cl.accAt d r c) terms
    updateCells d ks cells (cl.setAcc d r c v, fl ||| f)

/-- K-groups of eight k-steps in ascending order; at most n of them. -/
def updateGroups (d : Nat) (cells : Cells) : Nat → List KStep → Cluster × Flags → Cluster × Flags
  | 0, _, r => r
  | n + 1, ks, r => match ks with
    | [] => r
    | _ => updateGroups d cells n (ks.drop 8) (updateCells d (ks.take 8) cells r)

/-- Rows or columns below n whose predicate bit is 1; pp = 0 selects all (R218). -/
def selected (pp : Nat) (v : Word) (n : Nat) : List Nat :=
  (List.range n).filter fun k => pp == 0 || v.getLsbD k

/-! ## Stream operands (R218, R219) -/

/-- A stream that feeds the array: its register, its state at issue, and the elements it gives per k-step. -/
structure Feed where
  sr : Nat
  st : Stream
  per : Nat

/-- A condition at a stream element: the hit, the feed and the element. -/
abbrev FeedHit := Hit × Feed × Nat

/-- The first of two conditions by the order of R23, the earlier one of equals. -/
def firstHit (a : FeedHit) : Option FeedHit → FeedHit
  | some b => if b.1.cond.rank < a.1.cond.rank then b else a
  | none => a

/-- k elements of a feed from e on, all checked. -/
def checkFeed (w : Who) (f : Feed) : Nat → Nat → State → State × List Ready × Option FeedHit
  | 0, _, s => (s, [], none)
  | k + 1, e, s => match s.checkStream (w.forStream f.sr) f.sr f.st e with
    | (s, .error h) =>
      let (s, l, o) := checkFeed w f k (e + 1) s
      (s, l, some (firstHit (h, f, e) o))
    | (s, .ok r) =>
      let (s, l, o) := checkFeed w f k (e + 1) s
      (s, r :: l, o)

/-- The elements of the feeds at k-step k of an instruction that starts at start, all checked. DESIGN CHOICE (log 27): after
a tail stop a stream that feeds both operands goes on, for both, at its position p, which both have moved (R187). -/
def checkFeeds (w : Who) (k start : Nat) : List Feed → State → State × List (List Ready) × Option FeedHit
  | [], s => (s, [], none)
  | f :: fs, s =>
    let (s, l, o) := checkFeed w f f.per (f.st.pos + (k - start) * f.per) s
    let (s, ls, o2) := checkFeeds w k start fs s
    (s, l :: ls, match o with
      | some h => some (firstHit h o2)
      | none => o2)

/-- k-steps from i on, m of them, up to the first that meets a condition. -/
def checkSteps (w : Who) (start : Nat) (fs : List Feed) : Nat → Nat → State →
    State × List (Nat × List (List Ready)) × Option (Nat × FeedHit)
  | 0, _, s => (s, [], none)
  | m + 1, i, s => match checkFeeds w i start fs s with
    | (s, _, some h) => (s, [], some (i, h))
    | (s, l, none) =>
      let (s, ls, o) := checkSteps w start fs m (i + 1) s
      (s, (i, l) :: ls, o)

/-- A run of stream elements read, as exact values. -/
def readFeed (w : Who) (d : Desc) : List Ready → State → State × Except Hit (List Val)
  | [], s => (s, .ok [])
  | r :: rs, s => match s.readStream w r with
    | (s, .error h) => (s, .error h)
    | (s, .ok v) => match readFeed w d rs s with
      | (s, .error h) => (s, .error h)
      | (s, .ok vs) => (s, .ok (d.val v :: vs))

/-- The feeds of one k-step read. -/
def readFeeds (w : Who) : List Feed → List (List Ready) → State → State × Except Hit (List (List Val))
  | f :: fs, l :: ls, s => match readFeed w f.st.desc l s with
    | (s, .error h) => (s, .error h)
    | (s, .ok v) => match readFeeds w fs ls s with
      | (s, .error h) => (s, .error h)
      | (s, .ok vs) => (s, .ok (v :: vs))
  | _, _, s => (s, .ok [])

/-- The record of a k-step's stop (R191, R218): for the element reported, when it is for its page, which is not present,
that the instruction stops. -/
def feedPost (n : Nat) (found : Option (Nat × FeedHit)) : Post :=
  fun s out cause j => match found with
    | some (_, h, f, e) =>
      if h.cond = .notPresent && cause = Cond.notPresent.code then s.postStream n f.sr f.st e out cause j else (s, false)
    | none => (s, false)

/-- The stop found, without its feed. -/
def plainHit (o : Option (Nat × FeedHit)) : Option (Nat × Hit) := o.map fun e => (e.1, e.2.1)

/-- The feeds moved past k k-steps; a stream that feeds both operands moves by both (R218). -/
def State.moveFeeds (s : State) (n k : Nat) : List Feed → State
  | [] => s
  | f :: fs => (s.moveStream n f.sr (((s.coreAt n).stream f.sr).pos + k * f.per)).moveFeeds n k fs

/-- DESIGN CHOICE (log 11): cycles in which the array was busy, from the least the rate allows to one per k-step. -/
def State.matBusy (s : State) (n least most : Nat) : State :=
  if most = 0 then s
  else (s.used).countCluster (clusterOf n) 13 (least + Config.elapsed s.free % (most - least + 1))

/-- ⌈k / rate⌉. -/
def cyclesFor (k rate : Nat) : Nat := (k + rate - 1) / rate

/-- The order that a core keeps among its streams after its feeds have read some elements each (R266, R268). -/
def State.feedsRead (s : State) (n : Nat) : List Feed → List (List Ready) → State
  | f :: fs, l :: ls => (s.readBy n f.sr f.st.desc l).feedsRead n fs ls
  | _, _ => s

/-- The k-steps below a position, each with what its feeds read, taken into that order. -/
def State.stepsRead (s : State) (n e : Nat) (fs : List Feed) (l : List (Nat × List (List Ready))) : State :=
  (l.filter fun x => x.1 < e).foldl (fun s x => s.feedsRead n fs x.2) s

/-- The effect of k-steps on an accumulator, its flags, and the feeds (R218). -/
def State.accumulate (s : State) (n d : Nat) (cells : Cells) (ks : List KStep) (fs : List Feed) : State :=
  let (cl, fl) := updateGroups d cells (ks.length / 8 + 1) ks (s.clusterAt (clusterOf n), 0)
  ((s.setClusterAt (clusterOf n) cl).updCoreAt n fun c => c.raise fl).moveFeeds n ks.length fs

/-- A stream register bound for reading in a matrix format (R221). -/
def Stream.feeds (st : Stream) (f : Option MatFmt) : Bool := match f with
  | some m => st.state == .read && st.desc.fmt == m.fmt && st.desc.scaled == m.scaled
  | none => false

/-! ## Dense products (R218, R220, R221) -/

/-- The largest finite BF16 value. -/
def bf16Max : Val := .fin false 255 120

/-- R220: a source accumulator's value converted to the chaining format and decoded. -/
def chainVal (f : Fmt) (h : Half) : Val :=
  let v := unpack Fl.f32 h.toNat
  match f with
  | .bf16 =>
    let mag := if v.neg? then v.negate else v
    if !v.isNan && bf16Max.le mag then (if v.neg? then bf16Max.negate else bf16Max)
    else fmtVal .bf16 (encodeVal .bf16 v)
  | f => fmtVal f (encodeVal f v)

/-- The loop of R218 over K for feeds, with aOf giving A[.][k] when it is not a stream. -/
def denseRun (i : Instr) (s : State) (is : Issue) (d pp rate : Nat) (fs : List Feed)
    (aOf : Option (Nat → List Val)) (source : List (Nat × Cells)) : Done :=
  let n := s.cur
  let w := is.cfg.toNat
  let cells := cellsAt (selected pp is.xa (cfgRows w)) (selected pp is.xb (cfgCols w))
  let (s, ok) := ((d, cells) :: source).foldl (fun (r : State × Bool) e =>
    if r.2 then r.1.readCells n e.1 e.2 else r) (s, true)
  if !ok then leadWord s i 15
  else match (if (s.coreAt n).resumes then some s else s.budgeted n 0 (cyclesFor is.n rate)) with
    | none => .wait s .budget
    | some s =>
      let who := s.who n
      let (s, l, found) := checkSteps who is.start fs (is.n - is.start) is.start s
      let perform := performs fun s k (x : List (List Ready)) => match readFeeds who fs x s with
        | (s, .error h) => (s, .error h)
        | (s, .ok vs) => match aOf with
          | some a => (s, .ok (KStep.mk (a k) (vs.headD [])))
          | none => (s, .ok (KStep.mk (vs.headD []) (vs.getD 1 [])))
      accesses n is ⟨s, l, plainHit found⟩ perform
        (fun e vals s =>
          let k := e - is.start
          ((s.stepsRead n e fs l).accumulate n d cells (vals.map fun v => v.2) fs).matBusy n (cyclesFor k rate) k)
        (fun _ => true) (feedPost n found) 0

/-- R218. -/
def execMOp (d : Nat) (a : Nat) (b : Nat) (pp : Nat) (s : State) : Host.Outcome State Fault Refusal :=
  issue (.mOp d a b pp) s fun s =>
    let is := s.issued s.cur (2 * pp) (2 * pp + 1) 0
    let w := is.cfg.toNat
    let sa := s.core.feedOf a
    let sb := s.core.feedOf b
    if is.n = 0 then .retire s
    else if !(sa.feeds (matFmt (cfgA w)) && sb.feeds (matFmt (cfgB w))) then leadWord s (.mOp d a b pp) 10
    else denseRun (.mOp d a b pp) s is d pp (match matFmt (cfgB w) with
      | some m => m.rate
      | none => 1) [⟨a, sa, cfgRows w⟩, ⟨b, sb, cfgCols w⟩] none []

/-- R218, R220. -/
def execMOpc (d : Nat) (a : Nat) (b : Nat) (pp : Nat) (s : State) : Host.Outcome State Fault Refusal :=
  issue (.mOpc d a b pp) s fun s =>
    let cl := s.tile
    let is := s.issued s.cur (2 * pp) (2 * pp + 1) 0
    let w := is.cfg.toNat
    let sb := s.core.feedOf b
    let kpos := s.core.strip.kpos.toNat
    if is.n = 0 then .retire s
    else if a = d || !sameRate (cfgC w) (cfgB w) || !sb.feeds (matFmt (cfgB w)) then
      leadWord s (.mOpc d a b pp) 10
    else
      let (f, rate) := match matFmt (cfgC w) with
        | some m => (m.fmt, m.rate)
        | none => (.bf16, 1)
      let column (k : Nat) : List Val :=
        (List.range (cfgRows w)).map fun r => chainVal f (cl.accAt a r ((kpos + k) % 64))
      let cols := (List.range (min is.n 64)).map fun k => (kpos + k) % 64
      denseRun (.mOpc d a b pp) s is d pp rate [⟨b, sb, cfgCols w⟩] (some column)
        [(a, cellsAt (List.range (cfgRows w)) cols)]

/-! ## Instructions that are never shortened (R223, R224, R229) -/

/-- The verdict for an instruction that is never shortened, its positions moved down to a multiple of gran. -/
def State.wholeVerdict (s : State) (core gran : Nat) (found : Option (Nat × Hit)) : Verdict :=
  match found with
  | none => .all
  | some (j, h) =>
    let e := gran * (j / gran)
    match s.fate core h.cond with
    | .kill st => .dies e st
    | .stop cond => .stops (if e = 0 then .lead else .tail) e ⟨cond, h.tval⟩

/-- A part of such an instruction performed before the core is stopped where it is (R224): the positions below lim, where
there are some and nothing below stops it. -/
def partRun (core : Nat) (is : Issue) (total lim : Nat) (loc : Located α)
    (perform : List (Nat × α) → State → State × List (Nat × β) × Option (Nat × Hit))
    (after : Nat → List (Nat × β) → State → State) : Done :=
  let low := match loc.found with
    | some (j, _) => decide (lim ≤ j)
    | none => true
  if is.start < lim && lim < total && low then
    match perform (loc.elems.filter fun e => e.1 < lim) loc.s with
    | (s, vals, none) => .halt ((after lim vals s).commit core is.n) { is with start := lim }
    | (s, _, some _) => .wait s .none
  else .wait loc.s .none

/-- An instruction that is never shortened over total positions, its elements located: those below the stop are
performed; a stop above position 0 is a tail stop. The floor rises to the strip length (R214). -/
def wholeRun (core : Nat) (is : Issue) (total gran : Nat) (lim : Option Nat) (loc : Located α)
    (perform : List (Nat × α) → State → State × List (Nat × β) × Option (Nat × Hit))
    (after : Nat → List (Nat × β) → State → State) (post : Post) : Done :=
  match lim with
  | some lim => partRun core is total lim loc perform after
  | none =>
  let s := loc.s
  let ends (v : Verdict) (j : Nat) (r : State × List (Nat × β) × Option (Nat × Hit)) : Done := match v with
    | .dies _ st => .kill r.1 st
    | .all => .retire ((after total r.2.1 r.1).commit core is.n)
    | .stops out e h =>
      let (t, fq) := post r.1 out h.cond.code j
      match out with
      | .lead => .lead t h.cond.code h.tval
      | _ => .tail (((after e r.2.1 t).markTail core e h.cond.code fq).commit core is.n) e h.cond.code h.tval is
  let v := s.wholeVerdict core gran loc.found
  let kept := loc.elems.filter fun e => e.1 < v.pos total
  let r := perform kept s
  match r.2.2 with
  | none => ends v ((loc.found.map fun f => f.1).getD total) r
  | some f =>
    let v := s.wholeVerdict core gran (some f)
    ends v f.1 (perform (kept.filter fun x => x.1 < v.pos total || v.finds f x.1) s)

/-- The stream formats of m.ld and m.st (R222). -/
def tileFmt (f : Fmt) : Bool := match f with
  | .f32 | .bf16 | .e4m3 | .e5m2 | .t8 | .t6 | .e2m1 => true
  | _ => false

/-- The code of an accumulator element in a stream's format, which m.st gives by rnd in RNE (R100, R101, R222). -/
def drainCode (f : Fmt) (h : Half) : Nat := encodeVal f (slotVal .fp32 h)

/-- The elements of a stream from a start position to total, each checked. -/
def State.tileElems (s : State) (n sr : Nat) (st : Stream) (start total : Nat) : Located (Option Ready) :=
  let w := (s.who n).forStream sr
  let r := checks (fun _ => true) (fun s k => match s.checkStream w sr st (st.pos + (k - start)) with
    | (s, .error h) => (s, .error h)
    | (s, .ok r) => (s, .ok (some r))) (total - start) start s
  ⟨r.1, r.2.1, r.2.2⟩

/-- The elements of a tile drain or fill: R times C (R222). -/
def tileTotal (is : Issue) : Nat := cfgRows is.cfg.toNat * cfgCols is.cfg.toNat

/-- The effect of m.ld; with lim, a part of it (R224). -/
def loadTile (d a : Nat) (lim : Option Nat) (s : State) : Done :=
  let n := s.cur
  let st := s.core.feedOf a
  let is := s.issued n 0 0 0
  let cols := cfgCols is.cfg.toNat
  if st.state ≠ .read || !tileFmt st.desc.fmt then leadWord s (.mLd d a) 10
  else
    let loc := s.tileElems n a st is.start (tileTotal is)
    wholeRun n is (tileTotal is) 1 lim loc
      (performs fun s _ (o : Option Ready) => match o with
        | none => (s, .ok 0)
        | some r => match s.readStream (s.who n) r with
          | (s, .error h) => (s, .error h)
          | (s, .ok v) => (s, .ok (st.desc.slot v)))
      (fun e vals s => ((s.readBy n a st.desc (loc.elems.filterMap fun x => if x.1 < e then x.2 else none)).updClusterAt
        (clusterOf n) fun cl => vals.foldl (fun cl v => cl.fillAcc d (v.1 / cols) (v.1 % cols) v.2) cl).moveStream n a
          (st.pos + (e - is.start)))
      (streamPost n a st is loc.found)

/-- The effect of m.st; with lim, a part of it (R224). -/
def storeTile (d a : Nat) (lim : Option Nat) (s : State) : Done :=
  let n := s.cur
  let c := s.core
  let st := c.stream a
  let is := s.issued n 0 0 0
  let cl := s.tile
  let cols := cfgCols is.cfg.toNat
  let elem (k : Nat) : Half := cl.accAt d (k / cols) (k % cols)
  if st.state ≠ .write || !tileFmt st.desc.fmt then leadWord s (.mSt d a) 10
  else match s.readCells n d ((cellsOf (cfgRows is.cfg.toNat) cols).drop is.start) with
    | (s, false) => leadWord s (.mSt d a) 15
    | (s, true) =>
      let loc := s.tileElems n a st is.start (tileTotal is)
      wholeRun n is (tileTotal is) 1 lim loc
        (writeRun (s.who n) st.desc (fun k => slotVal .fp32 (elem k)) fun k => drainCode st.desc.fmt (elem k))
        (fun e _ s => (s.moveStream n a (st.pos + (e - is.start))).wroteStream n (c.classOf st.desc))
        (streamPost n a st is loc.found)

/-- R222, R223: m.ld. -/
def execMLd (d : Nat) (a : Nat) (s : State) : Host.Outcome State Fault Refusal :=
  issue (.mLd d a) s fun s => loadTile d a none s

/-- R222, R223: m.st. -/
def execMSt (d : Nat) (a : Nat) (s : State) : Host.Outcome State Fault Refusal :=
  issue (.mSt d a) s fun s => storeTile d a none s

/-! ## The heddle (R227 to R234) -/

/-- n bytes from a virtual address read for a treadle, in pieces of 64. -/
def State.readTile (s : State) (w : Who) : Nat → Nat → Nat → State × Except Hit (List Byte)
  | 0, _, _ => (s, .ok [])
  | m + 1, va, n =>
    if n = 0 then (s, .ok [])
    else
      let k := min n 64
      match locate s w .read va k 1 with
      | (s, .error c) => (s, .error ⟨c, va⟩)
      | (s, .ok loc) => match s.loadLoc w loc k with
        | (s, .error c) => (s, .error ⟨c, va⟩)
        | (s, .ok v) => match s.readTile w m ((va + k) % 2 ^ 64) (n - k) with
          | (s, .error h) => (s, .error h)
          | (s, .ok bs) => (s, .ok (leBytes k v ++ bs))

/-- What a tile's header and bitmap compile to, or none where they fail R228; die is the weight store they lie in. -/
def compileTile (part asid va : Nat) (die : Option Nat) (b : List Byte) : Option Pattern :=
  let fmt := natIn b 4 1
  let nnz := natIn b 6 2
  let rows := (List.range 64).map fun r => BitVec.ofNat 64 (natIn b (64 + 8 * r) 8)
  let counts := rows.map fun r => popCount 64 r.toNat
  let sched := counts.foldl max 0
  if natIn b 0 4 ≠ 0x9A7E0003 || fmt < 8 || 13 < fmt || natIn b 5 1 ≠ 0 || natIn b 16 48 ≠ 0 ||
    nnz ≠ counts.foldl (· + ·) 0 then none
  else
    let f := fmtOf fmt
    some ⟨part, asid, va, .ofNat 64 (natIn b 8 8), (576 + Fmt.arrayBytes f nnz + 63) / 64 * 64, f, rows, sched,
      decide (40 < sched), die⟩

/-- The die whose weight store a byte of memory lies in. -/
def dieOfKey (k : Nat) : Option Nat := match spaceOf k with
  | some (.weight d) => some d
  | _ => none

/-- An entry is for a key. -/
def Pattern.isFor (p : Pattern) (part asid va : Nat) (gen : Word) : Bool :=
  decide (p.part = part) && decide (p.asid = asid) && decide (p.addr = va) && decide (p.gen = gen)

/-- What a lookup finds (R229): an entry, a compile in flight, or a compile that it starts; or why it cannot. -/
inductive Found | hit (p : Pattern) | flight | started | bad (h : Hit) | illegal

/-- A lookup of the tile at an address, which compiles it when nothing is cached or in flight; a compile counts as started
before its tile is read and checked (R356). The most recently used entry stands first. DESIGN CHOICE (log 27): a lookup by
m.prep that hits is a use of the entry too. -/
def State.lookup (s : State) (n va : Nat) : State × Found :=
  let w := s.who n
  let cl := clusterOf n
  match s.readTile w 1 (va + 8) 8 with
  | (s, .error h) => (s, .bad h)
  | (s, .ok g) =>
    let gen : Word := .ofNat 64 (leNat g)
    let isFor (p : Pattern) : Bool := p.isFor w.partNo w.asid va gen
    match (s.clusterAt cl).patterns.find? isFor with
    | some p =>
      (s.updClusterAt cl fun c => { c with patterns := p :: c.patterns.filter fun q => !isFor q }, .hit p)
    | none =>
      if (s.clusterAt cl).compiles.any fun k => !k.discarded && isFor k.entry then (s, .flight)
      else match (s.countCluster cl 1 1).readTile w 10 va 576 with
        | (s, .error h) => (s, .bad h)
        | (s, .ok b) =>
          let die := match locate s w .read va 1 1 with
            | (_, .ok (.mem ((k, _) :: _) _ _)) => dieOfKey k
            | _ => none
          match compileTile w.partNo w.asid va die b with
          | none => (s, .illegal)
          | some p =>
            let s := s.updClusterAt cl fun c => { c with compiles := c.compiles ++ [⟨p, false⟩] }
            (s.later (.patternCompileDone cl 0), .started)

/-- The tags of a pattern cache (R212). -/
def patternTags : Nat := 128

/-- R228: the row of a compile's end; its entry replaces the least recently used tag, unless it was discarded
(R229, R232). -/
def execPatternCompileDone (cluster : Nat) (idx : Nat) (s : State) : Host.Outcome State Fault Refusal :=
  .next (match (s.clusterAt cluster).compiles[idx]? with
    | none => s
    | some k =>
      let s := if k.entry.dense then s.countCluster cluster 2 1 else s
      s.updClusterAt cluster fun c => { c with
        compiles := c.compiles.eraseIdx idx
        patterns := if k.discarded then c.patterns
          else (k.entry :: c.patterns.filter fun q => !q.isFor k.entry.part k.entry.asid k.entry.addr k.entry.gen).take
            patternTags })

/-- The exact value of Ws[r][k]: the value at the entry's position, read from the value bytes, or +0 (R229). -/
def Pattern.value (p : Pattern) (starts : List Nat) (bytes : List Byte) (r k : Nat) : Val :=
  let row := (p.rows.getD r 0).toNat
  if bitOf row k then
    let idx := starts.getD r 0 + popCount k row
    let e := elemOf p.fmt 0 idx
    fmtVal p.fmt (e.code (natIn bytes e.addr e.span))
  else .fin false 0 0

/-- The index of each row's first value. -/
def rowStarts : List Word → Nat → List Nat
  | [], _ => []
  | r :: rs, n => n :: rowStarts rs (n + popCount 64 r.toNat)

/-- The non-zeros an entry has. -/
def Pattern.nnz (p : Pattern) : Nat := (p.rows.map fun r => popCount 64 r.toNat).foldl (· + ·) 0

/-- Matrix cycles of an entry (R228, R346). -/
def Pattern.cycles (p : Pattern) : Nat := if p.dense then 64 else p.sched

/-- The record of a tile read that met a page not present (R235, R313). -/
def State.postTile (s : State) (n : Nat) (h : Hit) (out : StopOut) : State × Bool :=
  if h.cond = .notPresent && s.demand n then
    let c := s.coreAt n
    s.postFault
      ⟨5, h.cond.code, outCode out, n, c.ident.asid.toNat, c.ident.regid.toNat, 0, c.pc, 0, [], [pageOf h.tval]⟩
  else (s, false)

/-- A tile read's condition: a lead trap (R235), whatever k-steps have been performed. -/
def tileStop (s : State) (n : Nat) (h : Hit) : Done :=
  match s.fate n h.cond with
  | .kill st => .kill s st
  | .stop c => .lead (s.postTile n h .lead).1 c.code h.tval

/-- An m.ops that issues is charged the entry's cycles (R346). -/
def State.chargeOps (s : State) (n : Nat) (p : Pattern) : State :=
  if (s.coreAt n).resumes then s
  else match s.launchOf n, s.partOf n with
    | some r, some q => s.charge q r.regid 0 p.cycles
    | _, _ => s

/-- The product of an entry with stream X (R229); with lim, a part of it (R224). DESIGN CHOICE (log 27): the value bytes
are read before the elements of X are checked. -/
def sparseRun (i : Instr) (lim : Option Nat) (s : State) (is : Issue) (d b pp va : Nat) (p : Pattern) : Done :=
  let n := s.cur
  let s := s.chargeOps n p
  match s.readTile (s.who n) 129 ((va + 576) % 2 ^ 64) (Fmt.arrayBytes p.fmt p.nnz) with
  | (s, .error h) => tileStop s n h
  | (s, .ok bytes) =>
    let w := is.cfg.toNat
    let cells := cellsAt (selected pp is.xa (cfgRows w)) (selected pp is.xb (cfgCols w))
    match s.readCells n d cells with
    | (s, false) => leadWord s i 15
    | (s, true) =>
      let starts := rowStarts p.rows 0
      let f : Feed := ⟨b, s.core.feedOf b, cfgCols w⟩
      let who := s.who n
      let (s, l, found) := checkSteps who is.start [f] (64 - is.start) is.start s
      wholeRun n is 64 8 lim ⟨s, l, plainHit found⟩
        (performs fun s k (x : List (List Ready)) => match readFeeds who [f] x s with
          | (s, .error h) => (s, .error h)
          | (s, .ok vs) =>
            (s, .ok (KStep.mk ((List.range (cfgRows w)).map fun r => p.value starts bytes r k) (vs.headD []))))
        (fun e vals s =>
          let whole := is.start = 0 && e = 64
          ((s.stepsRead n e [f] l).accumulate n d cells (vals.map fun v => v.2) [f]).matBusy n (if whole then p.cycles else 0) p.cycles)
        (feedPost n found)

/-- A stream that m.ops takes (R229). -/
def Stream.feedsAny (st : Stream) : Bool := (List.range 8).any fun c => st.feeds (matFmt c)

/-- The matrix budget holds an m.ops that is not waiting for a compile or resumed (R346). DESIGN CHOICE (log 27): an m.ops
that has waited for a compile passed its hold before the wait, and is charged after it. -/
def State.opsHeld (s : State) (n : Nat) : Bool :=
  let c := s.coreAt n
  if c.resumes || c.wait == .compile then false
  else match s.launchOf n, s.partOf n with
    | some r, some p => !s.budgetLeft p r.regid 0
    | _, _ => false

/-- The effect of m.ops, with the order of checks of R235; with lim, a part of it (R224). -/
def opsTile (d a b pp : Nat) (lim : Option Nat) (s : State) : Done :=
  let n := s.cur
  let is := s.issued n (2 * pp) (2 * pp + 1) a
  let va := is.xc.toNat
  let cl := clusterOf n
  if !(s.core.stream b).feedsAny then leadWord s (.mOps d a b pp) 10
  else if va % 64 ≠ 0 then .lead s Cond.misaligned.code va
  else if s.opsHeld n then .wait s .budget
  else
    let waited := s.core.wait == .compile
    match s.lookup n va with
    | (s, .bad h) => tileStop s n h
    | (s, .illegal) => leadWord s (.mOps d a b pp) 10
    | (s, .started) => .wait s .compile
    | (s, .flight) => .wait (if waited then s else s.countCluster cl 4 1) .compile
    | (s, .hit p) => sparseRun (.mOps d a b pp) lim (if waited then s else s.countCluster cl 0 1) is d b pp va p

/-- R229. -/
def execMOps (d : Nat) (a : Nat) (b : Nat) (pp : Nat) (s : State) : Host.Outcome State Fault Refusal :=
  issue (.mOps d a b pp) s fun s => opsTile d a b pp none s

/-- R230. -/
def execMPrep (a : Nat) (s : State) : Host.Outcome State Fault Refusal :=
  issue (.mPrep a) s fun s =>
    let va := (s.issued s.cur a 0 0).xa.toNat
    .retire (if va % 64 ≠ 0 then s else (s.lookup s.cur va).1)

/-- R234. -/
def execMInv (a : Nat) (b : Nat) (s : State) : Host.Outcome State Fault Refusal :=
  issue (.mInv a b) s fun s =>
    let is := s.issued s.cur a b 0
    let lo := is.xa.toNat
    let n := min is.xb.toNat (2 ^ 64 - lo)
    .retire (if n = 0 then s else s.updClusterAt (clusterOf s.cur) fun c => c.dropPatterns fun p => p.overlaps lo n)

/-! ## Tile slices (R225) -/

/-- v.tr and v.tc: cell gives the row and column of element i. -/
def sliceOp (i : Instr) (s : State) (d a b km : Nat) (cell : Nat → Nat → Nat × Nat) :
    Host.Outcome State Fault Refusal :=
  issue i s fun s =>
    let n := s.cur
    let is := s.issued n a b d
    let o := is.xb.toNat
    let cl := s.tile
    let inTile (k : Nat) : Bool := decide ((cell o k).1 < 64) && decide ((cell o k).2 < 64)
    match s.readCells n a (((List.range is.n).filter fun k => s.core.mask km k && inTile k).map (cell o)) with
    | (s, false) => leadWord s i 15
    | (s, true) =>
      elements i s is (maskRead km is.n) (fun c => c.mask km)
        (fun _ k => (if inTile k then cl.accAt a (cell o k).1 (cell o k).2 else 0, 0)) (writeVec d .fp32)

/-- R225. -/
def execVTr (d : Nat) (a : Nat) (b : Nat) (km : Nat) (s : State) : Host.Outcome State Fault Refusal :=
  sliceOp (.vTr d a b km) s d a b km fun o k => (o + k / 64, k % 64)

/-- R225. -/
def execVTc (d : Nat) (a : Nat) (b : Nat) (km : Nat) (s : State) : Host.Outcome State Fault Refusal :=
  sliceOp (.vTc d a b km) s d a b km fun o k => (k % 64, o + k / 64)

/-! ## Stopped in flight (R224) -/

/-- The part of a tile instruction in flight that is performed before it is stopped: for those that are stopped in place
(R224), the positions below an index. -/
def shortBody (i : Instr) (lim : Nat) : Option (State → Done) := match i with
  | .mLd d a => some (loadTile d a (some lim))
  | .mSt d a => some (storeTile d a (some lim))
  | .mOps d a b pp => some (opsTile d a b pp (some (8 * (lim / 8))))
  | _ => none

/-- A treadle stopped where it is: in an m.ld, m.st or m.ops at a free progress index (log 2), before its instruction, or
at a push that waits (R292). -/
def State.haltTile (s : State) (n : Nat) : State :=
  if kindOf n ≠ .treadle || (s.coreAt n).push.isSome then s
  else match s.upcoming n with
    | .run t i => match shortBody i (Config.progress s.free % 4096) with
      | none => s
      | some body => match gate i n { t.used with cur := n } body with
        | .halt u is => { finish i n (.halt u is) with cur := s.cur }
        | _ => s
    | .done _ => s

end Sys2Proof.Machine
end

