-- ==== Sys2Proof/Machine/Events.lean ====
section
/-!
DEFINITION. Events.lean: the words that only trap (spec/02_encoding.md R51), the window commands
(spec/16_events.md R367, R381, R382), recovery images (spec/17_outside.md R398, R399), draining
(spec/14_regions_scheduling.md R339), pre-emption and re-grant requests (spec/01_machine.md R34 to R38, R351), budget
periods (R345), gang slices (R352), refresh (spec/10_memories.md R242), interrupts (R376).
-/

namespace Sys2Proof.Machine

/-! ## Words that only trap -/

/-- R51: an emulate trap. -/
def execEmulate (w : Nat) (s : State) : Host.Outcome State Fault Refusal :=
  issue (.emulate w) s fun s => leadWord s (.emulate w) 11

/-- R51: an illegal word. -/
def execIllegalWord (w : Nat) (s : State) : Host.Outcome State Fault Refusal :=
  issue (.illegalWord w) s fun s => leadWord s (.illegalWord w) 10

/-! ## Save areas (R381) -/

def areaBytes (n : Nat) : Nat := 2048 + 387 * n

/-- The tag codes of v0 to v63. -/
def Core.tagBytes (c : Core) : List Byte := (List.range 64).map fun r => .ofNat 8 (Tag.code (c.tag r))

/-- n / 8 bytes of a mask register. -/
def Core.maskBytes (c : Core) (k n : Nat) : List Byte :=
  (List.range (n / 8)).map fun j =>
    .ofNat 8 ((List.range 8).foldl (fun a b => if c.mask k (8 * j + b) then a + 2 ^ b else a) 0)

/-- The parts of an area for VLMAX n, with their offsets: the header, the held entries used, the registers. DESIGN
CHOICE (log 2): the bytes of a held entry are free, and unused entries are not written. -/
def Core.areaParts (c : Core) (n free : Nat) : List (Nat × List Byte) :=
  [(0, leBytes 4 n ++ leBytes 4 c.held.length ++ c.tagBytes ++ List.replicate 952 0),
   (1024, (List.range (16 * c.held.length)).map (Config.heldByte free)),
   (2048, (List.range 64).flatMap fun r => (List.range n).flatMap fun i => leBytes 4 (c.elem r i).toNat),
   (2048 + 256 * n, (List.range 24).flatMap fun k => c.maskBytes k n),
   (2048 + 259 * n, (List.range 16).flatMap fun r => (List.range n).flatMap fun i => leBytes 8 (c.pairBits r i).toNat)]

/-- The vector state an area for VLMAX n holds; elements from n on are 0 (R145). -/
def areaVec (n : Nat) (b : List Byte) : Vec :=
  let blank : Core := { Core.absent with vec := Vec.reset }
  let c := (List.range 64).foldl (fun c r => c.setTag r ((tagOf (natIn b (8 + r) 1)).getD .n32)) blank
  let c := (List.range 64).foldl (fun c r =>
    c.setElems r ((List.range n).map fun i => (i, .ofNat 32 (natIn b (2048 + 4 * (n * r + i)) 4)))) c
  let c := (List.range 23).foldl (fun c j =>
    let k := j + 1
    c.setMasks k ((List.range n).map fun i => (i, bitOf (natIn b (2048 + 256 * n + n / 8 * k + i / 8) 1) (i % 8)))) c
  ((List.range 16).foldl (fun c r =>
    c.setPairs r ((List.range n).map fun i => (i, .ofNat 64 (natIn b (2048 + 259 * n + 8 * (n * r + i)) 8)))) c).vec

/-- An undefined vector state for VLMAX n (R381). -/
def freeVec (n free : Nat) : Vec :=
  let blank : Core := { Core.absent with vec := Vec.reset }
  let c := (List.range 64).foldl (fun c r => c.setTag r ((tagOf (Config.undefinedTag free r % 6)).getD .n32)) blank
  let c := (List.range 64).foldl (fun c r =>
    c.setElems r ((List.range n).map fun i => (i, Config.undefinedSlot free (slotKey r i)))) c
  let c := (List.range 23).foldl (fun c j =>
    c.setMasks (j + 1) ((List.range n).map fun i => (i, Config.undefinedMask free (slotKey (j + 1) i)))) c
  ((List.range 16).foldl (fun c r =>
    c.setPairs r ((List.range n).map fun i => (i, Config.undefinedPair free (slotKey r i)))) c).vec

/-- An area's header is one that VSAVE writes: a VLMAX of R13 and tags of R142. -/
def areaOk (b : List Byte) (qn : Nat) : Bool :=
  let n := natIn b 0 4
  (n == 0 || n == 64 || n == 128 || n == 256 || n == 512) && natIn b 4 4 == qn &&
  (List.range 64).all fun r => decide (natIn b (8 + r) 1 < 6)

/-- The partition whose memory a core's window commands reach; a cluster of no partition reaches none. -/
def State.areaPart (s : State) (n : Nat) : Part := match s.partOf n with
  | some p => s.partAt p
  | none => Part.free

/-- Byte ranges written from a partition-physical address on. -/
def State.writeParts (s : State) (q : Part) (base : Nat) : List (Nat × List Byte) → State × Bool
  | [] => (s, true)
  | (off, bs) :: rest => match s.physWrite q (base + off) bs with
    | (s, .error _) => (s, false)
    | (s, .ok _) => s.writeParts q base rest

/-! ## Window commands (R367) -/

/-- A command's effect: nothing unless the window is busy with it, in a partition that is not stopped (R387); then what
body does, and the status it gives. -/
def windowCommand (n k : Nat) (s : State) (body : State → State × Nat) : Host.Outcome State Fault Refusal :=
  let w := (s.coreAt n).win
  .next (if w.cmdstat = 1 && w.cmd = k && !s.halted n then
      let r := body s
      r.1.updCoreAt n fun c => { c with win := { c.win with cmd := 8 + r.2 } }
    else s)

/-- A change of a core with the status of a command that is done. -/
def State.doneWith (s : State) (n : Nat) (f : Core → Core) : State × Nat := (s.updCoreAt n f, 0)

/-- VSAVE. -/
def State.vectorSave (s : State) (n : Nat) : State × Nat :=
  let c := s.coreAt n
  let base := c.win.varea.toNat
  if kindOf n ≠ .hart then (s, 2)
  else if base % 64 ≠ 0 then (s, 3)
  else
    let q := s.areaPart n
    let t := if c.held.isEmpty then s else s.used
    match (t.readLanes n).writeParts q base (c.areaParts c.vlmax s.free) with
    | (t, false) => (t, 3)
    | (t, true) =>
      let t := match tableKey q base with
        | some key => t.updHub fun h => { h with areas := h.areas.put key c.held }
        | none => t
      t.doneWith n fun c => { c with held := [], win := { c.win with vown := 0 } }

/-- VLOAD. -/
def State.vectorLoad (s : State) (n : Nat) : State × Nat :=
  let c := s.coreAt n
  let base := c.win.varea.toNat
  let q := s.areaPart n
  let own (c : Core) : Core := { c with win := { c.win with vown := c.win.ctx } }
  if kindOf n ≠ .hart then (s, 2)
  else if base % 64 ≠ 0 then (s, 3)
  else match s.physRead q base 2048 with
    | (s, .error _) => (s, 3)
    | (s, .ok head) =>
      let saved := natIn head 0 4
      if c.vlmax < saved then (s, 4)
      else match s.physRead q base (areaBytes saved) with
        | (s, .error _) => (s, 3)
        | (s, .ok b) =>
          match (tableKey q base).bind fun key => (s.hub.areas.find? fun e => e.1 == key).map fun e => e.2 with
          | some held =>
            if areaOk b held.length then (s.freshSlots n).doneWith n fun c => own { c with vec := areaVec saved b, held := held }
            else (s.used.freshSlots n).doneWith n fun c => own { c with vec := freeVec c.vlmax s.free, held := [] }
          | none => (s.used.freshSlots n).doneWith n fun c => own { c with vec := freeVec c.vlmax s.free, held := [] }

/-- VCLEAR. -/
def State.vectorClear (s : State) (n : Nat) : State × Nat :=
  if kindOf n ≠ .hart || !(s.coreAt n).held.isEmpty then (s, 2)
  else (s.freshSlots n).doneWith n fun c => { c.clearVec with win := { c.win with vown := c.win.ctx } }

/-- A tile instruction of the crew of a core is queued. -/
def State.tileQueued (s : State) (n : Nat) : Bool :=
  (s.crewOn (clusterOf n) (s.coreAt n).ident.regid.toNat).any fun m =>
    (s.coreAt m).held.any fun h => majorOf (firstWord h.instr) == 0x2C

/-- The checks every tile command makes; DEDUCED (log 24): a crew without a treadle has no tile state to enable. -/
def State.tileCommand (s : State) (n : Nat) (body : State → State × Nat) : State × Nat :=
  if s.tileQueued n then (s, 2) else if !s.crewHasTreadle n then (s, 5) else body s

/-- The accumulators and configuration slot of a tile save area. -/
def Cluster.tileBytes (c : Cluster) : List Byte :=
  ((List.range 8).flatMap fun a => (List.range 64).flatMap fun r => (List.range 64).flatMap fun j =>
    leBytes 4 (c.accAt a r j).toNat) ++ leBytes 4 c.cfg.toNat ++ List.replicate 28 0

/-- Accumulators whose element j of row r of a is f a r j. -/
def accOf (f : Nat → Nat → Nat → Half) : Tbl Half :=
  (List.range 8).foldl (fun t a => (List.range 64).foldl (fun t r => (List.range 64).foldl (fun t j =>
    Tbl.set 0 t (accKey a r j) (f a r j)) t) t) []

/-- The accumulators 131,072 bytes hold. -/
def tileAcc (b : List Byte) : Tbl Half :=
  accOf fun a r j => .ofNat 32 (natIn b (4 * (4096 * a + 64 * r + j)) 4)

/-- Undefined accumulators (R367). -/
def freeAcc (free : Nat) : Tbl Half :=
  accOf fun a r j => Config.undefinedAcc free (accKey a r j)

/-- TSAVE: the accumulators are read whole, and corrected. -/
def State.tileSave (s : State) (n : Nat) : State × Nat :=
  let c := s.clusterAt (clusterOf n)
  let base := (s.coreAt n).win.tarea.toNat
  if !c.enable then (s, 5)
  else if base % 64 ≠ 0 then (s, 3)
  else match (s.readAccs (clusterOf n)).physWrite (s.areaPart n) base c.tileBytes with
    | (s, .error _) => (s, 3)
    | (s, .ok _) => (s, 0)

/-- TLOAD. -/
def State.tileLoad (s : State) (n : Nat) : State × Nat :=
  let base := (s.coreAt n).win.tarea.toNat
  if base % 64 ≠ 0 then (s, 3)
  else match s.physRead (s.areaPart n) base 131104 with
    | (s, .error _) => (s, 3)
    | (s, .ok b) => (s.updClusterAt (clusterOf n) fun c => { c with
        enable := true, cfg := .ofNat 32 (natIn b 131072 4), acc := tileAcc b, badAcc := [], softAcc := [] }, 0)

/-- TENABLE, with the state of R217. -/
def State.tileEnable (s : State) (n : Nat) : State × Nat :=
  (s.updClusterAt (clusterOf n) fun c =>
    { c with enable := true, cfg := 0x00003F3F, acc := [], badAcc := [], softAcc := [] }, 0)

/-- TDISABLE. What the accumulators then hold is undefined, and nothing reads them before TENABLE or TLOAD writes them
(log 24). -/
def State.tileDisable (s : State) (n : Nat) : State × Nat :=
  (s.used.updClusterAt (clusterOf n) fun c => { c with enable := false, acc := freeAcc s.free }, 0)

/-- R367, R381. -/
def execVsave (core : Nat) (s : State) : Host.Outcome State Fault Refusal :=
  windowCommand core 1 s fun s => s.vectorSave core

/-- R367, R381, R37. -/
def execVload (core : Nat) (s : State) : Host.Outcome State Fault Refusal :=
  windowCommand core 2 s fun s => s.vectorLoad core

/-- R367, R145. -/
def execVclear (core : Nat) (s : State) : Host.Outcome State Fault Refusal :=
  windowCommand core 3 s fun s => s.vectorClear core

/-- R367. -/
def execTsave (core : Nat) (s : State) : Host.Outcome State Fault Refusal :=
  windowCommand core 4 s fun s => s.tileCommand core fun s => s.tileSave core

/-- R367. -/
def execTload (core : Nat) (s : State) : Host.Outcome State Fault Refusal :=
  windowCommand core 5 s fun s => s.tileCommand core fun s => s.tileLoad core

/-- R367, R217. -/
def execTenable (core : Nat) (s : State) : Host.Outcome State Fault Refusal :=
  windowCommand core 6 s fun s => s.tileCommand core fun s => s.tileEnable core

/-- R367. -/
def execTdisable (core : Nat) (s : State) : Host.Outcome State Fault Refusal :=
  windowCommand core 7 s fun s => s.tileCommand core fun s => s.tileDisable core

/-- R367: CMDSTAT takes the status of the command whose effect is done; of a stopped partition none does (R387). -/
def execWindowCommandDone (core : Nat) (s : State) : Host.Outcome State Fault Refusal :=
  let w := (s.coreAt core).win
  .next (if w.cmdstat = 1 && decide (8 ≤ w.cmd) && !s.halted core then
      s.updCoreAt core fun c => { c with win := { c.win with cmd := 0, cmdstat := w.cmd - 8 } }
    else s)

/-- R365: a write to a window field, by whatever has the window mapped. -/
def execWindowFieldWrite (core : Nat) (off : Nat) (val : BitVec 64) (s : State) : Host.Outcome State Fault Refusal :=
  .next (if off % 8 = 0 && decide (off < 4096) && decide (core < 7200) then s.windowWrite core off val else s)

/-! ## Recovery (R398, R399) -/

/-- Some context of a partition is not saved. -/
def State.busyRegions (s : State) (p : Nat) : Bool :=
  (s.partAt p).regions.any fun r => r.rcb.launch && !(r.phase == .ready)

/-- R398. -/
def execRecoveryQuiet (part : Nat) (s : State) : Host.Outcome State Fault Refusal :=
  .next (if (s.partAt part).recov.hold && !s.busyRegions part then
      s.updPartAt part fun q => { q with recov := { q.recov with quiet := true } }
    else s)

/-- The online clusters of a partition. -/
def State.onlineList (s : State) (p : Nat) : List Nat :=
  (s.hub.clusterAtt.filter fun e => decide (e.2.state = 2) && decide (e.2.part = p)).map fun e => e.1

/-- The scratchpad and accumulators of a cluster read whole by an image's save: what is corrected is counted, what cannot
be is counted and reported, and keeps its bits (R239, R400, R402). -/
def State.readCluster (s : State) (c : Nat) : State :=
  let lo := scratchKey c 0
  let bad := s.hub.badWords.filter fun w => decide (lo < w * 16 + 16) && decide (w * 16 < lo + scratchBytes)
  bad.foldl (fun s w => s.detect (some c) (w * 16)) ((s.correct lo scratchBytes).readAccs c)

/-- What an image holds of a cluster. -/
def State.clusterImage (s : State) (c : Nat) : ClusterImage :=
  let lo := scratchKey c 0
  let k := s.clusterAt c
  ⟨c, s.mem.filter fun e => decide (lo ≤ e.1) && decide (e.1 < lo + scratchBytes), k.acc, k.fifos⟩

/-- A cluster brought back to what an image holds of it; its words and elements are written whole (R403). -/
def State.restoreCluster (s : State) (i : ClusterImage) : State :=
  let lo := scratchKey i.cluster 0
  let s := (s.zeroRange lo scratchBytes).repair lo scratchBytes
  let s := { s with mem := i.scratch.foldl (fun m (e : Nat × Byte) => Tbl.set unlisted m e.1 e.2) s.mem }
  s.updClusterAt i.cluster fun c => { c with acc := i.acc, badAcc := [], softAcc := [], fifos := i.fifos }

/-- An image address is aligned and lies in LPDDR-6 memory (R398). -/
def imageAddrOk (a : Nat) : Bool := a % 65536 == 0 && spaceOf a == some .lpddr

/-- The bytes of an image. -/
def Image.bytes (im : Image) : List Byte := (List.range im.size).map (Config.imageByte im.seed)

/-- The most bytes that an image has for a number of clusters (R399). -/
def imageLimit (clusters : Nat) : Nat := 3670016 * clusters + 4194304

/-- The state an image's save leaves, with its status. -/
def State.saveImage (s : State) (p : Nat) : State × Nat :=
  let q := s.partAt p
  let a := q.recov.img
  let clusters := s.onlineList p
  let size := 1 + Config.imageSize s.free % imageLimit clusters.length
  let im : Image := ⟨p, s.free, size, q.regions, clusters.map s.clusterImage⟩
  if !imageAddrOk a.toNat then (s, 3)
  else match (clusters.foldl State.readCluster s.used).physWrite q a.toNat im.bytes with
    | (s, .error _) => (s, 3)
    | (s, .ok _) =>
      ((s.updHub fun h => { h with images := im :: h.images }).updPartAt p fun q =>
        { q with recov := { q.recov with size := size } }, 0)

/-- The bytes of an image stand at an address of its partition. -/
def State.imageAt (s : State) (q : Part) (a : Nat) (im : Image) : Bool :=
  match physRuns q (im.size / 4096 + 2) a im.size with
  | some runs => s.runBytes runs == im.bytes
  | none => false

/-- A saved core is one that a switch saves: of a cluster, at U, its strip lengths in order (R15, R110). -/
def Core.savable (c : Core) : Bool :=
  decide (c.level = .u) && decide (c.strip.floor ≤ c.strip.len) && decide (c.strip.len ≤ c.strip.granted)

/-- What another package's image holds is what a save writes: saved contexts, and scratchpads within their clusters
(R399). -/
def Image.sound (im : Image) : Bool :=
  (im.regions.all fun r => r.saved.all fun c => c.core.savable) &&
  im.clusters.all fun c => c.scratch.all fun e =>
    decide (scratchKey c.cluster 0 ≤ e.1) && decide (e.1 < scratchKey c.cluster 0 + scratchBytes)

/-- An image's bytes read from an address of a partition, its first 64 before the rest: one that this package has saved, or
one that another has (log 21). -/
def State.readImage (s : State) (q : Part) (a limit : Nat) : State × Option Image := match s.physRead q a 64 with
  | (s, .error _) => (s, none)
  | (s, .ok head) => match s.hub.images.find? (s.imageAt q a) with
    | some im => match s.physRead q a im.size with
      | (s, .error _) => (s, none)
      | (s, .ok _) => (s, some im)
    | none =>
      if limit < Config.foreignSize head then (s, none)
      else match s.physRead q a (Config.foreignSize head) with
        | (s, .error _) => (s, none)
        | (s, .ok b) => (s, (Config.foreignImage b).filter Image.sound)

/-- A restored region: a launch is in the ready set (R399). -/
def Region.reentered (r : Region) (time : Nat) : Region :=
  { r with phase := if r.rcb.launch then .ready else r.phase, since := time }

/-- The state a restore leaves, with its status: the image is the one whose bytes stand at IMG, whichever partition saved
it (log 21); launches that enter the ready set afterwards stand behind those restored (R347). -/
def State.restoreImage (s : State) (p : Nat) : State × Nat :=
  let q := s.partAt p
  let a := q.recov.img
  if !imageAddrOk a.toNat then (s, 3)
  else match s.readImage q a.toNat (imageLimit (s.onlineList p).length) with
    | (s, some im) =>
      if im.clusters.map (fun c => c.cluster) ≠ s.onlineList p then (s, 4)
      else
        let (s, time) := s.now
        let s := im.clusters.foldl State.restoreCluster s
        (s.updPartAt p fun q => { q.withRegions (im.regions.map fun r => r.reentered time) with
          nextReg := im.regions.foldl (fun m r => max m (r.regid + 1)) q.nextReg
          readySeq := im.regions.foldl (fun m r => max m r.order) q.readySeq }, 0)
    | (s, none) => (s, 3)

/-- R399: a recovery command with no end yet takes its effect. -/
def recoveryEffect (p k base : Nat) (s : State) (body : State → State × Nat) : Host.Outcome State Fault Refusal :=
  let r := (s.partAt p).recov
  .next (if r.stat = 1 && r.cmd = k then
      let t := body s
      t.1.updPartAt p fun q => { q with recov := { q.recov with cmd := base + t.2 } }
    else s)

/-- R399. -/
def execRecoverySave (part : Nat) (s : State) : Host.Outcome State Fault Refusal :=
  recoveryEffect part 1 8 s fun s => s.saveImage part

/-- R399. -/
def execRecoveryRestore (part : Nat) (s : State) : Host.Outcome State Fault Refusal :=
  recoveryEffect part 2 16 s fun s => s.restoreImage part

/-- R399: STAT takes the status of the command whose effect is done. -/
def execRecoveryCommandDone (part : Nat) (s : State) : Host.Outcome State Fault Refusal :=
  let r := (s.partAt part).recov
  .next (if r.stat = 1 && decide (8 ≤ r.cmd) then
      s.updPartAt part fun q => { q with recov := { q.recov with cmd := 0, stat := r.cmd % 8 } }
    else s)

/-! ## Draining (R339) -/

/-- No context is placed on a cluster. -/
def State.clusterEmpty (s : State) (c : Nat) : Bool := (List.range 9).all fun i => (s.coreAt (9 * c + i)).run == .absent

/-- An online cluster names a hub hart. -/
def State.hubNamed (s : State) (h : Nat) : Bool :=
  s.hub.clusterAtt.any fun e => decide (e.2.state = 2) && decide (e.2.hub = h)

/-- A draining hub hart that no online cluster names becomes offline and stops running. -/
def State.drainHub (s : State) (h : Nat) : State :=
  let a := s.attachAt (.hubHart h)
  if a.state = 3 && !s.hubNamed h then
    (s.setAttach (.hubHart h) { a with state := 1 }).updCoreAt (7200 + h) fun c => { c with run := .absent, wait := .none }
  else s

/-- R339. -/
def execResourceDrained (res : Res) (s : State) : Host.Outcome State Fault Refusal :=
  .next (match res with
    | .cluster c =>
      let a := s.attachAt (.cluster c)
      let s := if a.state = 3 && s.clusterEmpty c then s.setAttach (.cluster c) { a with state := 1 } else s
      s.drainHub a.hub
    | .hubHart h => s.drainHub h
    | .channel _ => s)

/-! ## Requests of the surveyor -/

/-- R34, R35, R377: a treadle stopped where it is stands in its tile instruction (R224). -/
def execPreemptRequest (core : Nat) (forReg : Nat) (s : State) : Host.Outcome State Fault Refusal :=
  let now := s.stopsHere core && !s.hub.power.trip && !s.halted core
  .next ((if now then s.haltTile core else s).requestPreempt core forReg)

/-- R34, R35, R224: a core that has not come to its switch is stopped where it is, one that is stopped already as it stands
(R38, R379); during a thermal trip no bound holds (R409). -/
def execPreemptFallback (core : Nat) (s : State) : Host.Outcome State Fault Refusal :=
  .next (if (s.coreAt core).preempt.isSome && !s.hub.power.trip && !s.halted core then
      (if (s.coreAt core).run = .running then s.haltTile core else s).switchOut core true
    else s)

/-- R347 to R351. -/
def execPlacement (part : Nat) (s : State) : Host.Outcome State Fault Refusal := .next (s.surveyor part)

/-- R36. -/
def execRegrantRequest (core : Nat) (lanes : Nat) (base : Nat) (forReg : Nat) (s : State) :
    Host.Outcome State Fault Refusal := .next (s.requestRegrant core lanes base forReg)

/-- R351: a raise that is still open; the hart takes it by R36. -/
def execLaneRegrantRaise (core : Nat) (lanes : Nat) (base : Nat) (s : State) : Host.Outcome State Fault Refusal :=
  .next (match s.partOf core with
    | some p =>
      if s.raiseOpen p core = some (lanes, base) && !(s.partAt p).stopped then
        s.updCoreAt core fun c => { c with regrant := some ⟨lanes, base⟩ }
      else s
    | none => s)

/-! ## Time (R345, R242) -/

/-- The budget counters of a partition at the start of a period. -/
def Part.newPeriod (q : Part) : Part :=
  { q with regions := q.regions.map fun r => { r with used := [0, 0, 0, 0, 0] } }

/-- Of k fault services of a launch that are held, those charged that its budget has room for; what is left of them
(R346). -/
def State.chargeHeld (s : State) (p id : Nat) : Nat → State × Nat
  | 0 => (s, 0)
  | k + 1 => if s.budgetLeft p id 3 then (s.charge p id 3 1).chargeHeld p id k else (s, k + 1)

/-- The held fault services of a core on the package charged as far as the budget has room. -/
def State.resumeCoreServices (s : State) (n : Nat) : State := match s.launchOf n, s.partOf n with
  | some r, some p =>
    let t := s.chargeHeld p r.regid (s.coreAt n).services
    t.1.updCoreAt n fun c => { c with services := t.2 }
  | _, _ => s

/-- The same of some of a launch's saved cores. -/
def State.savedServices (s : State) (p id : Nat) : List SavedCore → State × List SavedCore
  | [] => (s, [])
  | c :: cs =>
    let t := s.chargeHeld p id c.core.services
    let r := t.1.savedServices p id cs
    (r.1, { c with core := { c.core with services := t.2 } } :: r.2)

/-- The same of a launch's saved cores. -/
def State.resumeSavedServices (s : State) (p : Nat) (r : Region) : State :=
  let t := s.savedServices p r.regid r.saved
  t.1.updRegionAt p r.regid fun x => { x with saved := t.2 }

/-- Held fault services are charged where a budget is left again, and a core that has none left goes on (R346). DESIGN
CHOICE (log 27): those of cores on clusters first, in ascending number, then those of saved cores. -/
def State.servicesResume (s : State) : State :=
  let s := s.cores.foldl (fun (s : State) e => if e.2.services = 0 then s else s.resumeCoreServices e.1) s
  s.parts.foldl (fun (s : State) e => e.2.regions.foldl (fun s r =>
    if r.saved.all fun c => c.core.services = 0 then s else s.resumeSavedServices e.1 r) s) s

/-- R345: every budget counter is 0; what a budget held looks again. -/
def execBudgetPeriodStart (s : State) : Host.Outcome State Fault Refusal :=
  let s := s.updHub fun h => { h with clock := { h.clock with time := (h.clock.time / 64000 + 1) * 64000 } }
  let s := ({ s with parts := s.parts.map fun (e : Nat × Part) => (e.1, e.2.newPeriod) } : State).servicesResume
  let s := s.clusters.foldl (fun (s : State) (e : Nat × Cluster) => if e.2.cmds.isEmpty then s else s.pokeEngine e.1) s
  .next (s.parts.foldl (fun (s : State) (e : Nat × Part) => if e.2.state = 2 then s.later (.placement e.1) else s) s)

/-- R242: a die's refresh sequencer; the die that has shown none yet starts with bank 0. -/
def State.refreshAt (s : State) (die : Nat) : Refresh := s.hub.refresh.get ⟨false, 0⟩ die

/-- R242. -/
def execRefreshStart (die : Nat) (s : State) : Host.Outcome State Fault Refusal :=
  let r := s.refreshAt die
  .next (s.updHub fun h => { h with refresh := h.refresh.put die { r with busy := true } })

/-- R242: after it the next bank's turn comes, after bank 15 that of bank 0. -/
def execRefreshEnd (die : Nat) (s : State) : Host.Outcome State Fault Refusal :=
  let r := s.refreshAt die
  .next (if r.busy then s.updHub fun h => { h with refresh := h.refresh.put die ⟨false, (r.bank + 1) % 16⟩ } else s)

/-! ## Interrupts -/

/-- R376, R369; one that arrives while an invalidation waits is taken after it (R328). -/
def execInterruptTake (hub : Nat) (s : State) : Host.Outcome State Fault Refusal :=
  let n := 7200 + hub
  .next (if (s.coreAt n).run = .running && !((s.coreAt n).wait == .inval) then match s.interrupt n with
      | some (code, l) => s.enterInterrupt n code l
      | none => s
    else s)

/-! ## Gang slices (R352) -/

/-- The launches of a gang, in REGID order. -/
def gangRegions (q : Part) (g : Nat) : List Region :=
  q.regions.filter fun r => r.rcb.launch && decide (g ≠ 0) && decide (r.rcb.gang = g)

/-- The highest priority of some launches. -/
def topPrio (rs : List Region) : Nat := rs.foldl (fun m r => max m r.rcb.prio) 0

/-- A gang as it is before its next slice: the first that starts no earlier than now. -/
def newGang (g start per now : Nat) : Gang :=
  ⟨g, if now ≤ start then 0 else (now - start + per - 1) / per, false, [], [], false, [], []⟩

/-- Launches that may be displaced by a gang: on clusters, not of the gang, of no higher priority than its highest. -/
def displaceable (q : Part) (g prio : Nat) : List Region :=
  q.regions.filter fun r => r.rcb.launch && decide (r.rcb.gang ≠ g) && decide (r.rcb.prio ≤ prio) && !r.clusters.isEmpty

/-- The state with some launches off their clusters and no gang waiting, to choose clusters in. -/
def State.imagine (s : State) (p : Nat) (gone : List Region) : State :=
  let s := gone.foldl (fun s r =>
    (s.clearCores p r.regid).updRegionAt p r.regid fun x => { x with phase := .ready, clusters := [] }) s
  s.updPartAt p fun q => { q with gangs := [] }

/-- The cores of a gang crew put on its cluster, where it fits. -/
def State.putCrew (s : State) (p : Nat) (w : GangSeat) : Option State :=
  match s.regionAt p w.regid with
  | none => none
  | some r => (s.crewFits p r w.crew w.cluster []).map fun grants => s.startCrew p r w.crew w.cluster grants

/-- Places for the launches of a gang that have none yet, chosen by R348; a launch that fits nowhere gets none. -/
def State.chooseSeats (s : State) (p : Nat) : List Region → List GangSeat → List GangSeat
  | [], seats => seats
  | r :: rs, seats =>
    if seats.any fun w => w.regid == r.regid then s.chooseSeats p rs seats
    else match s.fitsWithout p r [] with
      | none => s.chooseSeats p rs seats
      | some w => (s.placeLaunch p r w).chooseSeats p rs
          (seats ++ w.zipIdx.map fun e => (⟨r.regid, e.2, e.1.1⟩ : GangSeat))

/-- The places of a gang's crews: those chosen at its first slice stay the same. -/
def State.gangSeats (s : State) (p : Nat) (g : Gang) (rs : List Region) : List GangSeat :=
  let old := g.seats.filter fun w => rs.any fun r => r.regid == w.regid
  if rs.all fun r => old.any fun w => w.regid == r.regid then old
  else
    let t := s.imagine p (displaceable (s.partAt p) g.gang (topPrio rs))
    let t := old.foldl (fun t w => (t.putCrew p w).getD t) t
    t.chooseSeats p rs old

/-- The start of slice n of a gang whose lowest launch is r, in ns. -/
def Region.sliceStart (r : Region) (n : Nat) : Nat := r.rcb.gstart + n * r.rcb.gper

/-- The first slice of a gang that has not ended by a moment. -/
def Region.sliceAt (r : Region) (now : Nat) : Nat :=
  if now < r.sliceStart 0 + r.rcb.glen then 0 else (now - (r.sliceStart 0 + r.rcb.glen)) / r.rcb.gper + 1

/-- A gang that runs no slice has missed those that have ended by a moment; no cluster waits for one of them. -/
def Gang.catchUp (g : Gang) (r : Region) (now : Nat) : Gang :=
  if g.live || r.sliceAt now ≤ g.slice then g else { g with slice := r.sliceAt now, waiting := [] }

/-- A gang's record, kept or new. -/
def State.gangAt (s : State) (p g : Nat) (r : Region) : Gang :=
  (((s.partAt p).gangs.find? fun x => x.gang == g).getD (newGang g r.rcb.gstart r.rcb.gper s.hub.clock.time)).catchUp r
    s.hub.clock.time

def State.setGang (s : State) (p : Nat) (g : Gang) : State :=
  s.updPartAt p fun q => { q with gangs := g :: q.gangs.filter fun x => !(x.gang == g.gang) }

/-- The crews that a gang still waits for, of launches that have not ended. -/
def State.gangWaits (s : State) (p gang : Nat) (left : List GangSeat) : State :=
  s.updPartAt p fun q => { q with gangs := q.gangs.map fun g => if g.gang = gang then
      { g with waiting := left.filter fun w => q.regions.any fun r => r.regid == w.regid } else g }

/-- `time` brought to a moment, if no budget period starts before it. -/
def State.advanceTo (s : State) (t : Nat) : Option State :=
  let now := s.hub.clock.time
  if t < (now / 64000 + 1) * 64000 then
    some (s.updHub fun h => { h with clock := { h.clock with time := max now t } })
  else none

/-- The pre-emption bound of a class in ns (R350); 1 ms for class 3 (R352). -/
def classBound (c : Nat) : Nat := if c = 0 then 10000 else if c = 1 then 100000 else 1000000

/-- A partition's surveyor starts nothing: it is stopped, held or not online. -/
def State.surveyorIdle (s : State) (p : Nat) : Bool :=
  let q := s.partAt p
  q.stopped || q.recov.hold || !(q.state == 2)

/-- The occupants of a gang's clusters that it may displace. -/
def State.inTheWay (s : State) (p gang : Nat) (seats : List GangSeat) : List Region :=
  let mine := seats.map fun w => w.cluster
  (displaceable (s.partAt p) gang (topPrio (gangRegions (s.partAt p) gang))).filter fun r => r.clusters.any mine.contains

/-- The occupants that a gang displaces, in ascending order of their rows, with those it has displaced for the slice. -/
def Gang.displaces (g : Gang) (out : List Region) : List Nat :=
  g.displaced ++ (out.map fun r => r.regid).filter fun i => !g.displaced.contains i

/-- The placed launches among some are pre-empted for a gang (R352). -/
def State.askOut (s : State) (p : Nat) (low : Region) (out : List Region) : State :=
  (out.filter fun r => r.phase == .placed).foldl (fun s r => s.vacateLaunch p r low.regid) s

/-- R352, 1: the occupants of the gang's clusters are asked to leave them. -/
def State.gangClear (s : State) (p gang : Nat) : State :=
  match gangRegions (s.partAt p) gang with
  | [] => s
  | low :: rs =>
    let g := s.gangAt p gang low
    let seats := s.gangSeats p g (low :: rs)
    let out := s.inTheWay p gang seats
    let bound := out.foldl (fun m r => max m (classBound r.rcb.lclass)) 0
    if g.live || s.surveyorIdle p then s
    else match s.advanceTo (low.sliceStart g.slice - bound) with
      | none => s
      | some s =>
        (s.setGang p { g with seats := seats, waiting := seats, displaced := g.displaces out }).askOut p low out

/-- An occupant that the gang of a launch displaces has not left a cluster yet (R352, 3). -/
def State.unquiet (s : State) (p : Nat) (r : Region) (cluster : Nat) : Bool :=
  (displaceable (s.partAt p) r.rcb.gang (topPrio (gangRegions (s.partAt p) r.rcb.gang))).any fun q => s.occupies q cluster

/-- A gang crew started, or restored, on its cluster, once the occupants displaced for it have left, where it fits and is
still due; one whose tile state is lost ends its launch, and the loss is reported (R382, R397). -/
def State.startGangCrew (s : State) (p : Nat) (w : GangSeat) : Option State :=
  match s.regionAt p w.regid with
  | none => none
  | some r =>
    let a := s.hub.clusterAtt.get Attach.none w.cluster
    let due := r.phase == .ready || (r.phase == .placed && r.crewOut w.crew)
    if !due || s.wsBlocked r || s.surveyorIdle p || !(a.state == 2 && a.part == p) || s.unquiet p r w.cluster then none
    else if r.lostCrew w.crew then some ((s.detectArea w.cluster).terminate p r.regid 4 0)
    else
      let first := !r.started
      let s := s.updRegionAt p r.regid fun x =>
        if x.started then x else { x with started := true, fresh := List.range x.rcb.ncrew, cores := x.rcb.coreCount }
      (s.putCrew p w).map fun s =>
        let (s, time) := s.now
        let at_ := (s.partAt p).gangs.flatMap fun g => (g.seats.filter fun x => x.regid == r.regid).map fun x => x.cluster
        let s := s.updRegionAt p r.regid fun x => { x with
          phase := .placed
          placedAt := if r.phase = .ready then time else x.placedAt
          clusters := if r.phase = .ready then at_ else x.clusters
          fresh := x.fresh.filter (· != w.crew)
          saved := x.saved.filter fun c => !(c.crew == w.crew)
          savedCrews := x.savedCrews.filter fun c => !(c.crew == w.crew) }
        let s := s.forgetDisplaced p r.regid
        if r.phase ≠ .ready then s
        else if first then s.cairn p r.regid 3 0 w.cluster r.rcb.ncrew else s.cairn p r.regid 5 0 w.cluster 0

/-- Waiting crews started as far as they fit; those left wait on. -/
def State.startWaiting (s : State) (p : Nat) : List GangSeat → State × List GangSeat
  | [] => (s, [])
  | w :: ws => match s.startGangCrew p w with
    | some s => s.startWaiting p ws
    | none =>
      let r := s.startWaiting p ws
      (r.1, w :: r.2)

/-- R352, 4: the last crew of a slice has started, later than the slice: the cairn says by how much. -/
def State.gangWasLate (s : State) (p : Nat) (low : Region) (slice : Nat) : State :=
  let (s, time) := s.now
  s.cairn p low.regid 8 0 noCluster (time - low.sliceStart slice)

/-- R352, 2 and 3: the slice starts; crews whose clusters are taken wait for them, and an occupant that has not been asked to
leave yet is. It does not start once it has ended, and crews that start after its own start are late. -/
def State.gangStart (s : State) (p gang : Nat) : State :=
  match gangRegions (s.partAt p) gang with
  | [] => s
  | low :: rs =>
    let g := s.gangAt p gang low
    let seats := s.gangSeats p g (low :: rs)
    if g.live || s.surveyorIdle p then s
    else match s.advanceTo (low.sliceStart g.slice) with
      | none => s
      | some s =>
        let late := decide (low.sliceStart g.slice < s.hub.clock.time)
        let out := s.inTheWay p gang seats
        let s := s.setGang p { g with
          live := true, seats := seats, late := late, waiting := [], displaced := g.displaces out }
        let r := (s.askOut p low out).startWaiting p seats
        let s := r.1.gangWaits p gang r.2
        if r.2.isEmpty && late then s.gangWasLate p low g.slice else s

/-- R352, 3 and 4: a waiting crew starts; with the last of a late slice the cairn says how late. -/
def State.gangLate (s : State) (p gang crew : Nat) : State :=
  match gangRegions (s.partAt p) gang with
  | [] => s
  | low :: _ =>
    let g := s.gangAt p gang low
    let mine := if g.live then g.waiting.filter fun w => w.crew == crew else []
    match mine.findSome? fun w => (s.startGangCrew p w).map fun t => (w, t) with
    | none => s
    | some (w, s) =>
        let left := g.waiting.filter fun x => !(x == w) && (gangRegions (s.partAt p) gang).any fun r => r.regid == x.regid
        let s := (s.updPartAt p fun q => { q with gangs := q.gangs.map fun g =>
            if g.gang = gang then { g with late := true } else g }).gangWaits p gang left
        if left.isEmpty then s.gangWasLate p low g.slice else s

/-- R352, 5: the gang's cores are pre-empted, and the displaced launches rejoin the ready set before the others of their
priority, those that have not been saved yet when they are. -/
def State.gangEnd (s : State) (p gang : Nat) : State :=
  match gangRegions (s.partAt p) gang with
  | [] => s
  | low :: rs =>
    let g := s.gangAt p gang low
    if !g.live || (s.partAt p).stopped then s
    else match s.advanceTo (low.sliceStart g.slice + low.rcb.glen) with
      | none => s
      | some s =>
        let isBack (r : Region) : Bool := g.displaced.contains r.regid && r.phase == .ready
        let tardy := (s.partAt p).regions.filter fun r => g.displaced.contains r.regid && !isBack r
        let s := s.updPartAt p fun q => { q with
          regions := q.regions.map fun r => if isBack r then { r with order := 0 } else r }
        let s := s.setGang p { g with
          live := false, slice := g.slice + 1, waiting := [], displaced := []
          overdue := g.overdue ++ tardy.map fun r => r.regid }
        let s := ((low :: rs).filter fun r => r.phase == .placed).foldl (fun s r => s.vacateLaunch p r low.regid) s
        s.later (.placement p)

/-- R352. -/
def execGangPreempt (part : Nat) (gang : Nat) (s : State) : Host.Outcome State Fault Refusal := .next (s.gangClear part gang)

/-- R352. -/
def execGangSliceStart (part : Nat) (gang : Nat) (s : State) : Host.Outcome State Fault Refusal :=
  .next (s.gangStart part gang)

/-- R352. -/
def execGangLateStart (part : Nat) (gang : Nat) (crew : Nat) (s : State) : Host.Outcome State Fault Refusal :=
  .next (s.gangLate part gang crew)

/-- R352. -/
def execGangSliceEnd (part : Nat) (gang : Nat) (s : State) : Host.Outcome State Fault Refusal := .next (s.gangEnd part gang)

end Sys2Proof.Machine
end

