-- ==== Sys2Proof/Machine/F.lean ====
section
/-!
DEFINITION. F.lean: scalar floating point (spec/05_scalar_control.md R125 to R127).
-/

namespace Sys2Proof.Machine

/-- An f operation: f gives the result and its flags from the core before it (R125, R127). -/
def floatOp (i : Instr) (s : State) (d : Nat) (f : Core → Word × Flags) : Host.Outcome State Fault Refusal :=
  issue i s fun s => .retire (s.updCore fun c => (c.setX d (f c).1).raise (f c).2)

/-- R125. -/
def execFAdd (d : Nat) (a : Nat) (b : Nat) (fm : Fm) (rm : Rm) (s : State) : Host.Outcome State Fault Refusal :=
  floatOp (.fAdd d a b fm rm) s d fun c =>
    xResult (flOf fm) rm (addV rm (xFloat (flOf fm) (c.xreg a)) (xFloat (flOf fm) (c.xreg b)))

/-- R125. -/
def execFSub (d : Nat) (a : Nat) (b : Nat) (fm : Fm) (rm : Rm) (s : State) : Host.Outcome State Fault Refusal :=
  floatOp (.fSub d a b fm rm) s d fun c =>
    xResult (flOf fm) rm (addV rm (xFloat (flOf fm) (c.xreg a)) (xFloat (flOf fm) (c.xreg b)).negate)

/-- R125. -/
def execFMul (d : Nat) (a : Nat) (b : Nat) (fm : Fm) (rm : Rm) (s : State) : Host.Outcome State Fault Refusal :=
  floatOp (.fMul d a b fm rm) s d fun c =>
    xResult (flOf fm) rm (mulV (xFloat (flOf fm) (c.xreg a)) (xFloat (flOf fm) (c.xreg b)))

/-- R125, R104: a times b plus the old x[d]. -/
def execFFma (d : Nat) (a : Nat) (b : Nat) (fm : Fm) (rm : Rm) (s : State) : Host.Outcome State Fault Refusal :=
  floatOp (.fFma d a b fm rm) s d fun c =>
    xResult (flOf fm) rm
      (fmaV rm (xFloat (flOf fm) (c.xreg a)) (xFloat (flOf fm) (c.xreg b)) (xFloat (flOf fm) (c.xreg d)))

/-- R125. -/
def execFDiv (d : Nat) (a : Nat) (b : Nat) (fm : Fm) (rm : Rm) (s : State) : Host.Outcome State Fault Refusal :=
  floatOp (.fDiv d a b fm rm) s d fun c =>
    xResult (flOf fm) rm (divV (xFloat (flOf fm) (c.xreg a)) (xFloat (flOf fm) (c.xreg b)))

/-- R125. -/
def execFSqrt (d : Nat) (a : Nat) (fm : Fm) (rm : Rm) (s : State) : Host.Outcome State Fault Refusal :=
  floatOp (.fSqrt d a fm rm) s d fun c => xResult (flOf fm) rm (sqrtV (xFloat (flOf fm) (c.xreg a)))

/-- R125, R90. -/
def execFMin (d : Nat) (a : Nat) (b : Nat) (fm : Fm) (rm : Rm) (s : State) : Host.Outcome State Fault Refusal :=
  floatOp (.fMin d a b fm rm) s d fun c =>
    xResult (flOf fm) .rne (minMaxV false (xFloat (flOf fm) (c.xreg a)) (xFloat (flOf fm) (c.xreg b)))

/-- R125, R90. -/
def execFMax (d : Nat) (a : Nat) (b : Nat) (fm : Fm) (rm : Rm) (s : State) : Host.Outcome State Fault Refusal :=
  floatOp (.fMax d a b fm rm) s d fun c =>
    xResult (flOf fm) .rne (minMaxV true (xFloat (flOf fm) (c.xreg a)) (xFloat (flOf fm) (c.xreg b)))

/-- R125, R90. -/
def execFCmp (d : Nat) (a : Nat) (b : Nat) (fm : Fm) (cond : FCond) (s : State) : Host.Outcome State Fault Refusal :=
  floatOp (.fCmp d a b fm cond) s d fun c =>
    let r := floatCmp cond (xFloat (flOf fm) (c.xreg a)) (xFloat (flOf fm) (c.xreg b))
    (if r.1 then 1 else 0, r.2)

/-- R126, R103. -/
def execFCvt (d : Nat) (a : Nat) (dk : FKind) (sk : FKind) (rm : Rm) (s : State) : Host.Outcome State Fault Refusal :=
  floatOp (.fCvt d a dk sk rm) s d fun c => floatCvt dk sk rm (c.xreg a)

/-- R125: no flag. -/
def execFClass (d : Nat) (a : Nat) (fm : Fm) (rm : Rm) (s : State) : Host.Outcome State Fault Refusal :=
  floatOp (.fClass d a fm rm) s d fun c => (.ofNat 64 (floatClass (flOf fm) (c.xreg a).toNat), 0)

end Sys2Proof.Machine
end

