-- ==== Sys2Proof/Machine/Interval.lean ====
section
/-!
DEFINITION. Interval.lean: interval sets, the q instructions and q.axpy (spec/08_intervals.md R193 to R208, R211,
spec/04_numbers.md R108, R109). A bound is an exact value (Num.lean): FP32 bounds are dyadic, and a quotient, root or
logarithm keeps a last bit that says more follows, so that every comparison with an FP32 bound is exact.
-/

namespace Sys2Proof.Machine

/-! ## Pairs (R108, R197) -/

/-- What a pair stands for (R108). -/
inductive Ival | ill | empty | span (lo hi : Val)
deriving DecidableEq, Repr

/-- A bound's value; -0 reads as 0. -/
def boundVal (b : Nat) : Val := match unpack Fl.f32 b with
  | .fin _ 0 e => .fin false 0 e
  | v => v

/-- The reading of a pair of bounds. -/
def ivalOf (lo hi : Val) : Ival :=
  if lo.isNan || hi.isNan then .ill
  else if hi.lt lo || lo = .inf false || hi = .inf true then .empty
  else .span lo hi

/-- The reading of a register's pair: lo in bits 31:0, hi in bits 63:32. -/
def readPair (w : Word) : Ival := ivalOf (boundVal (w.toNat % 2 ^ 32)) (boundVal (w.toNat / 2 ^ 32))

/-- A zero bound is written +0. -/
def plusZero (b : Nat) : Nat := if b = 0x80000000 then 0 else b

/-- The canonical pair of a reading, its bounds rounded outward. -/
def Ival.pair : Ival → Word
  | .ill => 0x7FC000007FC00000
  | .empty => 0xFF8000007F800000
  | .span lo hi => .ofNat 64 (plusZero (upF32 hi) * 2 ^ 32 + plusZero (downF32 lo))

/-! ## Sets of reals -/

/-- A non-empty set of reals between two bounds, each reached or not; an infinite bound is never reached. -/
structure Piece where
  lo : Val
  loOpen : Bool
  hi : Val
  hiOpen : Bool
deriving DecidableEq, Repr

/-- The closed set between two bounds. -/
def closed (lo hi : Val) : Piece := ⟨lo, false, hi, false⟩
/-- Zero. -/
def zeroVal : Val := .fin false 0 0
def zeroPiece : Piece := closed zeroVal zeroVal

/-- The common part of two sets, if there is any. -/
def Piece.meet (p q : Piece) : Option Piece :=
  let (lo, lc) := if p.lo.lt q.lo then (q.lo, q.loOpen) else if q.lo.lt p.lo then (p.lo, p.loOpen)
    else (p.lo, p.loOpen || q.loOpen)
  let (hi, hc) := if q.hi.lt p.hi then (q.hi, q.hiOpen) else if p.hi.lt q.hi then (p.hi, p.hiOpen)
    else (p.hi, p.hiOpen || q.hiOpen)
  if lo.lt hi || (lo.eq hi && !lc && !hc) then some ⟨lo, lc, hi, hc⟩ else none

def minVal (a b : Val) : Val := if b.lt a then b else a
def maxVal (a b : Val) : Val := if a.lt b then b else a

/-- `hullset` of a union of sets, before its bounds are rounded (R197). -/
def hullset : List Piece → Ival
  | [] => .empty
  | p :: ps => .span (ps.foldl (fun v q => minVal v q.lo) p.lo) (ps.foldl (fun v q => maxVal v q.hi) p.hi)

/-- The parts of a union inside a closed set. -/
def within (lo hi : Val) (l : List Piece) : List Piece := l.filterMap fun p => p.meet (closed lo hi)

def Piece.negate (p : Piece) : Piece := ⟨p.hi.negate, p.hiOpen, p.lo.negate, p.loOpen⟩

/-- All positive reals, and all reals that are not negative. -/
def positives : Piece := ⟨zeroVal, true, .inf false, true⟩
def nonNegatives : Piece := ⟨zeroVal, false, .inf false, true⟩

/-- A set cut at zero: its negative part turned positive, whether it has zero, its positive part. -/
structure Signs where
  neg : Option Piece
  zero : Bool
  pos : Option Piece

def Piece.signs (p : Piece) : Signs := ⟨p.negate.meet positives, (p.meet zeroPiece).isSome, p.meet positives⟩

def sumVal (a b : Val) : Val := (addV .rne a b).1
def prodVal (a b : Val) : Val := (mulV a b).1

/-- Products of two sets of positive reals. -/
def Piece.mulPos (p q : Piece) : Piece :=
  ⟨if p.lo.isZero || q.lo.isZero then zeroVal else prodVal p.lo q.lo, p.loOpen || q.loOpen,
    match p.hi, q.hi with
    | .inf _, _ | _, .inf _ => .inf false
    | a, b => prodVal a b,
    p.hiOpen || q.hiOpen⟩

/-- Quotients of two sets of positive reals. -/
def Piece.divPos (p q : Piece) : Piece :=
  ⟨if p.lo.isZero || q.hi = .inf false then zeroVal else (divV p.lo q.hi).1, p.loOpen || q.hiOpen,
    if p.hi = .inf false || q.lo.isZero then .inf false else (divV p.hi q.lo).1,
    p.hiOpen || q.loOpen⟩

/-- An operation on the non-zero parts of two sets whose result has the product of the signs. -/
def signed (f : Piece → Piece → Piece) (p q : Signs) : List Piece :=
  let both (a b : Option Piece) (neg : Bool) : List Piece := match a, b with
    | some a, some b => [if neg then (f a b).negate else f a b]
    | _, _ => []
  both p.pos q.pos false ++ both p.neg q.neg false ++ both p.pos q.neg true ++ both p.neg q.pos true

/-- { p r : p in x, r in y }. -/
def products (x y : Piece) : List Piece :=
  let p := x.signs
  let q := y.signs
  let some? (s : Signs) : Bool := s.zero || s.neg.isSome || s.pos.isSome
  signed Piece.mulPos p q ++ (if (p.zero && some? q) || (q.zero && some? p) then [zeroPiece] else [])

/-- The non-zero reals of a set. -/
def nonZero (y : Piece) : List Piece :=
  y.signs.pos.toList ++ (y.signs.neg.map Piece.negate).toList

/-- { p / r : p in x, r in y, r not 0 }. -/
def quotients (x y : Piece) : List Piece :=
  signed Piece.divPos x.signs y.signs ++ (if x.signs.zero && !(nonZero y).isEmpty then [zeroPiece] else [])

/-- p + r and p - r of two closed sets; a bound with an infinite part is infinite. -/
def lowSum (a b : Val) : Val := if a = .inf true || b = .inf true then .inf true else sumVal a b
def highSum (a b : Val) : Val := if a = .inf false || b = .inf false then .inf false else sumVal a b
def addPiece (x y : Piece) : Piece := closed (lowSum x.lo y.lo) (highSum x.hi y.hi)
def subPiece (x y : Piece) : Piece := addPiece x y.negate

/-- The root of a bound that is not negative. -/
def rootVal (v : Val) : Val := (sqrtV v).1

/-- 2^v of a bound; beyond 1024 in magnitude it stands beyond every FP32 value. -/
def powVal : Val → Val
  | .inf neg => if neg then zeroVal else .inf false
  | v =>
    if (Val.fin false 1 10).lt v then .fin false 1 1024
    else if v.lt (.fin true 1 10) then .fin false 1 (-1024)
    else (exp2V v).1

/-- log2 of a bound that is not negative. -/
def logVal (v : Val) : Val := if v.isZero then .inf true else (log2V v).1

/-! ## The operations (R199, R200, R202) -/

/-- The interval functions; axpy holds w. -/
inductive IvOp | add | sub | mul | div | sqr | sqrt | exp | log | min | max | axpy (w : Val)
deriving DecidableEq, Repr

/-- w times a closed set. -/
def scalePiece (w : Val) (x : Piece) : Piece :=
  if w.isZero then zeroPiece
  else
    let m (v : Val) : Val := prodVal w v
    if w.neg? then closed (m x.hi) (m x.lo) else closed (m x.lo) (m x.hi)

/-- A closed set divided by a non-zero w. -/
def unscale (w : Val) (x : Piece) : Piece :=
  let q (v : Val) : Val := (divV v w).1
  if w.neg? then closed (q x.hi) (q x.lo) else closed (q x.lo) (q x.hi)

def minPiece (x y : Piece) : Piece := closed (minVal x.lo y.lo) (minVal x.hi y.hi)

/-- The squares of a set of reals. -/
def squares (x : Piece) : List Piece :=
  let s := x.signs
  let sq (p : Piece) : Piece := p.mulPos p
  s.pos.toList.map sq ++ s.neg.toList.map sq ++ (if s.zero then [zeroPiece] else [])

/-- The image of two sets under a function; a unary one ignores y. -/
def image (op : IvOp) (x y : Piece) : List Piece :=
  match op with
  | .add => [addPiece x y]
  | .sub => [subPiece x y]
  | .mul => products x y
  | .div => quotients x y
  | .sqr => squares x
  | .sqrt => (x.meet nonNegatives).toList.map fun p => ⟨rootVal p.lo, p.loOpen, rootVal p.hi, p.hiOpen⟩
  | .exp => [⟨powVal x.lo, x.loOpen, powVal x.hi, x.hiOpen⟩]
  | .log => (x.meet positives).toList.map fun p => ⟨logVal p.lo, p.loOpen, logVal p.hi, p.hiOpen⟩
  | .min => [minPiece x y]
  | .max => [(minPiece x.negate y.negate).negate]
  | .axpy w => [addPiece (scalePiece w x) y]

/-- A function of one operand. -/
def IvOp.unary : IvOp → Bool
  | .sqr | .sqrt | .exp | .log => true
  | _ => false

/-- w of q.axpy is a NaN or an infinity. -/
def IvOp.bad : IvOp → Bool
  | .axpy (.fin _ _ _) => false
  | .axpy _ => true
  | _ => false

/-- R199, R200. -/
def forward (op : IvOp) (x y : Ival) : Ival :=
  if op.bad || x = .ill || y = .ill then .ill
  else match x, y with
    | .span xl xh, .span yl yh => hullset (image op (closed xl xh) (closed yl yh))
    | _, _ => .empty

/-- The operands p of min for which some r of y gives a result in z: p itself is the smaller, or r is. -/
def minSource (y z : Piece) : List Piece :=
  (z.meet (closed (.inf true) y.hi)).toList ++
  (y.meet z).toList.map fun m => closed m.lo (.inf false)

/-- The values of the first operand that reach z with some r of y (R202). -/
def sourceA (op : IvOp) (x y z : Piece) : List Piece :=
  match op with
  | .add => [subPiece z y]
  | .sub => [addPiece z y]
  | .mul =>
    quotients z y ++ (if y.signs.zero && z.signs.zero then [x] else [])
  | .div => (nonZero y).flatMap fun r => products z r
  | .sqr => (z.meet nonNegatives).toList.flatMap fun p =>
      let r : Piece := ⟨rootVal p.lo, p.loOpen, rootVal p.hi, p.hiOpen⟩
      [r, r.negate]
  | .sqrt => (z.meet nonNegatives).toList.flatMap squares
  | .exp => (z.meet positives).toList.map fun p => ⟨logVal p.lo, p.loOpen, logVal p.hi, p.hiOpen⟩
  | .log => [⟨powVal z.lo, z.lo = .inf true, powVal z.hi, z.hiOpen⟩]
  | .min => minSource y z
  | .max => (minSource y.negate z.negate).map Piece.negate
  | .axpy w => if w.isZero then (y.meet z).toList.map fun _ => x else [unscale w (subPiece z y)]

/-- The values of the second operand that reach z with some p of x (R202). -/
def sourceB (op : IvOp) (x y z : Piece) : List Piece :=
  match op with
  | .add => [subPiece z x]
  | .sub => [subPiece x z]
  | .mul => quotients z x ++ (if x.signs.zero && z.signs.zero then [y] else [])
  | .div =>
    signed Piece.divPos x.signs z.signs ++ (if x.signs.zero && z.signs.zero then nonZero y else [])
  | .min => minSource x z
  | .max => (minSource x.negate z.negate).map Piece.negate
  | .axpy w => [subPiece z (scalePiece w x)]
  | _ => []

/-- R202: the narrowed operands. -/
def contract (op : IvOp) (x y z : Ival) : Ival × Ival :=
  if op.bad || z = .ill || x = .ill || y = .ill then (x, y)
  else match x, y, z with
    | .span xl xh, .span yl yh, .span zl zh =>
      let x := closed xl xh
      let y := closed yl yh
      let z := closed zl zh
      (hullset (within xl xh (sourceA op x y z)), hullset (within yl yh (sourceB op x y z)))
    | _, _, _ => (.empty, .empty)

/-- The exact width of an operand. -/
def widthVal (lo hi : Val) : Val := (addV .rne hi lo.negate).1

def Val.finite : Val → Bool
  | .fin _ _ _ => true
  | _ => false

/-- A bound moves from a to b by more than t w, or from infinity to a finite value (R203). -/
def boundProgress (t w a b : Val) : Bool :=
  if a.finite then
    w.finite && b.finite && (let m := widthVal a b
      (prodVal t w).lt (if m.neg? then m.negate else m))
  else b.finite

/-- R203: an operand's progress, from its readings before and after. -/
def progress (t : Val) (x x2 : Ival) : Bool :=
  match x, x2 with
  | .span _ _, .empty => true
  | .span lo hi, .span lo2 hi2 =>
    let w := widthVal lo hi
    boundProgress t w lo lo2 || boundProgress t w hi hi2
  | _, _ => false

/-- The operand was non-empty and is written EMPTY. -/
def emptied (x x2 : Ival) : Bool := match x, x2 with
  | .span _ _, .empty => true
  | _, _ => false

/-! ## Shapes -/

/-- Every element of the strip takes part (R195). -/
def everyElem (_ : Core) (_ : Nat) : Bool := true

def Core.ival (c : Core) (r i : Nat) : Ival := readPair (c.pairBits r i)

/-- An interval instruction: its element results, without flags, and how they are written. -/
def intervalOp (i : Instr) (s : State) (is : Issue) (reads : List Reads) (op : Core → Nat → α)
    (write : List (Nat × α) → Core → Core) : Done :=
  elements i s is reads everyElem (fun c k => (op c k, 0)) write

/-- What a contractor writes for one element: its operands, its progress, and whether one was emptied. -/
structure Narrowed where
  x : Word
  y : Word
  progress : Bool
  emptied : Bool
deriving DecidableEq, Repr

/-- One element of a contractor; with a and b one register it receives the meet (R203, R204). -/
def narrowElem (op : IvOp) (same : Bool) (t : Val) (x y z : Ival) : Narrowed :=
  let (x2, y2) := contract op x y z
  let rx := readPair x2.pair
  let ry := readPair y2.pair
  if same then
    let m := match rx, ry with
      | .span a b, .span c d => ivalOf (maxVal a c) (minVal b d)
      | .ill, _ | _, .ill => .ill
      | _, _ => .empty
    ⟨m.pair, m.pair, progress t x m, emptied x m⟩
  else if op.unary then ⟨x2.pair, 0, progress t x rx, emptied x rx⟩
  else ⟨x2.pair, y2.pair, progress t x rx || progress t y ry, emptied x rx || emptied y ry⟩

/-- PROGRESS and EMPTIED of qstat (R203). -/
def Core.setQstat (c : Core) (v : List (Nat × Narrowed)) : Core :=
  let bits : Half := (if v.any fun e => e.2.progress then 1 else 0) ||| (if v.any fun e => e.2.emptied then 2 else 0)
  { c with modes := { c.modes with qstat := c.modes.qstat ||| bits } }

/-- A forward form (R199). -/
def forwardOp (i : Instr) (s : State) (is : Issue) (op : IvOp) (d a b : Nat) : Done :=
  intervalOp i s is (pairRead a is.n ++ if op.unary then [] else pairRead b is.n)
    (fun c k =>
      let x := c.ival a k
      (forward op x (if op.unary then .span zeroVal zeroVal else c.ival b k)).pair)
    fun v c => c.setPairs d v

/-- A contractor form (R202). -/
def contractOp (i : Instr) (s : State) (is : Issue) (op : IvOp) (d a b : Nat) : Done :=
  let t := unpack Fl.f32 is.qthr.toNat
  intervalOp i s is (pairRead d is.n ++ pairRead a is.n ++ if op.unary then [] else pairRead b is.n)
    (fun c k => narrowElem op (!op.unary && a == b) t (c.ival a k)
      (if op.unary then .span zeroVal zeroVal else c.ival b k) (c.ival d k))
    fun v c =>
      let c := c.setPairs a (v.map fun e => (e.1, e.2.x))
      let c := if op.unary then c else c.setPairs b (v.map fun e => (e.1, e.2.y))
      (c.setMasks 23 (v.map fun e => (e.1, e.2.progress))).setQstat v

/-- An arithmetic form with its contractor twin. -/
def arithInterval (i : Instr) (s : State) (op : IvOp) (d a b : Nat) (c : Bool) : Host.Outcome State Fault Refusal :=
  issue i s fun s =>
    let is := s.issued s.cur a b d
    if c then contractOp i s is op d a b else forwardOp i s is op d a b

/-- q.hull: an empty operand contributes nothing (R201). -/
def hullIval (x y : Ival) : Ival := match x, y with
  | .ill, _ | _, .ill => .ill
  | .empty, v => v
  | v, .empty => v
  | .span a b, .span c d => .span (minVal a c) (maxVal b d)

/-- q.meet (R201). -/
def meetIval (x y : Ival) : Ival := match x, y with
  | .ill, _ | _, .ill => .ill
  | .span a b, .span c d => ivalOf (maxVal a c) (minVal b d)
  | _, _ => .empty

/-- A lattice operation. -/
def latticeOp (i : Instr) (s : State) (d a b : Nat) (f : Ival → Ival → Ival) : Host.Outcome State Fault Refusal :=
  issue i s fun s =>
    let is := s.issued s.cur a b d
    intervalOp i s is (pairRead a is.n ++ pairRead b is.n) (fun c k => (f (c.ival a k) (c.ival b k)).pair)
      fun v c => c.setPairs d v

/-- The largest finite FP32, as a code. -/
def maxF32 : Nat := 0x7F7FFFFF

/-- q.mid of a non-empty interval, as a code (R206). -/
def midCode (lo hi : Val) : Nat :=
  match lo.finite, hi.finite with
  | true, true => plusZero (pack Fl.f32 .rne (prodVal (sumVal lo hi) (.fin false 1 (-1)))).1
  | false, false => 0
  | false, true => 0x80000000 + maxF32
  | true, false => maxF32

/-- q.wid of a non-empty interval, as a code (R206). -/
def widCode (lo hi : Val) : Nat :=
  if lo.finite && hi.finite then plusZero (upF32 (widthVal lo hi)) else 0x7F800000

/-- A form that writes an FP32 vector from intervals: the code of a non-empty one, of an empty one, of an ill one
(R206). -/
def measureOp (i : Instr) (s : State) (d a : Nat) (f : Val → Val → Nat) (e : Nat) : Host.Outcome State Fault Refusal :=
  issue i s fun s =>
    let is := s.issued s.cur a 0 d
    intervalOp i s is (pairRead a is.n)
      (fun c k => BitVec.ofNat 32 (match c.ival a k with
        | .ill => 0x7FC00000
        | .empty => e
        | .span lo hi => f lo hi))
      (writeVec d .fp32)

/-- q.cmp: the certainly and possibly bits (R208). -/
def compareIval (cond : QCond) (x y : Ival) : Bool × Bool := match x, y with
  | .span xl xh, .span yl yh =>
    let same := xl.eq xh && yl.eq yh && xl.eq yl
    let apart := xh.lt yl || yh.lt xl
    match cond with
    | .lt => (xh.lt yl, xl.lt yh)
    | .le => (xh.le yl, xl.le yh)
    | .eq => (same, !apart)
    | .ne => (apart, !same)
  | _, _ => (false, false)

/-- A vector source's value, -0 read as 0 (R205). -/
def pointVal (t : Tag) (h : Half) : Val := match slotVal t h with
  | .fin _ 0 e => .fin false 0 e
  | v => v

/-- q.pt's element (R205). -/
def pointIval : Val → Ival
  | .nan _ => .ill
  | .inf _ => .empty
  | v => .span v v

/-! ## The instructions -/

/-- R199, R202. -/
def execQAdd (d : Nat) (a : Nat) (b : Nat) (c : Bool) (s : State) : Host.Outcome State Fault Refusal :=
  arithInterval (.qAdd d a b c) s .add d a b c

/-- R199, R202. -/
def execQSub (d : Nat) (a : Nat) (b : Nat) (c : Bool) (s : State) : Host.Outcome State Fault Refusal :=
  arithInterval (.qSub d a b c) s .sub d a b c

/-- R199, R202. -/
def execQMul (d : Nat) (a : Nat) (b : Nat) (c : Bool) (s : State) : Host.Outcome State Fault Refusal :=
  arithInterval (.qMul d a b c) s .mul d a b c

/-- R199, R202. -/
def execQDiv (d : Nat) (a : Nat) (b : Nat) (c : Bool) (s : State) : Host.Outcome State Fault Refusal :=
  arithInterval (.qDiv d a b c) s .div d a b c

/-- R199, R202. -/
def execQSqr (d : Nat) (a : Nat) (c : Bool) (s : State) : Host.Outcome State Fault Refusal :=
  arithInterval (.qSqr d a c) s .sqr d a 0 c

/-- R199, R202. -/
def execQSqrt (d : Nat) (a : Nat) (c : Bool) (s : State) : Host.Outcome State Fault Refusal :=
  arithInterval (.qSqrt d a c) s .sqrt d a 0 c

/-- R199, R202. -/
def execQExp (d : Nat) (a : Nat) (c : Bool) (s : State) : Host.Outcome State Fault Refusal :=
  arithInterval (.qExp d a c) s .exp d a 0 c

/-- R199, R202. -/
def execQLog (d : Nat) (a : Nat) (c : Bool) (s : State) : Host.Outcome State Fault Refusal :=
  arithInterval (.qLog d a c) s .log d a 0 c

/-- R199, R202. -/
def execQMin (d : Nat) (a : Nat) (b : Nat) (c : Bool) (s : State) : Host.Outcome State Fault Refusal :=
  arithInterval (.qMin d a b c) s .min d a b c

/-- R199, R202. -/
def execQMax (d : Nat) (a : Nat) (b : Nat) (c : Bool) (s : State) : Host.Outcome State Fault Refusal :=
  arithInterval (.qMax d a b c) s .max d a b c

/-- R201. -/
def execQHull (d : Nat) (a : Nat) (b : Nat) (s : State) : Host.Outcome State Fault Refusal :=
  latticeOp (.qHull d a b) s d a b hullIval

/-- R201. -/
def execQMeet (d : Nat) (a : Nat) (b : Nat) (s : State) : Host.Outcome State Fault Refusal :=
  latticeOp (.qMeet d a b) s d a b meetIval

/-- R207. -/
def execQSplit (d : Nat) (a : Nat) (s : State) : Host.Outcome State Fault Refusal :=
  issue (.qSplit d a) s fun s =>
    let is := s.issued s.cur a 0 d
    intervalOp (.qSplit d a) s is (pairRead a is.n)
      (fun c k => match c.ival a k with
        | .span lo hi =>
          let m := boundVal (midCode lo hi)
          ((Ival.span lo m).pair, (Ival.span m hi).pair)
        | v => (v.pair, v.pair))
      fun v c => (c.setPairs d (v.map fun e => (e.1, e.2.1))).setPairs a (v.map fun e => (e.1, e.2.2))

/-- R208. -/
def execQCmp (d : Nat) (a : Nat) (b : Nat) (cond : QCond) (s : State) : Host.Outcome State Fault Refusal :=
  issue (.qCmp d a b cond) s fun s =>
    let is := s.issued s.cur a b d
    intervalOp (.qCmp d a b cond) s is (pairRead a is.n ++ pairRead b is.n)
      (fun c k => compareIval cond (c.ival a k) (c.ival b k))
      fun v c => (c.setMasks d (v.map fun e => (e.1, e.2.1))).setMasks (d + 1) (v.map fun e => (e.1, e.2.2))

/-- R205. -/
def execQMk (d : Nat) (a : Nat) (b : Nat) (s : State) : Host.Outcome State Fault Refusal :=
  issue (.qMk d a b) s fun s =>
    let is := s.issued s.cur a b d
    if !(Tag.isFloat is.ta && Tag.isFloat is.tb) then leadWord s (.qMk d a b) 9
    else intervalOp (.qMk d a b) s is [vecRead a is.n, vecRead b is.n]
      (fun c k => (ivalOf (pointVal is.ta (c.elem a k)) (pointVal is.tb (c.elem b k))).pair)
      fun v c => c.setPairs d v

/-- R205. -/
def execQPt (d : Nat) (a : Nat) (s : State) : Host.Outcome State Fault Refusal :=
  issue (.qPt d a) s fun s =>
    let is := s.issued s.cur a 0 d
    if !(Tag.isFloat is.ta) then leadWord s (.qPt d a) 9
    else intervalOp (.qPt d a) s is [vecRead a is.n]
      (fun c k => (pointIval (pointVal is.ta (c.elem a k))).pair)
      fun v c => c.setPairs d v

/-- R206. -/
def execQLo (d : Nat) (a : Nat) (s : State) : Host.Outcome State Fault Refusal :=
  measureOp (.qLo d a) s d a (fun lo _ => plusZero (downF32 lo)) 0x7F800000

/-- R206. -/
def execQHi (d : Nat) (a : Nat) (s : State) : Host.Outcome State Fault Refusal :=
  measureOp (.qHi d a) s d a (fun _ hi => plusZero (upF32 hi)) 0xFF800000

/-- R206. -/
def execQWid (d : Nat) (a : Nat) (s : State) : Host.Outcome State Fault Refusal :=
  measureOp (.qWid d a) s d a widCode 0x7FC00000

/-- R206. -/
def execQMid (d : Nat) (a : Nat) (s : State) : Host.Outcome State Fault Refusal :=
  measureOp (.qMid d a) s d a midCode 0x7FC00000

/-- R200, R202; w is bits 31:0 of x register w, taken at issue. -/
def execQAxpy (d : Nat) (a : Nat) (b : Nat) (w : Nat) (c : Bool) (s : State) : Host.Outcome State Fault Refusal :=
  issue (.qAxpy d a b w c) s fun s =>
    let is := s.issued s.cur a b w
    let op : IvOp := .axpy (unpack Fl.f32 (is.xc.toNat % 2 ^ 32))
    if c then contractOp (.qAxpy d a b w c) s is op d a b else forwardOp (.qAxpy d a b w c) s is op d a b

end Sys2Proof.Machine
end

