-- ==== Sys2Proof/Machine/Length.lean ====
section
/-!
DEFINITION. Length.lean: the length instructions (spec/05_scalar_control.md R130 to R136, spec/07_masks_streams.md R176,
R177).
-/

namespace Sys2Proof.Machine

/-- The granule of a gr field (R46). -/
def grGranule : Gr → Nat
  | .g1 => 1
  | .g2 => 2
  | .g4 => 4
  | .g32 => 32

/-- The granule of an element size (R46). -/
def esGranule : Es → Nat
  | .t6 => 4
  | .f4 => 2
  | .mx => 32
  | _ => 1

/-- Bytes a pointer advances over c elements (R133). -/
def esBytes (c : Nat) : Es → Nat
  | .b1 => c
  | .b2 => 2 * c
  | .b4 => 4 * c
  | .b8 => 8 * c
  | .t6 => 3 * ((c + 3) / 4)
  | .f4 => (c + 1) / 2
  | .mx => (c + 31) / 32

/-- The effective limit of a length-setting instruction (R130). -/
def Core.limit (c : Core) (k : Kind) : Nat :=
  if k = .treadle then c.strip.clamp.toNat else min c.vlmax c.strip.clamp.toNat

/-- A strip of length len starts; a treadle's granule stays 8 (R131, R132); vl, vg and vfl are written whole (R401). -/
def Core.startStrip (c : Core) (k : Kind) (len gran : Nat) : Core :=
  let v : Half := .ofNat 32 len
  { c with
    strip := { c.strip with len := v, granted := v, floor := 0, gran := if k = Kind.treadle then 8 else gran } }.goodStrip
    [0, 1, 4]

/-- A length-setting instruction: a core with a pre-emption pending is switched out before it (R34, R35, R136), a
re-grant takes effect when the K bit is 0 (R36). DESIGN CHOICE (log 23): one that lowers the hart to no lanes takes effect
here too, and the instruction runs with a limit of 0, where R130 says 64 to 512 and R136's trap is for a hart that had
no lanes before. -/
def lengthSetting (i : Instr) (s : State) (kb : Bool) (body : State → Done) : Host.Outcome State Fault Refusal :=
  issue i s fun s =>
    if s.core.preempt.isSome then .gone (s.switchOut s.cur kb)
    else body (if kb then s else s.takeRegrant s.cur)

/-- `kpos` set (R213); a hart, which has none, keeps 0. -/
def Core.setKpos (c : Core) (v : Half) : Core := { c with strip := { c.strip with kpos := v } }

/-- R132. -/
def execLnSet (d : Nat) (a : Nat) (gr : Gr) (np : Nat) (kb : Bool) (s : State) : Host.Outcome State Fault Refusal :=
  lengthSetting (.lnSet d a gr np kb) s kb fun s =>
    let len := min (s.x a).toNat (s.core.limit s.kind)
    .retire (s.updCore fun c => ((c.startStrip s.kind len (grGranule gr)).setKpos 0).setX d (.ofNat 64 len))

/-- Pointer registers advanced over c elements. -/
def Core.advance (c : Core) (n b : Nat) : List Es → Core
  | [] => c
  | e :: es => (c.setX b (c.xreg b + .ofNat 64 (esBytes n e))).advance n (b + 1) es

/-- R133. -/
def execLnShuttle (d : Nat) (a : Nat) (b : Nat) (np : Nat) (kb : Bool) (es0 : Es) (es1 : Es) (es2 : Es) (es3 : Es)
    (off : BitVec 20) (s : State) : Host.Outcome State Fault Refusal :=
  lengthSetting (.lnShuttle d a b np kb es0 es1 es2 es3 off) s kb fun s =>
    let es := [es0, es1, es2, es3].take np
    let n := s.core.strip.len.toNat
    let rem := (s.x a).toNat - n
    let pc := s.core.pc
    let kpos := if s.kind = .treadle then s.core.strip.kpos + .ofNat 32 n else 0
    let s := s.updCore fun c => ((c.advance n b es).setX a (.ofNat 64 rem)).setKpos kpos
    if rem = 0 then .jump (s.setX d 0) (pc + 8)
    else
      let len := min rem (s.core.limit s.kind)
      let gran := es.foldl (fun g e => max g (esGranule e)) 1
      .jump (s.updCore fun c => (c.startStrip s.kind len gran).setX d (.ofNat 64 len)) (pc + 4 * off.signExtend 64)

/-- R176, R177. -/
def execLnTrim (d : Nat) (a : Nat) (s : State) : Host.Outcome State Fault Refusal :=
  issue (.lnTrim d a) s fun s =>
    let n := (s.x a).toNat
    let c := s.core
    let len := c.strip.len.toNat
    let j := max (c.moved n) c.strip.floor.toNat
    let s := if n < len && j < len then s.shorten s.cur j Cond.trim.code false else s
    .retire (s.setX d (s.core.strip.len.setWidth 64))

/-- A core's strip lengths zero and its lanes released (R135). -/
def Core.release (c : Core) (k : Kind) : Core :=
  let c := { c with strip := { c.strip with len := 0, granted := 0, floor := 0, kpos := 0 } }.goodStrip [0, 1, 4]
  if k = .treadle then c
  else { c with released := true, vec := Vec.reset, regrant := none, ident := { c.ident with lanes := 0, base := 0 } }

/-- R135. The surveyor looks at the freed lanes (R351); a hart that now has no lanes and a pre-emption pending is
switched at its next boundary (R377). -/
def execLnRel (s : State) : Host.Outcome State Fault Refusal :=
  issue .lnRel s fun s =>
    let s := s.updCore fun c => c.release s.kind
    let s := match s.core.preempt with
      | some q => if s.kind = Kind.hart then s.later (.preemptRequest s.cur q.forReg) else s
      | none => s
    match s.partOf s.cur with
    | some p => .retire (s.later (.placement p))
    | none => .retire s

end Sys2Proof.Machine
end

