-- ==== Sys2Proof/Machine/Mask.lean ====
section
/-!
DEFINITION. Mask.lean: the k instructions (spec/07_masks_streams.md R171 to R174).
-/

namespace Sys2Proof.Machine

/-- A mask-writing instruction: bit gives bit i of mask d from the core, what was issued, and the length it is taken
over (R172, R174). -/
def maskOp (i : Instr) (s : State) (d a b : Nat) (masks : List Nat) (bit : Issue → Core → Nat → Nat → Bool) :
    Host.Outcome State Fault Refusal :=
  issue i s fun s =>
    let is := s.issued s.cur a b d
    unsplit i s is (masks.flatMap fun k => maskRead k is.n) (fun e _ => List.range e) fun e c =>
      c.setMasks d ((List.range e).map fun k => (k, bit is c e k))

/-- The lowest index below n whose bit of mask k is 1, or n (R172, R173). -/
def Core.firstOne (c : Core) (k n : Nat) : Nat := ((List.range n).find? (c.mask k)).getD n

/-- A count over mask a below the strip length, written to x[d] (R173). -/
def maskCount (i : Instr) (s : State) (d a : Nat) (count : Core → Nat → Nat) : Host.Outcome State Fault Refusal :=
  issue i s fun s =>
    let n := s.core.strip.len.toNat
    match s.readSlots s.cur (maskRead a n) with
    | (s, false) => leadWord s i 15
    | (s, true) => .retire (s.reply s.cur d (.ofNat 64 (count s.core n)))

/-- R172. -/
def execKAnd (d : Nat) (a : Nat) (b : Nat) (s : State) : Host.Outcome State Fault Refusal :=
  maskOp (.kAnd d a b) s d a b [a, b] fun _ c _ k => c.mask a k && c.mask b k

/-- R172. -/
def execKOr (d : Nat) (a : Nat) (b : Nat) (s : State) : Host.Outcome State Fault Refusal :=
  maskOp (.kOr d a b) s d a b [a, b] fun _ c _ k => c.mask a k || c.mask b k

/-- R172. -/
def execKXor (d : Nat) (a : Nat) (b : Nat) (s : State) : Host.Outcome State Fault Refusal :=
  maskOp (.kXor d a b) s d a b [a, b] fun _ c _ k => c.mask a k != c.mask b k

/-- R172. -/
def execKAndn (d : Nat) (a : Nat) (b : Nat) (s : State) : Host.Outcome State Fault Refusal :=
  maskOp (.kAndn d a b) s d a b [a, b] fun _ c _ k => c.mask a k && !c.mask b k

/-- R172. -/
def execKNot (d : Nat) (a : Nat) (s : State) : Host.Outcome State Fault Refusal :=
  maskOp (.kNot d a) s d a 0 [a] fun _ c _ k => !c.mask a k

/-- R172. -/
def execKMov (d : Nat) (a : Nat) (s : State) : Host.Outcome State Fault Refusal :=
  maskOp (.kMov d a) s d a 0 [a] fun _ c _ k => c.mask a k

/-- R172: the sum is exact. -/
def execKWhile (d : Nat) (a : Nat) (b : Nat) (s : State) : Host.Outcome State Fault Refusal :=
  maskOp (.kWhile d a b) s d a b [] fun is _ _ k => decide (is.xa.toNat + k < is.xb.toNat)

/-- R172. -/
def execKBrka (d : Nat) (a : Nat) (s : State) : Host.Outcome State Fault Refusal :=
  maskOp (.kBrka d a) s d a 0 [a] fun _ c e k => decide (k ≤ c.firstOne a e)

/-- R172. -/
def execKBrkb (d : Nat) (a : Nat) (s : State) : Host.Outcome State Fault Refusal :=
  maskOp (.kBrkb d a) s d a 0 [a] fun _ c e k => decide (k < c.firstOne a e)

/-- R173. -/
def execKCnt (d : Nat) (a : Nat) (s : State) : Host.Outcome State Fault Refusal :=
  maskCount (.kCnt d a) s d a fun c n => ((List.range n).filter (c.mask a)).length

/-- R173. -/
def execKFirst (d : Nat) (a : Nat) (s : State) : Host.Outcome State Fault Refusal :=
  maskCount (.kFirst d a) s d a fun c n => c.firstOne a n

end Sys2Proof.Machine
end

