-- ==== Sys2Proof/Machine/Outside.lean ====
section
/-!
DEFINITION. Outside.lean: what reaches the package from outside its cores: writes of device registers and the plat
(spec/14_regions_scheduling.md R339, R340), the host link (spec/17_outside.md R388 to R391), loom ports and the time base
(R393, R396), boot, attestation, power and health (spec/18_reliability_security.md R404 to R410,
spec/15_counters.md R359).
-/

namespace Sys2Proof.Machine

/-! ## Device registers -/

/-- The identity of a register write by a level of a partition. -/
def outsider (level : Level) (part : Option Nat) : Who := ⟨7200, part, 0, level, none, .device⟩

/-- A register write of a level of a partition; one that meets permission changes nothing. -/
def State.outsideWrite (s : State) (level : Level) (part : Option Nat) (addr size : Nat) (val : Word) : State :=
  (s.regWrite (outsider level part) addr size false val.toNat).1

/-- R339. -/
def execPlatWrite (level : Level) (part : Option Nat) (addr : Nat) (size : Nat) (val : BitVec 64) (s : State) :
    Host.Outcome State Fault Refusal :=
  .next (match regOf addr with
    | some (.plat _) | some (.attach _) => s.outsideWrite level part addr size val
    | _ => s)

/-- R6. -/
def execDeviceRegisterWrite (level : Level) (part : Option Nat) (addr : Nat) (size : Nat) (val : BitVec 64) (s : State) :
    Host.Outcome State Fault Refusal := .next (s.outsideWrite level part addr size val)

/-- R357. -/
def execBudgetSnapshot (part : Nat) (regid : BitVec 64) (s : State) : Host.Outcome State Fault Refusal :=
  .next (s.snapshot part regid)

/-- R398. -/
def execRecoveryHold (part : Nat) (hold : Bool) (s : State) : Host.Outcome State Fault Refusal := .next (s.setHold part hold)

/-! ## The scrub (R340, R353) -/

/-- TLBs emptied. -/
def State.emptyTlbs (s : State) (gone : Nat → Bool) : State := { s with tlb := s.tlb.filter fun t => !gone t.holder }

/-- A translation's holder is a cluster, a core of it, or a stream of one. -/
def ofCluster (c h : Nat) : Bool :=
  decide (h = clusterTlb c) || (decide (h < 7200) && decide (clusterOf h = c)) ||
  (isStreamTlb h && decide (clusterOf (streamCore h) = c))

/-- A cluster's scratchpad, registers, accumulators, FIFOs and counters zero, its caches and TLBs empty, its enable
clear. -/
def State.scrubCluster (s : State) (c : Nat) : State :=
  let s := (s.zeroRange (scratchKey c 0) scratchBytes).repair (scratchKey c 0) scratchBytes
  let s := (List.range 9).foldl (fun s i => s.setCoreAt (9 * c + i) Core.scrubbed) s
  (s.setClusterAt c Cluster.scrubbed).emptyTlbs (ofCluster c)

/-- A hub hart's registers zero, its L1D and its TLB empty. -/
def State.scrubHub (s : State) (h : Nat) : State := (s.setCoreAt (7200 + h) Core.scrubbed).emptyTlbs (· == 7200 + h)

/-- A channel's 6 GiB zero. -/
def State.scrubChannel (s : State) (c : Nat) : State :=
  (s.zeroRange (c * channelBytes) channelBytes).repair (c * channelBytes) channelBytes

/-- R340: the scrub of an offline resource, which becomes unassigned. -/
def execFirmwareScrub (res : Res) (s : State) : Host.Outcome State Fault Refusal :=
  let a := s.attachAt res
  .next (if a.state = 1 then
      let s := match res with
        | .cluster c => s.scrubCluster c
        | .hubHart h => s.scrubHub h
        | .channel c => s.scrubChannel c
      s.setAttach res { a with state := 0 }
    else s)

/-! ## The host link (R388 to R391) -/

/-- The online partition whose VF is a number (R388). -/
def State.partOfVf (s : State) (vf : Nat) : Option Nat :=
  (s.parts.find? fun e => decide (e.2.state = 2) && decide (e.2.vf = vf)).map fun e => e.1

/-- An offset range of a VF BAR within the partition's device memory (R388). -/
def inBar (q : Part) (off size : Nat) : Bool := decide (off + size ≤ q.nch * channelBytes)

def State.answerHost (s : State) (a : HostAns) : State := { s with hostAns := s.hostAns ++ [a] }

/-- The number that stands for the PF where a VF's number is asked for. -/
def pfNumber : Nat := 16

/-- An offset range of the PF's BAR0, of 16 MiB. -/
def inPfBar (off size : Nat) : Bool := decide (off + size ≤ 0x1000000)

/-- R388: a host read of the PF's BAR0: the mirror of the hub counter block reads as H reads the block (R358, R359).
DESIGN CHOICE (log 13): where the mirror lies, and what the mailbox's bytes read as, are free. -/
def State.pfRead (s : State) (off size : Nat) : State :=
  if Config.mirrorBase ≤ off && off + size ≤ Config.mirrorBase + 0xA00 then
    match s.regRead (outsider .h none) (0xF000001500000 + (off - Config.mirrorBase)) size false with
    | (s, .ok v) => s.answerHost (.data pfNumber off size v)
    | (s, .error _) => s.answerHost (.unsupported pfNumber off)
  else s.used.answerHost (.data pfNumber off size ((Config.mailboxReads s.free).toNat % 256 ^ size))

/-- R388, R390: performed at the coherence point; past the partition's memory nothing is written. A write to the PF's
read-only mirror changes nothing, and what its mailbox takes comes by rows of its own (log 13). -/
def execHostWrite (vf : Nat) (off : Nat) (size : Nat) (val : BitVec 64) (s : State) : Host.Outcome State Fault Refusal :=
  .next (if vf = pfNumber then (if inPfBar off size then s else s.answerHost (.unsupported vf off))
  else match s.partOfVf vf with
    | none => s.answerHost (.unsupported vf off)
    | some p =>
      let q := s.partAt p
      if inBar q off size then (s.physWrite q off (leBytes size val.toNat)).1 else s.answerHost (.unsupported vf off))

/-- R388, R390, R402: the value at the coherence point; a bad word is a Completer Abort. -/
def execHostRead (vf : Nat) (off : Nat) (size : Nat) (s : State) : Host.Outcome State Fault Refusal :=
  .next (if vf = pfNumber then (if inPfBar off size then s.pfRead off size else s.answerHost (.unsupported vf off))
  else match s.partOfVf vf with
    | none => s.answerHost (.unsupported vf off)
    | some p =>
      let q := s.partAt p
      if inBar q off size then match s.physRead q off size with
        | (s, .ok bs) => s.answerHost (.data vf off size (leNat bs))
        | (s, .error _) => s.answerHost (.abort vf off)
      else s.answerHost (.unsupported vf off))

/-- R391, R387, R397: the VF's partition stops, and the reset is reported. -/
def execVfFlr (vf : Nat) (s : State) : Host.Outcome State Fault Refusal :=
  .next ((match s.partOfVf vf with
    | some p => s.stopPartition p
    | none => s).report (.flr (some vf)))

/-- R391, R397: the mailbox alone is cleared; the reset is reported. -/
def execPfFlr (s : State) : Host.Outcome State Fault Refusal :=
  .next ((s.updHub fun h => { h with mailbox := [] }).report (.flr none))

/-! ## Boot (R404 to R406) -/

/-- An image is accepted (R405). -/
def Firmware.accepts (f : Firmware) (image : Nat) : Bool :=
  Config.imageVerifies image && decide (f.minVersion ≤ Config.imageVersion image)

/-- A measurement register extended with an image's digest (R406). -/
def Firmware.measure (f : Firmware) (k image : Nat) : Firmware :=
  { f with meas := f.meas.set k (sha384 (f.meas.getD k 0 ++ Config.imageDigest image)) }

/-- A lower LMS tree holds 2^10 leaves, the upper one 2^20. -/
def lowerLeaves : Nat := 1024
def upperLeaves : Nat := 1048576

/-- A new lower tree, signed by the upper one while it has leaves. -/
def Firmware.newTree (f : Firmware) : Firmware :=
  if f.upperLeaf < upperLeaves then { f with lowerLeaf := 0, upperLeaf := f.upperLeaf + 1 }
  else { f with lowerLeaf := lowerLeaves }

/-- The firmware that an image starts, and the hypervisor it starts in turn when that verifies. DESIGN CHOICE (log 15):
the ROM extends measurement register 0 with the firmware, the firmware register 1 with the hypervisor. -/
def Firmware.start (f : Firmware) (image : Nat) : Firmware :=
  let f := { f.measure 0 image with running := some image, recovery := false }
  if f.accepts f.hypervisor then f.measure 1 f.hypervisor else f

/-- Firmware after boot: slot A, else slot B, else recovery (R405). -/
def Firmware.boot (f : Firmware) : Firmware :=
  let f := { f with running := none, recovery := true, meas := List.replicate 8 0 }.newTree
  if f.accepts f.slotA then f.start f.slotA else if f.accepts f.slotB then f.start f.slotB else f

/-- DESIGN CHOICE (log 7): hub hart 0 after boot: the hypervisor at H when it was accepted, else at M, at pc 0. -/
def Firmware.bootCore (f : Firmware) : Core :=
  if f.running.isSome && f.accepts f.hypervisor then { Core.boot with level := .h } else Core.boot

/-- What a package reset keeps of memory: the LPDDR-6 tier and the weight stores; firmware scrubs the rest (R404). -/
def keptMemory (m : List Host.Cell) : List Host.Cell :=
  m.filter fun e => decide (lpddrBase ≤ e.1) && decide (e.1 < hostBase)

/-- A 16-byte word of memory that keptMemory keeps. -/
def keptWord (k : Nat) : Bool := decide (lpddrBase ≤ 16 * k) && decide (16 * k < hostBase)

/-- Firmware starts: while it runs, step 3 has scrubbed every cluster, hub hart and channel, and hub hart 0 stands where
boot leaves it (R404). -/
def State.boots (s : State) (f : Firmware) : State :=
  let s := s.updHub fun h => { h with firmware := f }
  if f.running.isSome then { s with
    cores := (List.range 7200).map (fun n => (n, Core.scrubbed)) ++
      (7200, f.bootCore) :: (List.range 31).map fun h => (7201 + h, Core.scrubbed)
    clusters := (List.range 800).map fun c => (c, Cluster.scrubbed)
    mem := keptMemory s.mem
    tlb := []
    walks := []
    hub := { s.hub with
      badWords := s.hub.badWords.filter keptWord, softWords := s.hub.softWords.filter keptWord } }
  else s

/-- R404: package reset and boot. Fused values, the firmware images, the package number, the errors that memory holds, and
what the recovery images in it stand for (log 21), stay. -/
def execPackageReset (s : State) : Host.Outcome State Fault Refusal :=
  .next ({ State.reset with
    mem := keptMemory s.mem
    free := s.free
    hub := { Hub.reset with
      pkg := s.hub.pkg, images := s.hub.images
      badWords := s.hub.badWords.filter keptWord, softWords := s.hub.softWords.filter keptWord } }.boots
    s.hub.firmware.boot)

/-- R406: an attestation with both signatures, or a refusal when the upper tree is used up. -/
def execAttestationRequest (nonce : BitVec 256) (s : State) : Host.Outcome State Fault Refusal :=
  let f := s.hub.firmware
  let f := if lowerLeaves ≤ f.lowerLeaf then f.newTree else f
  .next (if lowerLeaves ≤ f.lowerLeaf then s.report .refusedAttestation
    else
      let versions := (f.running.map Config.imageVersion).toList ++ [f.minVersion]
      let plat := (List.range 16).map fun n => ((s.partAt n).state, (s.partAt n).vf, (s.partAt n).feat)
      let s := (s.updHub fun h => { h with firmware := { f with lowerLeaf := f.lowerLeaf + 1 } })
      s.used.report (.attestation nonce f.meas versions plat (Config.signEcdsa nonce s.free) (Config.signLms nonce s.free)))

/-- R405, R404: in recovery an image that is accepted goes into slot A and runs (log 15); boot goes on with step 3. -/
def execRecoveryImageLoad (image : Nat) (s : State) : Host.Outcome State Fault Refusal :=
  let f := s.hub.firmware
  .next (if !f.recovery then s
    else if f.accepts image then (s.boots ({ f with slotA := image }.start image)).report (.imageAccepted image)
    else s.report (.imageRefused image))

/-- R405: the fused minimum is never lowered; only firmware raises it. -/
def execSecurityVersionRaise (version : Nat) (s : State) : Host.Outcome State Fault Refusal :=
  .next (if s.hub.firmware.running.isSome then
      s.updHub fun h => { h with firmware := { h.firmware with minVersion := max h.firmware.minVersion version } }
    else s)

/-! ## Ports and time (R393, R396, R397) -/

def State.setPort (s : State) (p : Nat) (v : Port) : State := s.updHub fun h => { h with ports := h.ports.put p v }

/-- R393: with the 16th failure of one flit in a row the port is down, which is reported. -/
def execFlitResend (port : Nat) (s : State) : Host.Outcome State Fault Refusal :=
  let v := s.hub.ports.get Port.reset port
  .next (if v.down then s
    else if v.resends + 1 < 16 then s.setPort port { v with resends := v.resends + 1 }
    else (s.setPort port { v with resends := 0, down := true }).report (.portDown port))

/-- R393. -/
def execLoomPortRetrain (port : Nat) (s : State) : Host.Outcome State Fault Refusal :=
  let v := s.hub.ports.get Port.reset port
  .next (s.setPort port { v with resends := 0, down := false })

/-- R396: the offset is shown, and LOCK is set once it is within bound; `time` only slews (log 11). -/
def execTimeMessage (offs : BitVec 32) (eth : Bool) (s : State) : Host.Outcome State Fault Refusal :=
  let off := offs.toInt.natAbs
  .next ((s.now.1).updHub fun h => { h with clock := { h.clock with
    offs := offs, src := eth, lock := h.clock.lock || decide (off ≤ if eth then 1000 else 100) } })

/-! ## Power and health (R408 to R410, R359) -/

def State.updPower (s : State) (f : Power → Power) : State := s.updHub fun h => { h with power := f h.power }

/-- R408: PL, from 800 to 2,400 W. -/
def execPowerCapSet (watts : Nat) (s : State) : Host.Outcome State Fault Refusal :=
  .next (if 800 ≤ watts && watts ≤ 2400 then s.updPower fun p => { p with pl := watts } else s)

/-- R408: a lower duty above the cap or 105 °C, a higher one otherwise, of 4 to 8; none during a trip (R409). DESIGN
CHOICE (log 11): by how much is free. -/
def dutyAfter (p : Power) (watts celsius free : Nat) : Nat :=
  let k := Config.dutyStep free
  if p.trip then 0
  else if p.pl < watts || 105 < celsius then (if p.duty ≤ 4 then 4 else 4 + k % (p.duty - 4))
  else if 8 ≤ p.duty then 8 else p.duty + 1 + k % (8 - p.duty)

/-- R409: clusters issue nothing, and the trip is reported. -/
def State.trips (s : State) : State :=
  if s.hub.power.trip then s
  else (s.updPower fun p => { p with trip := true, duty := 0, trips := p.trips + 1, tj := max p.tj 115 }).report .trip

/-- R408, R410; a temperature of 115 °C or more is a trip (R409). -/
def execThrottleAdjust (watts : Nat) (celsius : Nat) (s : State) : Host.Outcome State Fault Refusal :=
  let t := s.used.updPower fun p => { p with pwr := watts, tj := celsius, duty := dutyAfter p watts celsius s.free }
  .next (if 115 ≤ celsius then t.trips else t)

/-- R409. -/
def execThermalTrip (s : State) : Host.Outcome State Fault Refusal := .next s.trips

/-- The pre-emption requests that waited for a trip's end. -/
def State.heldRequests (s : State) : List (Nat × Nat) := s.cores.filterMap fun e => e.2.requested.map fun f => (e.1, f)

/-- R409: below 100 °C issue resumes, and requests that waited arrive. DESIGN CHOICE (log 11): the duty, of 4 to 8, is
free. -/
def execTripEnd (s : State) : Host.Outcome State Fault Refusal :=
  .next (if s.hub.power.trip && decide (s.hub.power.tj < 100) then
      let duty := 4 + Config.dutyStep s.free % 5
      let t := s.used.updPower fun p => { p with trip := false, duty := duty }
      s.heldRequests.foldl (fun t e =>
        (t.updCoreAt e.1 fun c => { c with requested := none }).later (.preemptRequest e.1 e.2)) t
    else s)

/-- R359: the fields are rewritten together, with the time. -/
def execHealthUpdate (die : Nat) (drift : BitVec 32) (margin : BitVec 16) (eye0 : BitVec 16) (eye1 : BitVec 16)
    (eol : BitVec 32) (s : State) : Host.Outcome State Fault Refusal :=
  let (s, time) := s.now
  let v := s.hub.health.get Health.reset die
  .next (s.updHub fun h => { h with health := h.health.put die { v with
    drift := drift, margin := margin, eye0 := eye0, eye1 := eye1, eol := eol, updated := .ofNat 64 time } })

end Sys2Proof.Machine
end

