-- ==== Sys2Proof/Machine/Scalar.lean ====
section
/-!
DEFINITION. Scalar.lean: scalar loads, stores and atomics (spec/05_scalar_control.md R137 to R139,
spec/10_memories.md R251, R259). The ordering class and the scope change nothing here: every access performs at its
coherence point in program order (log 3).
-/

namespace Sys2Proof.Machine

/-- The address of a scalar access, its offset in units of its size (R137, R251). -/
def scalarAddr (base : Word) (off : BitVec 7) (size : Nat) : Nat :=
  (base + off.signExtend 64 * .ofNat 64 size).toNat

/-- A scalar load of size bytes, widened to a register (R137, R138). -/
def loadOp (i : Instr) (s : State) (d a : Nat) (off : BitVec 7) (size : Nat) (widen : Nat → Word) :
    Host.Outcome State Fault Refusal :=
  issue i s fun s =>
    let va := scalarAddr (s.x a) off size
    match s.loadScalar s.cur va size with
    | (t, .error c) => leadCond t i s.cur c va
    | (t, .ok v) => .retire (t.setX d (widen v))

/-- A scalar store of the low size bytes of x[d] (R251). -/
def storeOp (i : Instr) (s : State) (d a : Nat) (off : BitVec 7) (size : Nat) : Host.Outcome State Fault Refusal :=
  issue i s fun s =>
    let va := scalarAddr (s.x a) off size
    match s.storeScalar s.cur va size (s.x d).toNat with
    | (t, .error c) => leadCond t i s.cur c va
    | (t, .ok _) => .retire t

/-- The order makes the atomic an acquire (R272). -/
def Ord.acquires : Ord → Bool
  | .acq | .ar => true
  | _ => false

/-- The end of an atomic: an acquire, which covers the core's scalar path (R272), drops the lines of the L1D (R247). -/
def State.acquired (s : State) (ord : Ord) : State := if Ord.acquires ord then s.dropL1d s.cur else s

/-- A read-modify-write atomic; f gives the new word from the old (R259). -/
def atomicOp (i : Instr) (s : State) (d a : Nat) (ord : Ord) (f : Word → Word) : Host.Outcome State Fault Refusal :=
  issue i s fun s =>
    let va := (s.x a).toNat
    match s.atomic s.cur va f with
    | (t, .error c) => leadCond t i s.cur c va
    | (t, .ok old) => .retire ((t.setX d old).acquired ord)

/-- R137. -/
def execLdS8 (d : Nat) (a : Nat) (cls : Nat) (off : BitVec 7) (s : State) : Host.Outcome State Fault Refusal :=
  loadOp (.ldS8 d a cls off) s d a off 1 fun v => (BitVec.ofNat 8 v).signExtend 64

/-- R137. -/
def execLdN8 (d : Nat) (a : Nat) (cls : Nat) (off : BitVec 7) (s : State) : Host.Outcome State Fault Refusal :=
  loadOp (.ldN8 d a cls off) s d a off 1 fun v => .ofNat 64 v

/-- R137. -/
def execLdS16 (d : Nat) (a : Nat) (cls : Nat) (off : BitVec 7) (s : State) : Host.Outcome State Fault Refusal :=
  loadOp (.ldS16 d a cls off) s d a off 2 fun v => (BitVec.ofNat 16 v).signExtend 64

/-- R137. -/
def execLdN16 (d : Nat) (a : Nat) (cls : Nat) (off : BitVec 7) (s : State) : Host.Outcome State Fault Refusal :=
  loadOp (.ldN16 d a cls off) s d a off 2 fun v => .ofNat 64 v

/-- R137. -/
def execLdS32 (d : Nat) (a : Nat) (cls : Nat) (off : BitVec 7) (s : State) : Host.Outcome State Fault Refusal :=
  loadOp (.ldS32 d a cls off) s d a off 4 fun v => (BitVec.ofNat 32 v).signExtend 64

/-- R137. -/
def execLdN32 (d : Nat) (a : Nat) (cls : Nat) (off : BitVec 7) (s : State) : Host.Outcome State Fault Refusal :=
  loadOp (.ldN32 d a cls off) s d a off 4 fun v => .ofNat 64 v

/-- R137. -/
def execLdX64 (d : Nat) (a : Nat) (cls : Nat) (off : BitVec 7) (s : State) : Host.Outcome State Fault Refusal :=
  loadOp (.ldX64 d a cls off) s d a off 8 fun v => .ofNat 64 v

/-- R251. -/
def execStS8 (d : Nat) (a : Nat) (cls : Nat) (off : BitVec 7) (s : State) : Host.Outcome State Fault Refusal :=
  storeOp (.stS8 d a cls off) s d a off 1

/-- R251. -/
def execStS16 (d : Nat) (a : Nat) (cls : Nat) (off : BitVec 7) (s : State) : Host.Outcome State Fault Refusal :=
  storeOp (.stS16 d a cls off) s d a off 2

/-- R251. -/
def execStS32 (d : Nat) (a : Nat) (cls : Nat) (off : BitVec 7) (s : State) : Host.Outcome State Fault Refusal :=
  storeOp (.stS32 d a cls off) s d a off 4

/-- R251. -/
def execStX64 (d : Nat) (a : Nat) (cls : Nat) (off : BitVec 7) (s : State) : Host.Outcome State Fault Refusal :=
  storeOp (.stX64 d a cls off) s d a off 8

/-- R259. -/
def execAmAdd (d : Nat) (a : Nat) (b : Nat) (ord : Ord) (sco : Sco) (s : State) :
    Host.Outcome State Fault Refusal :=
  atomicOp (.amAdd d a b ord sco) s d a ord fun old => old + s.x b

/-- R259. -/
def execAmAnd (d : Nat) (a : Nat) (b : Nat) (ord : Ord) (sco : Sco) (s : State) :
    Host.Outcome State Fault Refusal :=
  atomicOp (.amAnd d a b ord sco) s d a ord fun old => old &&& s.x b

/-- R259. -/
def execAmOr (d : Nat) (a : Nat) (b : Nat) (ord : Ord) (sco : Sco) (s : State) :
    Host.Outcome State Fault Refusal :=
  atomicOp (.amOr d a b ord sco) s d a ord fun old => old ||| s.x b

/-- R259. -/
def execAmXor (d : Nat) (a : Nat) (b : Nat) (ord : Ord) (sco : Sco) (s : State) :
    Host.Outcome State Fault Refusal :=
  atomicOp (.amXor d a b ord sco) s d a ord fun old => old ^^^ s.x b

/-- R259. -/
def execAmMax (d : Nat) (a : Nat) (b : Nat) (ord : Ord) (sco : Sco) (s : State) :
    Host.Outcome State Fault Refusal :=
  atomicOp (.amMax d a b ord sco) s d a ord fun old => if old.slt (s.x b) then s.x b else old

/-- R259. -/
def execAmMin (d : Nat) (a : Nat) (b : Nat) (ord : Ord) (sco : Sco) (s : State) :
    Host.Outcome State Fault Refusal :=
  atomicOp (.amMin d a b ord sco) s d a ord fun old => if (s.x b).slt old then s.x b else old

/-- R259. -/
def execAmMaxn (d : Nat) (a : Nat) (b : Nat) (ord : Ord) (sco : Sco) (s : State) :
    Host.Outcome State Fault Refusal :=
  atomicOp (.amMaxn d a b ord sco) s d a ord fun old => if old.ult (s.x b) then s.x b else old

/-- R259. -/
def execAmMinn (d : Nat) (a : Nat) (b : Nat) (ord : Ord) (sco : Sco) (s : State) :
    Host.Outcome State Fault Refusal :=
  atomicOp (.amMinn d a b ord sco) s d a ord fun old => if (s.x b).ult old then s.x b else old

/-- R259. -/
def execAmSwap (d : Nat) (a : Nat) (b : Nat) (ord : Ord) (sco : Sco) (s : State) :
    Host.Outcome State Fault Refusal :=
  atomicOp (.amSwap d a b ord sco) s d a ord fun _ => s.x b

/-- R259. -/
def execAmCas (d : Nat) (a : Nat) (b : Nat) (ord : Ord) (sco : Sco) (s : State) :
    Host.Outcome State Fault Refusal :=
  atomicOp (.amCas d a b ord sco) s d a ord fun old => if old = s.x d then s.x b else old

/-- R259: a read at the coherence point. -/
def execAmLd (d : Nat) (a : Nat) (ord : Ord) (sco : Sco) (s : State) : Host.Outcome State Fault Refusal :=
  issue (.amLd d a ord sco) s fun s =>
    let va := (s.x a).toNat
    match s.loadDirect s.cur va with
    | (t, .error c) => leadCond t (.amLd d a ord sco) s.cur c va
    | (t, .ok v) => .retire ((t.setX d (.ofNat 64 v)).acquired ord)

/-- R259: a write of x[d]. -/
def execAmSt (d : Nat) (a : Nat) (ord : Ord) (sco : Sco) (s : State) : Host.Outcome State Fault Refusal :=
  issue (.amSt d a ord sco) s fun s =>
    let va := (s.x a).toNat
    match s.storeScalar s.cur va 8 (s.x d).toNat with
    | (t, .error c) => leadCond t (.amSt d a ord sco) s.cur c va
    | (t, .ok _) => .retire t

end Sys2Proof.Machine
end

