-- ==== Sys2Proof/Machine/Sync.lean ====
section
/-!
DEFINITION. Sync.lean: fences (spec/11_ordering.md R276, R278), barriers and the end of a core (spec/12_queues.md R294,
R295, spec/16_events.md R372), the wait on a word (spec/10_memories.md R261), the rider (spec/02_encoding.md R54,
R55), and the rows of their second halves.
-/

namespace Sys2Proof.Machine

/-! ## Fences -/

/-- The paths a core may name in y.xfence (R263). -/
def pathsOf : Kind → BitVec 8
  | .hart => 0xCF
  | .treadle => 0xF9
  | .hub => 0x81

/-- A scope of crew or wider. -/
def YSco.wide : YSco → Bool
  | .hart => false
  | _ => true

/-- A class is in a fence's mask, which always has class 0 (R276). -/
def inMask (cmask : BitVec 16) (c : Nat) : Bool := c == 0 || cmask.getLsbD c

/-- R276: an instruction for which the writes before it must have performed (log 3), so that what is left of the fence is
the L1D and what streams of its classes have read ahead; a consumer whose rider gives another class reads anew. -/
def execYFence (cmask : BitVec 16) (sco : YSco) (s : State) : Host.Outcome State Fault Refusal :=
  issue (.yFence cmask sco) s fun s =>
    let s := s.updCore fun c => c.dropAhead fun t => inMask cmask t.desc.cls
    .retire (if YSco.wide sco then s.dropL1d s.cur else s)

/-- An engine command of a core that may still make accesses is on a path of a mask: P3 for e.cpy and e.wsl, P6 for the
fabric commands (R262, R276). -/
def State.onPaths (s : State) (n : Nat) (pa : BitVec 8) : Bool :=
  (s.clusterAt (clusterOf n)).cmds.any fun m => decide (m.core = n) && decide (kindOf n ≠ .hub) && m.accessing &&
    (match m.kind with
      | .cpy | .wsl => pa.getLsbD 3
      | _ => pa.getLsbD 6)

/-- R276, R278, R279: with P3 or P6 in pa the fence waits for the core's commands on them; with P1 or P4 in pb what
streams have read ahead is read again. -/
def execYXfence (pa : BitVec 8) (pb : BitVec 8) (sco : YSco) (s : State) : Host.Outcome State Fault Refusal :=
  issue (.yXfence pa pb sco) s fun s =>
    let own := pathsOf s.kind
    if pa = 0 || pb = 0 || !(pa &&& ~~~own == 0) || !(pb &&& ~~~own == 0) then leadWord s (.yXfence pa pb sco) 10
    else if s.onPaths s.cur pa then .wait s .engine
    else
      let s := if pb.getLsbD 1 || pb.getLsbD 4 then s.updCore fun c => c.dropAhead fun _ => true else s
      .retire (if pb.getLsbD 0 && YSco.wide sco then s.dropL1d s.cur else s)

/-! ## Barriers -/

/-- The cores of a core's crew on its cluster. -/
def State.crewmates (s : State) (n : Nat) : List Nat := s.crewOn (clusterOf n) (s.coreAt n).ident.regid.toNat

/-- A participant of a core's crew is switched out, so that it has not arrived (R294). -/
def State.crewSaved (s : State) (n : Nat) : Bool := match s.launchOf n with
  | some r => r.saved.any fun c => decide (c.crew = (s.coreAt n).ident.crew.toNat)
  | none => false

/-- Every participant of the crew's barrier has reached it; those that ended are gone (R294). -/
def State.barrierFull (s : State) (n : Nat) : Bool :=
  !s.crewSaved n && (s.crewmates n).all fun m => (s.coreAt m).arrived

/-- Every waiting participant continues: a barrier is a token pop from the others (R294, R247). -/
def State.releaseBarrier (s : State) (n : Nat) : State :=
  (s.crewmates n).foldl (fun s m =>
    (s.updCoreAt m fun c => { c.acquire with arrived := false }).retireTo m ((s.coreAt m).pc + 4)) s

/-- A core at its barrier. -/
def State.atBarrier (s : State) (n : Nat) : Done :=
  let s := s.updCoreAt n fun c => { c with arrived := true }
  if s.barrierFull n then .gone (s.releaseBarrier n) else .wait s .barrier

/-- R294. -/
def execYBar (s : State) : Host.Outcome State Fault Refusal := issue .yBar s fun s => s.atBarrier s.cur

/-- R294: the row of the barrier's release, for the crew of a core that waits in it. -/
def execBarrierRelease (core : Nat) (s : State) : Host.Outcome State Fault Refusal :=
  .next (if (s.coreAt core).wait = .barrier && s.barrierFull core then s.releaseBarrier core else s)

/-! ## The end of a core -/

/-- The engine commands a core issued have completed. -/
def State.drained (s : State) (n : Nat) : Bool :=
  !((s.clusterAt (clusterOf n)).cmds.any fun m => decide (m.core = n))

/-- The rider's push has room, where there is one. -/
def State.riderRoom (s : State) (n : Nat) : Bool := match (s.coreAt n).rider.bind fun r => r.push with
  | some id => decide (s.fifoCount n id < 15)
  | none => true

/-- The core ends, its rider performed first (R295, R55). -/
def State.finishCore (s : State) (n : Nat) : State :=
  let s := match (s.coreAt n).rider.bind fun r => r.push with
    | some id => s.pushToken n id
    | none => s
  s.endCore n

/-- A cluster core at its y.end. -/
def State.atEnd (s : State) (n : Nat) : Done :=
  if s.drained n && s.riderRoom n then .gone (s.finishCore n) else .wait s .ending

/-- R295; on a hub hart an environment call (R372). -/
def execYEnd (s : State) : Host.Outcome State Fault Refusal :=
  issue .yEnd s fun s => if s.kind = .hub then leadWord s .yEnd 18 else s.atEnd s.cur

/-- R295: the row of a waiting core's end. -/
def execEndComplete (core : Nat) (s : State) : Host.Outcome State Fault Refusal :=
  .next (if (s.coreAt core).wait = .ending && s.drained core && s.riderRoom core then s.finishCore core else s)

/-! ## Waiting on memory -/

/-- One read of y.wait by a core (R261). -/
def State.waitRead (s : State) (n d a b : Nat) : Done :=
  let c := s.coreAt n
  let va := (c.xreg a).toNat
  match s.loadDirect n va with
  | (t, .error e) => leadCond t (.yWait d a b) n e va
  | (t, .ok v) =>
    if (c.xreg b).toNat ≤ v then .retire (t.updCoreAt n fun c => (c.setX d (.ofNat 64 v)).acquire)
    else .wait t .word

/-- R261. -/
def execYWait (d : Nat) (a : Nat) (b : Nat) (s : State) : Host.Outcome State Fault Refusal :=
  issue (.yWait d a b) s fun s => s.waitRead s.cur d a b

/-- R261: the row of a waiting core's next read. -/
def execWaitReread (core : Nat) (s : State) : Host.Outcome State Fault Refusal :=
  if (s.coreAt core).wait = .word then match s.fetch core with
    | (t, .ok (.yWait d a b)) => .next (finish (.yWait d a b) core (t.waitRead core d a b))
    | _ => .next s
  else .next s

/-! ## The rider -/

/-- A rider of a core names FIFOs it may (R54, R290). -/
def Core.riderOk (c : Core) (k : Kind) (pe : Bool) (pid : Nat) (he : Bool) (hid : Nat) : Bool :=
  (!pe || readsFifo k c.ident.hidx pid) && (!he || writesFifo k c.ident.hidx hid)

/-- R54, R55: the rider waits for its carrier, the next instruction (log 19). -/
def execRide (pe : Bool) (pid : Nat) (he : Bool) (hid : Nat) (ce : Bool) (cls : Nat) (s : State) :
    Host.Outcome State Fault Refusal :=
  let i := Instr.ride pe pid he hid ce cls
  issue i s fun s =>
    if !s.core.riderOk s.kind pe pid he hid then leadWord s i 10
    else .gone (s.updCore fun c => { c with
      pc := c.pc + 4
      rider := some ⟨c.pc, firstWord i, if pe then some pid else none, if he then some hid else none,
        if ce then some cls else none, false⟩ })

/-- R291: the row of a pop that waited: performed once, its core goes on to the carrier. -/
def execTokenPopResume (core : Nat) (s : State) : Host.Outcome State Fault Refusal :=
  .next (if (s.coreAt core).wait = .pop && !s.popWaits core then
      (s.popRider core).updCoreAt core fun c => { c with wait := .none }
    else s)

/-- R291, R292: the row of a push that waited. -/
def execTokenPushResume (core : Nat) (s : State) : Host.Outcome State Fault Refusal :=
  .next (match (s.coreAt core).push with
    | some id => if s.halted core then s else s.pushToken core id
    | none => s)

/-! ## Queues -/

/-- R287, R288: the row of a stalled dispatch that goes on: the held instruction the core has come to is the one that
resumes. -/
def execDispatchResume (core : Nat) (s : State) : Host.Outcome State Fault Refusal :=
  .next (if (s.coreAt core).wait = .dispatch then
      s.updCoreAt core fun c =>
        let c := { c with wait := .none }
        match c.takeHeld with
        | some (c, _) => c
        | none => c
    else s)

/-- R289: the row of a reply; of a core of a stopped partition none is written (R387). -/
def execReplyWrite (core : Nat) (s : State) : Host.Outcome State Fault Refusal :=
  .next (if s.halted core then s else s.updCoreAt core Core.writeReply)

end Sys2Proof.Machine
end

