-- ==== Sys2Proof/Machine/System.lean ====
section
/-!
DEFINITION. System.lean: the z instructions: traps and their return (spec/16_events.md R371 to R375), translation
invalidations (spec/13_translation.md R328, spec/11_ordering.md R281), the region tree
(spec/14_regions_scheduling.md R341 to R344), the weight store's write windows (spec/10_memories.md R243).
-/

namespace Sys2Proof.Machine

/-! ## The trap path -/

/-- R371: an environment call. -/
def execZCall (s : State) : Host.Outcome State Fault Refusal := issue .zCall s fun s => leadWord s .zCall 18

/-- R371: a breakpoint. -/
def execZBrk (s : State) : Host.Outcome State Fault Refusal := issue .zBrk s fun s => leadWord s .zBrk 17

/-- R373. -/
def execZRet (s : State) : Host.Outcome State Fault Refusal :=
  issue .zRet s fun s =>
    let c := s.core
    let t := c.trapRegs c.level
    if rankOf c.level < rankOf (statPlv t.stat) then leadWord s .zRet 10
    else .jump (s.updCore Core.trapReturn) s.core.trapReturn.pc

/-- The cluster core a hartid value names, on an online cluster of a core's partition (R374). -/
def State.targetCore (s : State) (n : Nat) (h : Word) : Option Nat :=
  match s.partOf n, s.coreOfHartid h.toNat with
  | some p, some m =>
    let a := s.hub.clusterAtt.get Attach.none (clusterOf m)
    if a.state = 2 && a.part = p then some m else none
  | _, _ => none

/-- The PC field of a window applied: with a new value the stopped instruction's progress and the held instructions are
dropped (R374). -/
def Core.applyPc (c : Core) : Core := match c.win.newPc with
  | some v => { c with pc := v, rider := none, resume := none, held := [], win := { c.win with newPc := none, prog := 0 } }
  | none => c

/-- A stopped core set going: the written fields are applied, LATCH and KIND cleared; the resumption is an acquire (R374,
R272). -/
def Core.restart (c : Core) : Core :=
  let c := c.acquire.applyPc
  { c with run := .running, wait := .none, win := { c.win with kind := .running, latch := false } }

/-- R374: the status and the state. -/
def State.resumeCore (s : State) (n : Nat) (h : Word) : State × Nat :=
  match s.targetCore n h with
  | none => (s, 2)
  | some m =>
    let c := s.coreAt m
    if c.win.cmdstat = 1 then (s, 3)
    else if c.win.kind = .running then (s, 1)
    else (s.updCoreAt m Core.restart, 0)

/-- The instruction that stands at a core's pc with nothing performed is none of those its queue holds after it (R361,
R364): issued again, it takes its registers anew. -/
def Core.leaveHead (c : Core) : Core := match c.takeHeld with
  | some (d, _) => { d with resume := none }
  | none => c

/-- A core stopped in place by the supervisor (R375): a wait or a rider without its carrier is left before its
instruction, a treadle in its tile instruction (R224), a pending push stays, and the replies of what it has performed are
written (R361). -/
def State.stopCore (s : State) (m : Nat) : State :=
  ((s.haltTile m).undoRider m).updCoreAt m fun c =>
    let progress := c.resume.filter fun is => !(is.start == 0)
    let c := { c.writeReplies with resume := progress }.leaveHead
    { c with
      run := .stopped, wait := .none, arrived := false
      win := { c.win with
        kind := .hstop, cause := 0, latch := true, tval := 0
        prog := (progress.map fun is => is.start).getD 0, newPc := none } }

/-- R375: the status and the state. -/
def State.haltCore (s : State) (n : Nat) (h : Word) : State × Nat :=
  match s.targetCore n h with
  | none => (s, 2)
  | some m =>
    let c := s.coreAt m
    if c.run = .absent then (s, 3)
    else if c.win.kind ≠ .running then (s, 1)
    else (s.stopCore m, 0)

/-- R374. -/
def execZHres (d : Nat) (a : Nat) (s : State) : Host.Outcome State Fault Refusal :=
  issue (.zHres d a) s fun s =>
    let r := s.resumeCore s.cur (s.x a)
    .retire (r.1.setX d (.ofNat 64 r.2))

/-- R375: what the caller reads after the stop is read after the stopped core's accesses, so that its L1D holds nothing
older. -/
def execZHstop (d : Nat) (a : Nat) (s : State) : Host.Outcome State Fault Refusal :=
  issue (.zHstop d a) s fun s =>
    let r := s.haltCore s.cur (s.x a)
    .retire ((if r.2 = 0 then r.1.dropL1d s.cur else r.1).setX d (.ofNat 64 r.2))

/-! ## Invalidations -/

/-- What an invalidation drops (R328): the translations of an ASID, those of a page of an ASID, or all. -/
inductive Drop | asid (n : Nat) | page (n va : Nat) | all
deriving DecidableEq, Repr

/-- A held translation is dropped; a G entry matches every ASID for a page, and none for an ASID, but for a stream's, which
go with the ASID their core runs; a 2 GiB entry that covers the page goes (R328). -/
def Drop.hits (d : Drop) (t : TlbEntry) : Bool := match d with
  | .asid n => decide (t.asid = n) && (isStreamTlb t.holder || !bitOf t.attrs 8)
  | .page n va => (decide (t.asid = n) || bitOf t.attrs 8) &&
      decide (t.page = va / if t.big then bigBytes else pageBytes)
  | .all => true

/-- A walk-cache entry is dropped: of the ASID, or on the page's path (R328). -/
def Drop.hitsWalk (d : Drop) (c : WalkEntry) : Bool := match d with
  | .asid n => decide (c.asid = n)
  | .page n va => decide (c.asid = n) && decide (c.pre = prefixOf c.level va)
  | .all => true

/-- A pattern-cache entry is dropped: for a page, every one whose extent overlaps it (R232, R328). -/
def Drop.hitsPattern (d : Drop) (p : Pattern) : Bool := match d with
  | .asid n => decide (p.asid = n)
  | .page _ va => p.overlaps (pageOf va) pageBytes
  | .all => true

/-- An engine command may still use a dropped translation (R281): one that has accesses to make. -/
def Drop.waitsFor (d : Drop) (m : Cmd) : Bool := m.accessing && match d with
  | .asid n | .page n _ => decide (m.asid = n)
  | .all => true

/-- A cluster is the partition's and not offline, so that an invalidation covers it (R330). DESIGN CHOICE (log 5): one that
drains (state 3) is covered as one that is online; R330 says only that it is still online. -/
def State.covered (s : State) (p c : Nat) : Bool :=
  let a := s.hub.clusterAtt.get Attach.none c
  decide (a.part = p) && decide (2 ≤ a.state)

/-- An invalidation covers a TLB: a cluster's, its core's or the stream of one's, or a hub hart's (R328, R330). -/
def State.coversTlb (s : State) (p h : Nat) : Bool :=
  if isStreamTlb h then s.covered p (clusterOf (streamCore h))
  else if h < 7200 then s.covered p (clusterOf h) else if 10000 ≤ h then s.covered p (h - 10000) else true

/-- The drop, over the partition's TLBs, walk caches and pattern caches. -/
def State.dropTranslations (s : State) (p : Nat) (d : Drop) : State :=
  { s with
    tlb := s.tlb.filter fun t => !(decide (t.part = p) && s.coversTlb p t.holder && d.hits t)
    walks := s.walks.filter fun c => !(decide (c.part = p) && d.hitsWalk c)
    clusters := s.clusters.map fun e =>
      if s.covered p e.1 then (e.1, e.2.dropPatterns fun k => decide (k.part = p) && d.hitsPattern k) else e }

/-- An invalidation by a hub hart: dropped, then retired once no command in progress can use what was dropped. What the
hub hart reads after it is read after all those accesses, so that its L1D holds nothing older (R281). -/
def State.invalidate (s : State) (n : Nat) (d : Drop) : Done :=
  match s.partOf n with
  | none => .retire s
  | some p =>
    let s := s.dropTranslations p d
    let busy := s.clusters.any fun e => s.covered p e.1 &&
      e.2.cmds.any fun m => m.started && decide (m.part = p) && d.waitsFor m
    if busy then .wait s .inval else .retire (s.dropL1d n)

/-- z.inva of a hub hart. -/
def State.inva (s : State) (n a : Nat) : Done :=
  let v := ((s.coreAt n).xreg a).toNat
  if 2 ^ 16 ≤ v then leadWord s (.zInva a) 10 else s.invalidate n (.asid v)

/-- z.invs of a hub hart. -/
def State.invs (s : State) (n a b : Nat) : Done :=
  let v := ((s.coreAt n).xreg a).toNat
  let va := ((s.coreAt n).xreg b).toNat
  if 2 ^ 16 ≤ v || 2 ^ 57 ≤ va then leadWord s (.zInvs a b) 10 else s.invalidate n (.page v va)

/-- R328. -/
def execZInva (a : Nat) (s : State) : Host.Outcome State Fault Refusal :=
  issue (.zInva a) s fun s => s.inva s.cur a

/-- R328. -/
def execZInvs (a : Nat) (b : Nat) (s : State) : Host.Outcome State Fault Refusal :=
  issue (.zInvs a b) s fun s => s.invs s.cur a b

/-- R328. -/
def execZInvp (s : State) : Host.Outcome State Fault Refusal := issue .zInvp s fun s => s.invalidate s.cur .all

/-- R281: the row of an acknowledgement, for a hub hart that waits for one. -/
def execInvalidationAck (hub : Nat) (s : State) : Host.Outcome State Fault Refusal :=
  let n := 7200 + hub
  if (s.coreAt n).wait = .inval then match s.fetch n with
    | (t, .ok (.zInva a)) => .next (finish (.zInva a) n (t.inva n a))
    | (t, .ok (.zInvs a b)) => .next (finish (.zInvs a b) n (t.invs n a b))
    | (t, .ok .zInvp) => .next (finish .zInvp n (t.invalidate n .all))
    | _ => .next s
  else .next s

/-! ## The region tree -/

/-- A caller's spawn root (R341); none for SROOT 0. DEDUCED (log 25): the root region is REGID 0. -/
def State.spawnRoot (s : State) (n : Nat) : Option Nat :=
  if kindOf n = .hub then some 0
  else match s.launchOf n with
    | some r => if r.rcb.sroot = 0 then none else some r.rcb.sroot
    | none => none

/-- The online clusters of a partition. -/
def State.onlineClusters (s : State) (p : Nat) : Nat :=
  (s.hub.clusterAtt.filter fun e => decide (e.2.state = 2) && decide (e.2.part = p)).length

/-- A region accepted, with its REGID (R342). -/
def State.accept (s : State) (p : Nat) (addr : Word) (b : List Byte) : State × Nat :=
  let q := s.partAt p
  let id := q.nextReg
  let rcb := rcbOf (parentRcb q.regions b) b
  let depth := (match findRegion q.regions rcb.parent with
    | some r => r.depth
    | none => 0) + 1
  let (s, time) := s.now
  let seq := q.readySeq + 1
  let r := Region.make id depth rcb (if rcb.launch then .ready else .group) seq time
  let s := s.updPartAt p fun q => { q with regions := q.regions ++ [r], nextReg := id + 1, readySeq := seq }
  ((s.cairn p id 1 0 noCluster addr.toNat).later (.placement p), id)

/-- The result of z.spawn for an RCB (R342). With no partition (log 8) no region exists. -/
def State.spawn (s : State) (n : Nat) (addr : Word) (b : List Byte) : State × Word :=
  match s.partOf n with
  | none => (s, .ofNat 64 (2 ^ 63 + if rcbBadForm b then 1 else 2))
  | some p =>
    let code := spawnCode (s.partAt p) (s.spawnRoot n) (s.onlineClusters p) b
    if code = 0 then
      let r := s.accept p addr b
      (r.1, .ofNat 64 r.2)
    else (s.cairn p (natIn b 8 4) 2 code noCluster 0, .ofNat 64 (2 ^ 63 + code))

/-- R342. -/
def execZSpawn (d : Nat) (a : Nat) (s : State) : Host.Outcome State Fault Refusal :=
  issue (.zSpawn d a) s fun s =>
    let va := s.x a
    if va.toNat % 64 ≠ 0 then .lead s Cond.misaligned.code va.toNat
    else match s.loadBlock s.cur va.toNat 32 with
      | (t, .error (c, at_)) => leadCond t (.zSpawn d a) s.cur c at_
      | (t, .ok b) =>
        let r := t.spawn s.cur va b
        .retire (r.1.setX d r.2)

/-- A subtree terminated: its launches in REGID order, then its groups (R343). -/
def State.killTree (s : State) (p id kcode : Nat) : State :=
  let sub := (s.partAt p).regions.filter fun r => below (s.partAt p).regions id r.regid
  let ids := sub.map fun r => r.regid
  let s := (sub.filter fun r => r.rcb.launch).foldl (fun s r => s.terminate p r.regid 1 kcode) s
  s.dropRegions p fun r => ids.contains r.regid

/-- R343. -/
def execZKill (d : Nat) (a : Nat) (b : Nat) (s : State) : Host.Outcome State Fault Refusal :=
  issue (.zKill d a b) s fun s =>
    let n := s.cur
    let id := (s.x a).toNat
    let missing := s.setX d (.ofNat 64 (2 ^ 63 + 2))
    match s.partOf n with
    | none => .retire missing
    | some p =>
      let rs := (s.partAt p).regions
      let own := (s.launchOf n).map fun r => r.regid
      let inRoot := match s.spawnRoot n with
        | some root => below rs root id
        | none => false
      if (findRegion rs id).isNone || !(inRoot || own == some id) then .retire missing
      else
        let mine := match own with
          | some o => below rs id o
          | none => false
        let t := s.killTree p id ((s.x b).toNat % 65536)
        if mine then .gone t else .retire (t.setX d 0)

/-- The ready launch z.yield makes room for (R344). -/
def State.yieldsTo (s : State) (p : Nat) (r : Region) : Option Region :=
  (readySet (s.partAt p).regions).find? fun h =>
    decide (r.rcb.prio ≤ h.rcb.prio) && !s.wsBlocked h &&
    (s.firstFit p h [r.regid] h.rcb.ncrew 0
      ((s.openClusters p).filter fun c => r.clusters.contains c)).isSome

/-- R344. -/
def execZYield (s : State) : Host.Outcome State Fault Refusal :=
  issue .zYield s fun s =>
    let n := s.cur
    match s.launchOf n, s.partOf n with
    | some r, some p => match (if r.phase = .placed then s.yieldsTo p r else none) with
      | some h => .gone (((s.retireTo n (s.core.pc + 4)).vacateLaunch p r h.regid).switchOut n true)
      | none => .retire s
    | _, _ => .retire s

/-! ## Write windows -/

/-- A die's weight store is the caller's partition's; with no partition (log 8), any die's is. -/
def State.ownsDie (s : State) (n die : Nat) : Bool := decide (die < 8) && (match s.partOf n with
  | some p => bitOf (s.partAt p).wsdies die
  | none => true)

/-- A placed region's mask includes a die (R243). -/
def State.dieInUse (s : State) (n die : Nat) : Bool := match s.partOf n with
  | some p => (s.partAt p).regions.any fun r => r.rcb.launch && !(r.clusters.isEmpty) && bitOf r.rcb.wsmask die
  | none => false

/-- A die's window opened: the pattern-cache entries of its clusters for its weight store go (R243, R232). -/
def State.openWindow (s : State) (die : Nat) : State :=
  { s with
    hub := { s.hub with windows := s.hub.windows.set false die true }
    clusters := s.clusters.map fun e =>
      if dieOf e.1 = die then (e.1, e.2.dropPatterns fun k => k.die == some die) else e }

/-- R243. -/
def execZWsopen (d : Nat) (a : Nat) (s : State) : Host.Outcome State Fault Refusal :=
  issue (.zWsopen d a) s fun s =>
    let n := s.cur
    let die := (s.x a).toNat
    if !s.ownsDie n die then .retire (s.setX d 2)
    else if s.hub.windows.get false die then .retire (s.setX d 3)
    else if s.dieInUse n die then .retire (s.setX d 1)
    else .retire ((s.openWindow die).setX d 0)

/-- A z.wsclose of a hub hart waits for a command of a partition: an e.wsl. -/
def Cmd.await (n p : Nat) (m : Cmd) : Cmd :=
  if m.kind == .wsl && decide (m.part = p) then { m with awaited := n :: m.awaited.filter (· != n) } else m

/-- Every e.wsl a partition's cores have in a queue, or saved with a context (R305), is awaited by a hub hart. -/
def State.awaitWsl (s : State) (n p : Nat) : State :=
  { (s.updPartAt p fun q => { q with regions := q.regions.map fun r => { r with
      saved := r.saved.map fun c => { c with cmds := c.cmds.map (Cmd.await n p) } } }) with
    clusters := s.clusters.map fun e => (e.1, { e.2 with cmds := e.2.cmds.map (Cmd.await n p) }) }

/-- A command that a hub hart waits for has not completed. -/
def State.awaiting (s : State) (n p : Nat) : Bool :=
  (s.clusters.any fun e => e.2.cmds.any fun m => m.awaited.contains n) ||
  (s.partAt p).regions.any fun r => r.saved.any fun c => c.cmds.any fun m => m.awaited.contains n

/-- The end of a z.wsclose: launches that the window held back may be placed. DESIGN CHOICE (log 4): it is no acquire of
R272, so that the hub hart's own L1D stays, and a load of it that follows may be served from a line held before. -/
def State.closeWindow (s : State) (d die : Nat) : State :=
  let t := (s.updHub fun h => { h with windows := h.windows.set false die false }).setX d 0
  match s.partOf s.cur with
  | some p => t.later (.placement p)
  | none => t

/-- R243: the checks are made once; then the close waits for the partition's e.wsl commands accepted before it. -/
def execZWsclose (d : Nat) (a : Nat) (s : State) : Host.Outcome State Fault Refusal :=
  issue (.zWsclose d a) s fun s =>
    let n := s.cur
    let die := (s.x a).toNat
    let p := (s.partOf n).getD 16
    let waited := s.core.wait == .wsclose
    if !waited && !s.ownsDie n die then .retire (s.setX d 2)
    else if !waited && !s.hub.windows.get false die then .retire (s.setX d 4)
    else
      let t := if waited then s else s.awaitWsl n p
      if t.awaiting n p then .wait t .wsclose else .retire (t.closeWindow d die)

end Sys2Proof.Machine
end

