-- ==== Sys2Proof/Machine/Vector.lean ====
section
/-!
DEFINITION. Vector.lean: vector arithmetic, logic, unary forms, compares, permutations, v.mvx and reductions
(spec/06_vector.md R150 to R162).
-/

namespace Sys2Proof.Machine

/-! ## Shapes -/

/-- An element-wise instruction with vector sources a and b and destination d; dispatch gives the result tag and the
element operation from what was issued, or a tag trap (R57 to R59). -/
def vectorOp (i : Instr) (s : State) (d a b km : Nat) (reads : Nat → List Reads)
    (dispatch : Issue → Option (Tag × (Core → Nat → Half × Flags))) : Host.Outcome State Fault Refusal :=
  issue i s fun s =>
    let is := s.issued s.cur a b d
    match dispatch is with
    | none => leadWord s i 9
    | some (t, op) =>
      elements i s is (reads is.n ++ maskRead km is.n) (fun c => c.mask km) op (writeVec d t)

/-- A binary arithmetic function (R150). -/
def arithOp (i : Instr) (s : State) (op : BinOp) (sat : Bool) (d a b km : Nat) : Host.Outcome State Fault Refusal :=
  vectorOp i s d a b km (fun n => [vecRead a n, vecRead b n]) fun is =>
    (opRow (op == .add || op == .sub) sat is.ta is.tb).map fun row =>
      (row.tag, fun c k => elemBin op sat c.ftz c.vrm row is.ta is.tb (c.elem a k) (c.elem b k))

/-- v.fma and v.fms (R150). -/
def fmaOp (i : Instr) (s : State) (neg : Bool) (d a b km : Nat) : Host.Outcome State Fault Refusal :=
  vectorOp i s d a b km (fun n => [vecRead a n, vecRead b n, vecRead d n]) fun is =>
    (fmaRow is.ta is.tb is.td).map fun row =>
      (row.tag, fun c k => elemFma neg c.ftz c.vrm row is.ta is.tb is.td (c.elem a k) (c.elem b k) (c.elem d k))

/-- A bitwise function (R151). -/
def logicOp (i : Instr) (s : State) (d a b km : Nat) (f : Half → Half → Half) : Host.Outcome State Fault Refusal :=
  vectorOp i s d a b km (fun n => [vecRead a n, vecRead b n]) fun is =>
    (logicTag is.ta is.tb).map fun t => (t, fun c k => (f (c.elem a k) (c.elem b k), 0))

/-- A shift by bits 4:0 of each element of b (R151, R58). -/
def shiftOp (i : Instr) (s : State) (d a b km : Nat) (f : Half → Nat → Half) : Host.Outcome State Fault Refusal :=
  vectorOp i s d a b km (fun n => [vecRead a n, vecRead b n]) fun is =>
    if Tag.isInt is.ta && Tag.isInt is.tb then
      some (is.ta, fun c k => (f (c.elem a k) ((c.elem b k).toNat % 32), 0))
    else none

/-- A unary function (R152); dispatch gives the result tag and the operation from tag(a). -/
def unaryOp (i : Instr) (s : State) (d a km : Nat)
    (dispatch : Tag → Option (Tag × (Core → Half → Half × Flags))) : Host.Outcome State Fault Refusal :=
  vectorOp i s d a 0 km (fun n => [vecRead a n]) fun is =>
    (dispatch is.ta).map fun e => (e.1, fun c k => e.2 c (c.elem a k))

/-- A permutation (R156, R157): source gives the slot of element i from the core and the strip length. -/
def permOp (i : Instr) (s : State) (d a b km : Nat) (reads : Nat → List Reads) (tag : Issue → Option Tag)
    (source : Issue → Core → Nat → Half) : Host.Outcome State Fault Refusal :=
  issue i s fun s =>
    let is := s.issued s.cur a b d
    match tag is with
    | none => leadWord s i 9
    | some t =>
      unsplit i s is (reads is.n ++ maskRead km is.n) (fun e c => (List.range e).filter (c.mask km)) fun e c =>
        writeVec d t (((List.range e).filter (c.mask km)).map fun k => (k, source is c k)) c

/-- Element j of a register, or a zero slot outside the strip (R156). -/
def Core.slotOr (c : Core) (r n : Nat) (j : Int) : Half :=
  if 0 ≤ j && j < (n : Int) then c.elem r j.toNat else 0

/-- Mask bits that are 1 below i. -/
def Core.onesBelow (c : Core) (km i : Nat) : Nat := ((List.range i).filter (c.mask km)).length

/-! ## Reductions (R161, R162, R106) -/

/-- The positions of row m: elements below n with their mask bit 1. -/
def Core.row (c : Core) (t : Tag) (a km n m : Nat) : List (Option Half) :=
  (List.range 32).map fun p =>
    let k := 32 * m + p
    if k < n && c.mask km k then some (bfSlot t (c.elem a k)) else none

/-- Rows m and up, k of them, combined into an accumulator: its value, the flags, and the row and flags of an
arithmetic stop. -/
def Core.reduce (c : Core) (t : Tag) (op : Half → Half → Half × Flags) (a km n : Nat) :
    Nat → Nat → Half → Flags → Half × Flags × Option (Nat × Hit)
  | 0, _, acc, fl => (acc, fl, none)
  | k + 1, m, acc, fl =>
    match treeValue op 5 (c.row t a km n m) with
    | (none, _) => c.reduce t op a km n k (m + 1) acc fl
    | (some v, f1) =>
      let (x, f2) := op acc v
      let f := f1 ||| f2
      if f &&& c.stopMask = 0 then c.reduce t op a km n k (m + 1) x (fl ||| f)
      else (acc, fl, some (32 * m, ⟨.arithmetic f, f.toNat⟩))

/-- A reduction into element 0 of d. -/
def reduceOp (i : Instr) (s : State) (op : RedOp) (d a km : Nat) : Host.Outcome State Fault Refusal :=
  issue i s fun s =>
    let n := s.cur
    let is := s.issued n a 0 d
    match redTag op is.ta with
    | none => leadWord s i 9
    | some t =>
      if is.td ≠ t then leadWord s i 9
      else match s.readSlots n (vecRead a is.n :: vecRead d 1 :: maskRead km is.n) with
        | (s, false) => leadWord s i 15
        | (s, true) =>
          let c := s.coreAt n
          let bound := (c.preempt.bind fun p => p.bound).getD is.n
          let first := is.start / 32
          let rows := (min is.n bound + 31) / 32 - first
          let (acc, fl, stop) := c.reduce is.ta (redOp op c.ftz c.vrm t) a km is.n rows first (c.elem d 0) 0
          let done := s.updCoreAt n fun c => ((c.setElem d 0 acc).setTag d t).raise fl
          conclude n is s done (s.verdict n is.n stop) false false 0

/-! ## The instructions -/

/-- R150. -/
def execVAdd (d : Nat) (a : Nat) (b : Nat) (km : Nat) (sat : Bool) (s : State) : Host.Outcome State Fault Refusal :=
  arithOp (.vAdd d a b km sat) s .add sat d a b km

/-- R150. -/
def execVSub (d : Nat) (a : Nat) (b : Nat) (km : Nat) (sat : Bool) (s : State) : Host.Outcome State Fault Refusal :=
  arithOp (.vSub d a b km sat) s .sub sat d a b km

/-- R150. -/
def execVMul (d : Nat) (a : Nat) (b : Nat) (km : Nat) (sat : Bool) (s : State) : Host.Outcome State Fault Refusal :=
  arithOp (.vMul d a b km sat) s .mul sat d a b km

/-- R150. -/
def execVFma (d : Nat) (a : Nat) (b : Nat) (km : Nat) (s : State) : Host.Outcome State Fault Refusal :=
  fmaOp (.vFma d a b km) s false d a b km

/-- R150. -/
def execVFms (d : Nat) (a : Nat) (b : Nat) (km : Nat) (s : State) : Host.Outcome State Fault Refusal :=
  fmaOp (.vFms d a b km) s true d a b km

/-- R150. -/
def execVDiv (d : Nat) (a : Nat) (b : Nat) (km : Nat) (s : State) : Host.Outcome State Fault Refusal :=
  arithOp (.vDiv d a b km) s .div false d a b km

/-- R150. -/
def execVMin (d : Nat) (a : Nat) (b : Nat) (km : Nat) (s : State) : Host.Outcome State Fault Refusal :=
  arithOp (.vMin d a b km) s .min false d a b km

/-- R150. -/
def execVMax (d : Nat) (a : Nat) (b : Nat) (km : Nat) (s : State) : Host.Outcome State Fault Refusal :=
  arithOp (.vMax d a b km) s .max false d a b km

/-- R151. -/
def execVAnd (d : Nat) (a : Nat) (b : Nat) (km : Nat) (s : State) : Host.Outcome State Fault Refusal :=
  logicOp (.vAnd d a b km) s d a b km fun x y => x &&& y

/-- R151. -/
def execVOr (d : Nat) (a : Nat) (b : Nat) (km : Nat) (s : State) : Host.Outcome State Fault Refusal :=
  logicOp (.vOr d a b km) s d a b km fun x y => x ||| y

/-- R151. -/
def execVXor (d : Nat) (a : Nat) (b : Nat) (km : Nat) (s : State) : Host.Outcome State Fault Refusal :=
  logicOp (.vXor d a b km) s d a b km fun x y => x ^^^ y

/-- R151. -/
def execVShl (d : Nat) (a : Nat) (b : Nat) (km : Nat) (s : State) : Host.Outcome State Fault Refusal :=
  shiftOp (.vShl d a b km) s d a b km fun x k => x <<< k

/-- R151. -/
def execVShr (d : Nat) (a : Nat) (b : Nat) (km : Nat) (s : State) : Host.Outcome State Fault Refusal :=
  shiftOp (.vShr d a b km) s d a b km fun x k => x >>> k

/-- R151. -/
def execVSar (d : Nat) (a : Nat) (b : Nat) (km : Nat) (s : State) : Host.Outcome State Fault Refusal :=
  shiftOp (.vSar d a b km) s d a b km fun x k => x.sshiftRight k

/-- R151: every element below the stop position is written; km selects. -/
def execVSel (d : Nat) (a : Nat) (b : Nat) (km : Nat) (s : State) : Host.Outcome State Fault Refusal :=
  issue (.vSel d a b km) s fun s =>
    let is := s.issued s.cur a b d
    match selTag is.ta is.tb with
    | none => leadWord s (.vSel d a b km) 9
    | some t =>
      elements (.vSel d a b km) s is (vecRead a is.n :: vecRead b is.n :: maskRead km is.n) (fun _ _ => true)
        (fun c k => (if c.mask km k then c.elem a k else c.elem b k, 0)) (writeVec d t)

/-- R157: by the signed x[b]. -/
def execVSlide (d : Nat) (a : Nat) (b : Nat) (km : Nat) (s : State) : Host.Outcome State Fault Refusal :=
  permOp (.vSlide d a b km) s d a b km (fun n => [vecRead a n]) (fun is => some is.ta)
    fun is c k => c.slotOr a is.n ((k : Int) + is.xb.toInt)

/-- R157. -/
def execVPerm (d : Nat) (a : Nat) (b : Nat) (km : Nat) (s : State) : Host.Outcome State Fault Refusal :=
  permOp (.vPerm d a b km) s d a b km (fun n => [vecRead a n, vecRead b n])
    (fun is => if Tag.isIndex is.tb then some is.ta else none) fun is c k => c.slotOr a is.n (c.elem b k).toNat

/-- R158. -/
def execVComp (d : Nat) (a : Nat) (km : Nat) (s : State) : Host.Outcome State Fault Refusal :=
  issue (.vComp d a km) s fun s =>
    let is := s.issued s.cur a 0 d
    unsplit (.vComp d a km) s is (vecRead a is.n :: maskRead km is.n) (fun e c => List.range (c.onesBelow km e)) fun e c =>
      writeVec d is.ta (((List.range e).filter (c.mask km)).zipIdx.map fun p => (p.2, c.elem a p.1)) c

/-- R157. -/
def execVExpd (d : Nat) (a : Nat) (km : Nat) (s : State) : Host.Outcome State Fault Refusal :=
  permOp (.vExpd d a km) s d a 0 km (fun n => [vecRead a n]) (fun is => some is.ta)
    fun is c k => c.slotOr a is.n (c.onesBelow km k)

/-- R157. -/
def execVRev (d : Nat) (a : Nat) (km : Nat) (s : State) : Host.Outcome State Fault Refusal :=
  permOp (.vRev d a km) s d a 0 km (fun n => [vecRead a n]) (fun is => some is.ta)
    fun is c k => c.slotOr a is.n ((is.n : Int) - 1 - k)

/-- R157, R149: element i is i. -/
def execVIota (d : Nat) (km : Nat) (s : State) : Host.Outcome State Fault Refusal :=
  issue (.vIota d km) s fun s =>
    let is := s.issued s.cur 0 0 d
    elements (.vIota d km) s is (maskRead km is.n) (fun c => c.mask km) (fun _ k => (.ofNat 32 k, 0)) (writeVec d .ix)

/-- R159. -/
def execVMvx (d : Nat) (a : Nat) (b : Nat) (s : State) : Host.Outcome State Fault Refusal :=
  issue (.vMvx d a b) s fun s =>
    let n := s.cur
    let p := (s.issued n a b d).xb.toNat
    let c := s.core
    if p < c.strip.len.toNat then match s.readSlots n [⟨0, a, p, p + 1⟩] with
      | (s, false) => leadWord s (.vMvx d a b) 15
      | (s, true) =>
        let v := c.elem a p
        .retire (s.reply n d (if c.tag a = .s32 then v.signExtend 64 else v.setWidth 64))
    else .retire (s.reply n d 0)

/-- R154: bits of mask d. -/
def execVCmp (d : Nat) (a : Nat) (b : Nat) (km : Nat) (cond : VCond) (s : State) : Host.Outcome State Fault Refusal :=
  issue (.vCmp d a b km cond) s fun s =>
    let is := s.issued s.cur a b 0
    match opRow false false is.ta is.tb with
    | none => leadWord s (.vCmp d a b km cond) 9
    | some row =>
      elements (.vCmp d a b km cond) s is (vecRead a is.n :: vecRead b is.n :: maskRead km is.n) (fun c => c.mask km)
        (fun c k => elemCmp cond c.ftz row is.ta is.tb (c.elem a k) (c.elem b k)) (fun l c => c.setMasks d l)

/-- R152. -/
def execVAbs (d : Nat) (a : Nat) (km : Nat) (s : State) : Host.Outcome State Fault Refusal :=
  unaryOp (.vAbs d a km) s d a km fun t =>
    if t = .s32 || Tag.isFloat t then some (t, fun _ x => (elemAbs t x, 0)) else none

/-- R152. -/
def execVNeg (d : Nat) (a : Nat) (km : Nat) (s : State) : Host.Outcome State Fault Refusal :=
  unaryOp (.vNeg d a km) s d a km fun t =>
    if t = .s32 || Tag.isFloat t then some (t, fun _ x => (elemNeg t x, 0)) else none

/-- R152. -/
def execVNot (d : Nat) (a : Nat) (km : Nat) (s : State) : Host.Outcome State Fault Refusal :=
  unaryOp (.vNot d a km) s d a km fun t => if Tag.isInt t then some (t, fun _ x => (~~~x, 0)) else none

/-- R152. -/
def execVSqrt (d : Nat) (a : Nat) (km : Nat) (s : State) : Host.Outcome State Fault Refusal :=
  unaryOp (.vSqrt d a km) s d a km fun t =>
    if Tag.isFloat t then some (t, fun c x => result c.ftz c.vrm t (sqrtV (operand c.ftz t x))) else none

/-- R152, R107. -/
def execVExp2 (d : Nat) (a : Nat) (km : Nat) (s : State) : Host.Outcome State Fault Refusal :=
  unaryOp (.vExp2 d a km) s d a km fun t =>
    if Tag.isFloat t then some (.fp32, fun c x => result c.ftz c.vrm .fp32 (exp2V (operand c.ftz t x))) else none

/-- R152, R107. -/
def execVLog2 (d : Nat) (a : Nat) (km : Nat) (s : State) : Host.Outcome State Fault Refusal :=
  unaryOp (.vLog2 d a km) s d a km fun t =>
    if Tag.isFloat t then some (.fp32, fun c x => result c.ftz c.vrm .fp32 (log2V (operand c.ftz t x))) else none

/-- R153. -/
def execVCvt (d : Nat) (a : Nat) (km : Nat) (md : Tag) (s : State) : Host.Outcome State Fault Refusal :=
  unaryOp (.vCvt d a km md) s d a km fun t =>
    if t = .pk then none else some (md, fun c x => elemCvt c.ftz c.vrm t md x)

/-- R152. -/
def execVTag (d : Nat) (a : Nat) (km : Nat) (md : Tag) (s : State) : Host.Outcome State Fault Refusal :=
  unaryOp (.vTag d a km md) s d a km fun _ => some (md, fun _ x => (x, 0))

/-- R152. -/
def execVMov (d : Nat) (a : Nat) (km : Nat) (s : State) : Host.Outcome State Fault Refusal :=
  unaryOp (.vMov d a km) s d a km fun t => some (t, fun _ x => (x, 0))

/-- R152: of x[a]. -/
def execVSplat (d : Nat) (a : Nat) (km : Nat) (md : Tag) (s : State) : Host.Outcome State Fault Refusal :=
  vectorOp (.vSplat d a km md) s d a 0 km (fun _ => []) fun is =>
    some (md, fun _ _ => (if md = .bf16 then (is.xa.setWidth 16).setWidth 32 <<< 16 else is.xa.setWidth 32, 0))

/-- R161. -/
def execVrSum (d : Nat) (a : Nat) (km : Nat) (s : State) : Host.Outcome State Fault Refusal :=
  reduceOp (.vrSum d a km) s .sum d a km

/-- R161. -/
def execVrMax (d : Nat) (a : Nat) (km : Nat) (s : State) : Host.Outcome State Fault Refusal :=
  reduceOp (.vrMax d a km) s .max d a km

/-- R161. -/
def execVrMin (d : Nat) (a : Nat) (km : Nat) (s : State) : Host.Outcome State Fault Refusal :=
  reduceOp (.vrMin d a km) s .min d a km

/-- R161. -/
def execVrAnd (d : Nat) (a : Nat) (km : Nat) (s : State) : Host.Outcome State Fault Refusal :=
  reduceOp (.vrAnd d a km) s .and d a km

/-- R161. -/
def execVrOr (d : Nat) (a : Nat) (km : Nat) (s : State) : Host.Outcome State Fault Refusal :=
  reduceOp (.vrOr d a km) s .or d a km

end Sys2Proof.Machine
end

