-- ==== Sys2Proof/Machine/VectorMem.lean ====
section
/-!
DEFINITION. VectorMem.lean: vector and interval loads and stores, gathers, scatters and vector atomics
(spec/06_vector.md R163 to R166, spec/08_intervals.md R209, R210, spec/10_memories.md R252 to R260).
-/

namespace Sys2Proof.Machine

/-- A unit or strided vector load (R163, R164): address gives an element from what was issued. -/
def vectorLoad (i : Instr) (s : State) (d a b km : Nat) (fmt : Fmt) (elem : Issue → Nat → Elem) :
    Host.Outcome State Fault Refusal :=
  issue i s fun s =>
    let is := s.issued s.cur a b d
    loadStrip i s is km (elem is) fun vals => writeVec d (loadTag fmt) (vals.map fun v => (v.1, widen fmt v.2))

/-- A unit or strided vector store (R252, R253). -/
def vectorStore (i : Instr) (s : State) (d a b km : Nat) (fmt : Fmt) (elem : Issue → Nat → Elem) :
    Host.Outcome State Fault Refusal :=
  issue i s fun s =>
    let is := s.issued s.cur a b d
    if !storeAccepts fmt is.td then leadWord s i 9
    else storeStrip i s is km [vecRead d is.n] (elem is) fun c k => narrow fmt is.td (c.elem d k)

/-- An interval load (R209, R210): lo at the lower address. -/
def pairLoad (i : Instr) (s : State) (d a b km : Nat) (addr : Issue → Nat → Nat) : Host.Outcome State Fault Refusal :=
  issue i s fun s =>
    let is := s.issued s.cur a b 0
    loadStrip i s is km (fun k => pairAt (addr is k)) fun vals c =>
      c.setPairs d (vals.map fun v => (v.1, .ofNat 64 v.2))

/-- An interval store (R254). -/
def pairStore (i : Instr) (s : State) (d a b km : Nat) (addr : Issue → Nat → Nat) : Host.Outcome State Fault Refusal :=
  issue i s fun s =>
    let is := s.issued s.cur a b 0
    storeStrip i s is km (pairRead d is.n) (fun k => pairAt (addr is k)) fun c k => (c.pairBits d k).toNat

/-- An index register's element address (R163, R252). -/
def indexElem (is : Issue) (b : Nat) (fmt : Fmt) (c : Core) (k : Nat) : Elem :=
  elemAt fmt (indexedAddr is.xa c b k (Fmt.bytes fmt))

/-- A vector atomic (R260); dispatch gives the new value from the old one and d[i], or a tag trap. -/
def vectorAtomic (i : Instr) (s : State) (d a b km : Nat) (dispatch : Tag → Option (Half → Half → Half)) :
    Host.Outcome State Fault Refusal :=
  issue i s fun s =>
    let n := s.cur
    let is := s.issued n a b d
    match (if Tag.isIndex is.tb then dispatch is.td else none) with
    | none => leadWord s i 9
    | some f =>
      indexed i s is km 2 .write true [vecRead b is.n, vecRead d is.n] (indexElem is b .s32)
        (fun c s k x => s.modifyElem (s.who n) x fun old => (f (.ofNat 32 old) (c.elem d k)).toNat)
        (fun _ vals s => s.updCoreAt n fun c => c.setElems d (vals.map fun v => (v.1, .ofNat 32 v.2)))
        fun _ => true

/-- The tags of R260: an integer function and, where there is one, a float function. -/
def atomicTags (int : Tag → Half → Half → Half) (float : Option (Half → Half → Half)) (t : Tag) :
    Option (Half → Half → Half) :=
  if Tag.isInt t then some (int t) else if t = .fp32 then float else none

/-- A scatter-add's new value (R257); a BF16 slot is its bits 31:16, widened (R88). -/
def addCode (fmt : Fmt) (t : Tag) (old : Nat) (v : Half) : Nat :=
  if fmt = .f32 then (addF32 (.ofNat 32 old) (bfSlot t v)).toNat else (BitVec.ofNat 32 old + v).toNat

/-! ## The instructions -/

/-- R163. -/
def execVldUn (d : Nat) (a : Nat) (km : Nat) (fmt : Fmt) (s : State) : Host.Outcome State Fault Refusal :=
  vectorLoad (.vldUn d a km fmt) s d a 0 km fmt fun is k => elemOf fmt is.xa.toNat k

/-- R163. -/
def execVldSd (d : Nat) (a : Nat) (b : Nat) (km : Nat) (fmt : Fmt) (s : State) : Host.Outcome State Fault Refusal :=
  vectorLoad (.vldSd d a b km fmt) s d a b km fmt fun is k => elemAt fmt (stridedAddr is.xa is.xb k)

/-- R163, R166. -/
def execVldX (d : Nat) (a : Nat) (b : Nat) (km : Nat) (fmt : Fmt) (s : State) : Host.Outcome State Fault Refusal :=
  issue (.vldX d a b km fmt) s fun s =>
    let n := s.cur
    let is := s.issued n a b d
    if !Tag.isIndex is.tb then leadWord s (.vldX d a b km fmt) 9
    else
      indexed (.vldX d a b km fmt) s is km 1 .read false [vecRead b is.n] (indexElem is b fmt)
        (fun _ s _ x => s.loadElem (s.who n) x)
        (fun _ vals s => s.updCoreAt n (writeVec d (loadTag fmt) (vals.map fun v => (v.1, widen fmt v.2)))) anyIo

/-- R209. -/
def execQldUn (d : Nat) (a : Nat) (km : Nat) (s : State) : Host.Outcome State Fault Refusal :=
  pairLoad (.qldUn d a km) s d a 0 km fun is k => is.xa.toNat + 8 * k

/-- R209. -/
def execQldSd (d : Nat) (a : Nat) (b : Nat) (km : Nat) (s : State) : Host.Outcome State Fault Refusal :=
  pairLoad (.qldSd d a b km) s d a b km fun is k => stridedAddr is.xa is.xb k

/-- R252. -/
def execVstUn (d : Nat) (a : Nat) (km : Nat) (fmt : Fmt) (s : State) : Host.Outcome State Fault Refusal :=
  vectorStore (.vstUn d a km fmt) s d a 0 km fmt fun is k => elemOf fmt is.xa.toNat k

/-- R252. -/
def execVstSd (d : Nat) (a : Nat) (b : Nat) (km : Nat) (fmt : Fmt) (s : State) : Host.Outcome State Fault Refusal :=
  vectorStore (.vstSd d a b km fmt) s d a b km fmt fun is k => elemAt fmt (stridedAddr is.xa is.xb k)

/-- R252, R256. -/
def execVstX (d : Nat) (a : Nat) (b : Nat) (km : Nat) (fmt : Fmt) (s : State) : Host.Outcome State Fault Refusal :=
  issue (.vstX d a b km fmt) s fun s =>
    let n := s.cur
    let is := s.issued n a b d
    if !Tag.isIndex is.tb || !storeAccepts fmt is.td then leadWord s (.vstX d a b km fmt) 9
    else
      indexed (.vstX d a b km fmt) s is km 2 .write false [vecRead b is.n, vecRead d is.n] (indexElem is b fmt)
        (fun c s k x => s.storeElem (s.who n) x (narrow fmt is.td (c.elem d k))) (fun _ _ s => s) fun _ => true

/-- R252, R257. -/
def execVstXa (d : Nat) (a : Nat) (b : Nat) (km : Nat) (fmt : Fmt) (s : State) : Host.Outcome State Fault Refusal :=
  issue (.vstXa d a b km fmt) s fun s =>
    let n := s.cur
    let is := s.issued n a b d
    if !Tag.isIndex is.tb || !storeAccepts fmt is.td then leadWord s (.vstXa d a b km fmt) 9
    else
      indexed (.vstXa d a b km fmt) s is km 2 .write true [vecRead b is.n, vecRead d is.n] (indexElem is b fmt)
        (fun c s k x => s.modifyElem (s.who n) x fun old => addCode fmt is.td old (c.elem d k)) (fun _ _ s => s)
        fun _ => true

/-- R252, R254. -/
def execVstQun (d : Nat) (a : Nat) (km : Nat) (s : State) : Host.Outcome State Fault Refusal :=
  pairStore (.vstQun d a km) s d a 0 km fun is k => is.xa.toNat + 8 * k

/-- R252, R254. -/
def execVstQsd (d : Nat) (a : Nat) (b : Nat) (km : Nat) (s : State) : Host.Outcome State Fault Refusal :=
  pairStore (.vstQsd d a b km) s d a b km fun is k => stridedAddr is.xa is.xb k

/-- R260. -/
def execVamAdd (d : Nat) (a : Nat) (b : Nat) (km : Nat) (s : State) : Host.Outcome State Fault Refusal :=
  vectorAtomic (.vamAdd d a b km) s d a b km (atomicTags (fun _ x y => x + y) (some addF32))

/-- R260. -/
def execVamMin (d : Nat) (a : Nat) (b : Nat) (km : Nat) (s : State) : Host.Outcome State Fault Refusal :=
  vectorAtomic (.vamMin d a b km) s d a b km
    (atomicTags (fun t x y => (intBin .min false t t t x y).1) (some (minMaxF32 false)))

/-- R260. -/
def execVamMax (d : Nat) (a : Nat) (b : Nat) (km : Nat) (s : State) : Host.Outcome State Fault Refusal :=
  vectorAtomic (.vamMax d a b km) s d a b km
    (atomicTags (fun t x y => (intBin .max false t t t x y).1) (some (minMaxF32 true)))

/-- R260. -/
def execVamAnd (d : Nat) (a : Nat) (b : Nat) (km : Nat) (s : State) : Host.Outcome State Fault Refusal :=
  vectorAtomic (.vamAnd d a b km) s d a b km (atomicTags (fun _ x y => x &&& y) (none))

/-- R260. -/
def execVamOr (d : Nat) (a : Nat) (b : Nat) (km : Nat) (s : State) : Host.Outcome State Fault Refusal :=
  vectorAtomic (.vamOr d a b km) s d a b km (atomicTags (fun _ x y => x ||| y) (none))

/-- R260. -/
def execVamXor (d : Nat) (a : Nat) (b : Nat) (km : Nat) (s : State) : Host.Outcome State Fault Refusal :=
  vectorAtomic (.vamXor d a b km) s d a b km (atomicTags (fun _ x y => x ^^^ y) (none))

/-- R260. -/
def execVamSwap (d : Nat) (a : Nat) (b : Nat) (km : Nat) (s : State) : Host.Outcome State Fault Refusal :=
  vectorAtomic (.vamSwap d a b km) s d a b km (atomicTags (fun _ _ y => y) (some fun _ y => y))

end Sys2Proof.Machine
end

