-- ==== Sys2Proof/Machine/X.lean ====
section
/-!
DEFINITION. X.lean: scalar integer arithmetic and constants (spec/05_scalar_control.md R122 to R124) and the hint
(spec/02_encoding.md R51).
-/

namespace Sys2Proof.Machine

/-- A scalar operation of the x, xi and xl groups: f gives the result and its flags from the core before it. With d = 0
it is a hint: nothing is written and no flag is set (R51, R122). -/
def scalarOp (i : Instr) (s : State) (d : Nat) (f : Core → Word × Flags) : Host.Outcome State Fault Refusal :=
  issue i s fun s =>
    if d = 0 then .retire s
    else .retire (s.updCore fun c => (c.setX d (f c).1).raise (f c).2)

/-- A result without flags. -/
def plain (v : Word) : Word × Flags := (v, 0)

/-- 1 for true, 0 for false. -/
def truth (b : Bool) : Word := if b then 1 else 0

/-- An 11-bit immediate, sign-extended (R123). -/
def imm64 (imm : BitVec 11) : Word := imm.signExtend 64

/-- R122, R83. -/
def execXAdd (d : Nat) (a : Nat) (b : Nat) (sat : Bool) (s : State) : Host.Outcome State Fault Refusal :=
  scalarOp (.xAdd d a b sat) s d fun c => wrap64 sat ((c.xreg a).toInt + (c.xreg b).toInt)

/-- R122, R83. -/
def execXSub (d : Nat) (a : Nat) (b : Nat) (sat : Bool) (s : State) : Host.Outcome State Fault Refusal :=
  scalarOp (.xSub d a b sat) s d fun c => wrap64 sat ((c.xreg a).toInt - (c.xreg b).toInt)

/-- R122. -/
def execXAnd (d : Nat) (a : Nat) (b : Nat) (s : State) : Host.Outcome State Fault Refusal :=
  scalarOp (.xAnd d a b) s d fun c => plain ((c.xreg a) &&& (c.xreg b))

/-- R122. -/
def execXOr (d : Nat) (a : Nat) (b : Nat) (s : State) : Host.Outcome State Fault Refusal :=
  scalarOp (.xOr d a b) s d fun c => plain ((c.xreg a) ||| (c.xreg b))

/-- R122. -/
def execXXor (d : Nat) (a : Nat) (b : Nat) (s : State) : Host.Outcome State Fault Refusal :=
  scalarOp (.xXor d a b) s d fun c => plain ((c.xreg a) ^^^ (c.xreg b))

/-- R122. -/
def execXAndn (d : Nat) (a : Nat) (b : Nat) (s : State) : Host.Outcome State Fault Refusal :=
  scalarOp (.xAndn d a b) s d fun c => plain ((c.xreg a) &&& ~~~(c.xreg b))

/-- R122, R83: a times 2 to the count. -/
def execXShl (d : Nat) (a : Nat) (b : Nat) (sat : Bool) (s : State) : Host.Outcome State Fault Refusal :=
  scalarOp (.xShl d a b sat) s d fun c => wrap64 sat ((c.xreg a).toInt * (2 ^ ((c.xreg b).toNat % 64) : Nat))

/-- R122. -/
def execXShr (d : Nat) (a : Nat) (b : Nat) (s : State) : Host.Outcome State Fault Refusal :=
  scalarOp (.xShr d a b) s d fun c => plain ((c.xreg a) >>> ((c.xreg b).toNat % 64))

/-- R122. -/
def execXSar (d : Nat) (a : Nat) (b : Nat) (s : State) : Host.Outcome State Fault Refusal :=
  scalarOp (.xSar d a b) s d fun c => plain ((c.xreg a).sshiftRight ((c.xreg b).toNat % 64))

/-- R122, R83. -/
def execXMul (d : Nat) (a : Nat) (b : Nat) (sat : Bool) (s : State) : Host.Outcome State Fault Refusal :=
  scalarOp (.xMul d a b sat) s d fun c => wrap64 sat ((c.xreg a).toInt * (c.xreg b).toInt)

/-- R122: bits 127:64 of the signed product. -/
def execXMulh (d : Nat) (a : Nat) (b : Nat) (s : State) : Host.Outcome State Fault Refusal :=
  scalarOp (.xMulh d a b) s d fun c => plain (.ofInt 64 ((c.xreg a).toInt * (c.xreg b).toInt / (2 ^ 64 : Int)))

/-- R122: bits 127:64 of the unsigned product. -/
def execXMulhn (d : Nat) (a : Nat) (b : Nat) (s : State) : Host.Outcome State Fault Refusal :=
  scalarOp (.xMulhn d a b) s d fun c => plain (.ofNat 64 ((c.xreg a).toNat * (c.xreg b).toNat / 2 ^ 64))

/-- R122, R84. -/
def execXDiv (d : Nat) (a : Nat) (b : Nat) (s : State) : Host.Outcome State Fault Refusal :=
  scalarOp (.xDiv d a b) s d fun c => sdiv64 (c.xreg a) (c.xreg b)

/-- R122, R84. -/
def execXDivn (d : Nat) (a : Nat) (b : Nat) (s : State) : Host.Outcome State Fault Refusal :=
  scalarOp (.xDivn d a b) s d fun c => udiv64 (c.xreg a) (c.xreg b)

/-- R122, R84. -/
def execXRem (d : Nat) (a : Nat) (b : Nat) (s : State) : Host.Outcome State Fault Refusal :=
  scalarOp (.xRem d a b) s d fun c => srem64 (c.xreg a) (c.xreg b)

/-- R122, R84. -/
def execXRemn (d : Nat) (a : Nat) (b : Nat) (s : State) : Host.Outcome State Fault Refusal :=
  scalarOp (.xRemn d a b) s d fun c => urem64 (c.xreg a) (c.xreg b)

/-- R122. -/
def execXMin (d : Nat) (a : Nat) (b : Nat) (s : State) : Host.Outcome State Fault Refusal :=
  scalarOp (.xMin d a b) s d fun c => plain (if (c.xreg b).slt (c.xreg a) then (c.xreg b) else (c.xreg a))

/-- R122. -/
def execXMax (d : Nat) (a : Nat) (b : Nat) (s : State) : Host.Outcome State Fault Refusal :=
  scalarOp (.xMax d a b) s d fun c => plain (if (c.xreg a).slt (c.xreg b) then (c.xreg b) else (c.xreg a))

/-- R122. -/
def execXMinn (d : Nat) (a : Nat) (b : Nat) (s : State) : Host.Outcome State Fault Refusal :=
  scalarOp (.xMinn d a b) s d fun c => plain (if (c.xreg b).ult (c.xreg a) then (c.xreg b) else (c.xreg a))

/-- R122. -/
def execXMaxn (d : Nat) (a : Nat) (b : Nat) (s : State) : Host.Outcome State Fault Refusal :=
  scalarOp (.xMaxn d a b) s d fun c => plain (if (c.xreg a).ult (c.xreg b) then (c.xreg b) else (c.xreg a))

/-- R122. -/
def execXSlt (d : Nat) (a : Nat) (b : Nat) (s : State) : Host.Outcome State Fault Refusal :=
  scalarOp (.xSlt d a b) s d fun c => plain (truth ((c.xreg a).slt (c.xreg b)))

/-- R122. -/
def execXSltn (d : Nat) (a : Nat) (b : Nat) (s : State) : Host.Outcome State Fault Refusal :=
  scalarOp (.xSltn d a b) s d fun c => plain (truth ((c.xreg a).ult (c.xreg b)))

/-- R122. -/
def execXSeq (d : Nat) (a : Nat) (b : Nat) (s : State) : Host.Outcome State Fault Refusal :=
  scalarOp (.xSeq d a b) s d fun c => plain (truth ((c.xreg a) == (c.xreg b)))

/-- R122: the old x[d] selects. -/
def execXSel (d : Nat) (a : Nat) (b : Nat) (s : State) : Host.Outcome State Fault Refusal :=
  scalarOp (.xSel d a b) s d fun c => plain (if c.xreg d = 0 then (c.xreg b) else (c.xreg a))

/-- R122. -/
def execXClz (d : Nat) (a : Nat) (s : State) : Host.Outcome State Fault Refusal :=
  scalarOp (.xClz d a) s d fun c => plain (.ofNat 64 (leadingZeros64 (c.xreg a).toNat))

/-- R122. -/
def execXCtz (d : Nat) (a : Nat) (s : State) : Host.Outcome State Fault Refusal :=
  scalarOp (.xCtz d a) s d fun c => plain (.ofNat 64 (trailingZeros 64 (c.xreg a).toNat))

/-- R122. -/
def execXPopc (d : Nat) (a : Nat) (s : State) : Host.Outcome State Fault Refusal :=
  scalarOp (.xPopc d a) s d fun c => plain (.ofNat 64 (popCount 64 (c.xreg a).toNat))

/-- R123. -/
def execXiAdd (d : Nat) (a : Nat) (imm : BitVec 11) (s : State) : Host.Outcome State Fault Refusal :=
  scalarOp (.xiAdd d a imm) s d fun c => plain ((c.xreg a) + imm64 imm)

/-- R123. -/
def execXiAnd (d : Nat) (a : Nat) (imm : BitVec 11) (s : State) : Host.Outcome State Fault Refusal :=
  scalarOp (.xiAnd d a imm) s d fun c => plain ((c.xreg a) &&& imm64 imm)

/-- R123. -/
def execXiOr (d : Nat) (a : Nat) (imm : BitVec 11) (s : State) : Host.Outcome State Fault Refusal :=
  scalarOp (.xiOr d a imm) s d fun c => plain ((c.xreg a) ||| imm64 imm)

/-- R123. -/
def execXiXor (d : Nat) (a : Nat) (imm : BitVec 11) (s : State) : Host.Outcome State Fault Refusal :=
  scalarOp (.xiXor d a imm) s d fun c => plain ((c.xreg a) ^^^ imm64 imm)

/-- R123. -/
def execXiShl (d : Nat) (a : Nat) (sh : BitVec 6) (s : State) : Host.Outcome State Fault Refusal :=
  scalarOp (.xiShl d a sh) s d fun c => plain ((c.xreg a) <<< sh.toNat)

/-- R123. -/
def execXiShr (d : Nat) (a : Nat) (sh : BitVec 6) (s : State) : Host.Outcome State Fault Refusal :=
  scalarOp (.xiShr d a sh) s d fun c => plain ((c.xreg a) >>> sh.toNat)

/-- R123. -/
def execXiSar (d : Nat) (a : Nat) (sh : BitVec 6) (s : State) : Host.Outcome State Fault Refusal :=
  scalarOp (.xiSar d a sh) s d fun c => plain ((c.xreg a).sshiftRight sh.toNat)

/-- R123. -/
def execXiSlt (d : Nat) (a : Nat) (imm : BitVec 11) (s : State) : Host.Outcome State Fault Refusal :=
  scalarOp (.xiSlt d a imm) s d fun c => plain (truth ((c.xreg a).slt (imm64 imm)))

/-- R124. -/
def execXlLd (d : Nat) (imm : BitVec 32) (s : State) : Host.Outcome State Fault Refusal :=
  scalarOp (.xlLd d imm) s d fun _ => plain (imm.signExtend 64)

/-- R124: the low half of x[d] stays. -/
def execXlHi (d : Nat) (imm : BitVec 32) (s : State) : Host.Outcome State Fault Refusal :=
  scalarOp (.xlHi d imm) s d fun c => plain (.ofNat 64 (imm.toNat * 2 ^ 32 + (c.xreg d).toNat % 2 ^ 32))

/-- R51: a word of major 0x01 does nothing. -/
def execHint (h : BitVec 26) (s : State) : Host.Outcome State Fault Refusal := issue (.hint h) s fun s => .retire s

end Sys2Proof.Machine
end

