-- ==== Sys2Proof/Machine/Dispatch.lean ====
section
/-!
DEFINITION. Dispatch.lean: one arm per row of the opcode table; each meaning is a definition of its own.
-/

namespace Sys2Proof.Machine

/-- What an instruction, or an event of the opcode table, does in a state. -/
def exec (i : Instr) (s : State) : Host.Outcome State Fault Refusal :=
  match i with
  | .xAdd d a b sat => Sys2Proof.Machine.execXAdd d a b sat s
  | .xSub d a b sat => Sys2Proof.Machine.execXSub d a b sat s
  | .xAnd d a b => Sys2Proof.Machine.execXAnd d a b s
  | .xOr d a b => Sys2Proof.Machine.execXOr d a b s
  | .xXor d a b => Sys2Proof.Machine.execXXor d a b s
  | .xAndn d a b => Sys2Proof.Machine.execXAndn d a b s
  | .xShl d a b sat => Sys2Proof.Machine.execXShl d a b sat s
  | .xShr d a b => Sys2Proof.Machine.execXShr d a b s
  | .xSar d a b => Sys2Proof.Machine.execXSar d a b s
  | .xMul d a b sat => Sys2Proof.Machine.execXMul d a b sat s
  | .xMulh d a b => Sys2Proof.Machine.execXMulh d a b s
  | .xMulhn d a b => Sys2Proof.Machine.execXMulhn d a b s
  | .xDiv d a b => Sys2Proof.Machine.execXDiv d a b s
  | .xDivn d a b => Sys2Proof.Machine.execXDivn d a b s
  | .xRem d a b => Sys2Proof.Machine.execXRem d a b s
  | .xRemn d a b => Sys2Proof.Machine.execXRemn d a b s
  | .xMin d a b => Sys2Proof.Machine.execXMin d a b s
  | .xMax d a b => Sys2Proof.Machine.execXMax d a b s
  | .xMinn d a b => Sys2Proof.Machine.execXMinn d a b s
  | .xMaxn d a b => Sys2Proof.Machine.execXMaxn d a b s
  | .xSlt d a b => Sys2Proof.Machine.execXSlt d a b s
  | .xSltn d a b => Sys2Proof.Machine.execXSltn d a b s
  | .xSeq d a b => Sys2Proof.Machine.execXSeq d a b s
  | .xSel d a b => Sys2Proof.Machine.execXSel d a b s
  | .xClz d a => Sys2Proof.Machine.execXClz d a s
  | .xCtz d a => Sys2Proof.Machine.execXCtz d a s
  | .xPopc d a => Sys2Proof.Machine.execXPopc d a s
  | .xiAdd d a imm => Sys2Proof.Machine.execXiAdd d a imm s
  | .xiAnd d a imm => Sys2Proof.Machine.execXiAnd d a imm s
  | .xiOr d a imm => Sys2Proof.Machine.execXiOr d a imm s
  | .xiXor d a imm => Sys2Proof.Machine.execXiXor d a imm s
  | .xiShl d a sh => Sys2Proof.Machine.execXiShl d a sh s
  | .xiShr d a sh => Sys2Proof.Machine.execXiShr d a sh s
  | .xiSar d a sh => Sys2Proof.Machine.execXiSar d a sh s
  | .xiSlt d a imm => Sys2Proof.Machine.execXiSlt d a imm s
  | .xlLd d imm => Sys2Proof.Machine.execXlLd d imm s
  | .xlHi d imm => Sys2Proof.Machine.execXlHi d imm s
  | .fAdd d a b fm rm => Sys2Proof.Machine.execFAdd d a b fm rm s
  | .fSub d a b fm rm => Sys2Proof.Machine.execFSub d a b fm rm s
  | .fMul d a b fm rm => Sys2Proof.Machine.execFMul d a b fm rm s
  | .fFma d a b fm rm => Sys2Proof.Machine.execFFma d a b fm rm s
  | .fDiv d a b fm rm => Sys2Proof.Machine.execFDiv d a b fm rm s
  | .fSqrt d a fm rm => Sys2Proof.Machine.execFSqrt d a fm rm s
  | .fMin d a b fm rm => Sys2Proof.Machine.execFMin d a b fm rm s
  | .fMax d a b fm rm => Sys2Proof.Machine.execFMax d a b fm rm s
  | .fCmp d a b fm cond => Sys2Proof.Machine.execFCmp d a b fm cond s
  | .fCvt d a dk sk rm => Sys2Proof.Machine.execFCvt d a dk sk rm s
  | .fClass d a fm rm => Sys2Proof.Machine.execFClass d a fm rm s
  | .bEq a b off => Sys2Proof.Machine.execBEq a b off s
  | .bNe a b off => Sys2Proof.Machine.execBNe a b off s
  | .bLt a b off => Sys2Proof.Machine.execBLt a b off s
  | .bGe a b off => Sys2Proof.Machine.execBGe a b off s
  | .bLtn a b off => Sys2Proof.Machine.execBLtn a b off s
  | .bGen a b off => Sys2Proof.Machine.execBGen a b off s
  | .jLink d off => Sys2Proof.Machine.execJLink d off s
  | .jInd d a off => Sys2Proof.Machine.execJInd d a off s
  | .lnSet d a gr np kb => Sys2Proof.Machine.execLnSet d a gr np kb s
  | .lnShuttle d a b np kb es0 es1 es2 es3 off => Sys2Proof.Machine.execLnShuttle d a b np kb es0 es1 es2 es3 off s
  | .lnTrim d a => Sys2Proof.Machine.execLnTrim d a s
  | .lnRel => Sys2Proof.Machine.execLnRel s
  | .crRd d cn => Sys2Proof.Machine.execCrRd d cn s
  | .crWr d a cn => Sys2Proof.Machine.execCrWr d a cn s
  | .crSet d a cn => Sys2Proof.Machine.execCrSet d a cn s
  | .crClr d a cn => Sys2Proof.Machine.execCrClr d a cn s
  | .ldS8 d a cls off => Sys2Proof.Machine.execLdS8 d a cls off s
  | .ldN8 d a cls off => Sys2Proof.Machine.execLdN8 d a cls off s
  | .ldS16 d a cls off => Sys2Proof.Machine.execLdS16 d a cls off s
  | .ldN16 d a cls off => Sys2Proof.Machine.execLdN16 d a cls off s
  | .ldS32 d a cls off => Sys2Proof.Machine.execLdS32 d a cls off s
  | .ldN32 d a cls off => Sys2Proof.Machine.execLdN32 d a cls off s
  | .ldX64 d a cls off => Sys2Proof.Machine.execLdX64 d a cls off s
  | .stS8 d a cls off => Sys2Proof.Machine.execStS8 d a cls off s
  | .stS16 d a cls off => Sys2Proof.Machine.execStS16 d a cls off s
  | .stS32 d a cls off => Sys2Proof.Machine.execStS32 d a cls off s
  | .stX64 d a cls off => Sys2Proof.Machine.execStX64 d a cls off s
  | .amAdd d a b ord sco => Sys2Proof.Machine.execAmAdd d a b ord sco s
  | .amAnd d a b ord sco => Sys2Proof.Machine.execAmAnd d a b ord sco s
  | .amOr d a b ord sco => Sys2Proof.Machine.execAmOr d a b ord sco s
  | .amXor d a b ord sco => Sys2Proof.Machine.execAmXor d a b ord sco s
  | .amMax d a b ord sco => Sys2Proof.Machine.execAmMax d a b ord sco s
  | .amMin d a b ord sco => Sys2Proof.Machine.execAmMin d a b ord sco s
  | .amMaxn d a b ord sco => Sys2Proof.Machine.execAmMaxn d a b ord sco s
  | .amMinn d a b ord sco => Sys2Proof.Machine.execAmMinn d a b ord sco s
  | .amSwap d a b ord sco => Sys2Proof.Machine.execAmSwap d a b ord sco s
  | .amCas d a b ord sco => Sys2Proof.Machine.execAmCas d a b ord sco s
  | .amLd d a ord sco => Sys2Proof.Machine.execAmLd d a ord sco s
  | .amSt d a ord sco => Sys2Proof.Machine.execAmSt d a ord sco s
  | .yFence cmask sco => Sys2Proof.Machine.execYFence cmask sco s
  | .yXfence pa pb sco => Sys2Proof.Machine.execYXfence pa pb sco s
  | .yBar => Sys2Proof.Machine.execYBar s
  | .yEnd => Sys2Proof.Machine.execYEnd s
  | .yWait d a b => Sys2Proof.Machine.execYWait d a b s
  | .ride pe pid he hid ce cls => Sys2Proof.Machine.execRide pe pid he hid ce cls s
  | .zCall => Sys2Proof.Machine.execZCall s
  | .zBrk => Sys2Proof.Machine.execZBrk s
  | .zRet => Sys2Proof.Machine.execZRet s
  | .zHres d a => Sys2Proof.Machine.execZHres d a s
  | .zHstop d a => Sys2Proof.Machine.execZHstop d a s
  | .zInva a => Sys2Proof.Machine.execZInva a s
  | .zInvs a b => Sys2Proof.Machine.execZInvs a b s
  | .zInvp => Sys2Proof.Machine.execZInvp s
  | .zSpawn d a => Sys2Proof.Machine.execZSpawn d a s
  | .zKill d a b => Sys2Proof.Machine.execZKill d a b s
  | .zYield => Sys2Proof.Machine.execZYield s
  | .zWsopen d a => Sys2Proof.Machine.execZWsopen d a s
  | .zWsclose d a => Sys2Proof.Machine.execZWsclose d a s
  | .vAdd d a b km sat => Sys2Proof.Machine.execVAdd d a b km sat s
  | .vSub d a b km sat => Sys2Proof.Machine.execVSub d a b km sat s
  | .vMul d a b km sat => Sys2Proof.Machine.execVMul d a b km sat s
  | .vFma d a b km => Sys2Proof.Machine.execVFma d a b km s
  | .vFms d a b km => Sys2Proof.Machine.execVFms d a b km s
  | .vDiv d a b km => Sys2Proof.Machine.execVDiv d a b km s
  | .vMin d a b km => Sys2Proof.Machine.execVMin d a b km s
  | .vMax d a b km => Sys2Proof.Machine.execVMax d a b km s
  | .vAnd d a b km => Sys2Proof.Machine.execVAnd d a b km s
  | .vOr d a b km => Sys2Proof.Machine.execVOr d a b km s
  | .vXor d a b km => Sys2Proof.Machine.execVXor d a b km s
  | .vShl d a b km => Sys2Proof.Machine.execVShl d a b km s
  | .vShr d a b km => Sys2Proof.Machine.execVShr d a b km s
  | .vSar d a b km => Sys2Proof.Machine.execVSar d a b km s
  | .vSel d a b km => Sys2Proof.Machine.execVSel d a b km s
  | .vSlide d a b km => Sys2Proof.Machine.execVSlide d a b km s
  | .vPerm d a b km => Sys2Proof.Machine.execVPerm d a b km s
  | .vComp d a km => Sys2Proof.Machine.execVComp d a km s
  | .vExpd d a km => Sys2Proof.Machine.execVExpd d a km s
  | .vRev d a km => Sys2Proof.Machine.execVRev d a km s
  | .vIota d km => Sys2Proof.Machine.execVIota d km s
  | .vMvx d a b => Sys2Proof.Machine.execVMvx d a b s
  | .vTr d a b km => Sys2Proof.Machine.execVTr d a b km s
  | .vTc d a b km => Sys2Proof.Machine.execVTc d a b km s
  | .vCmp d a b km cond => Sys2Proof.Machine.execVCmp d a b km cond s
  | .vAbs d a km => Sys2Proof.Machine.execVAbs d a km s
  | .vNeg d a km => Sys2Proof.Machine.execVNeg d a km s
  | .vNot d a km => Sys2Proof.Machine.execVNot d a km s
  | .vSqrt d a km => Sys2Proof.Machine.execVSqrt d a km s
  | .vExp2 d a km => Sys2Proof.Machine.execVExp2 d a km s
  | .vLog2 d a km => Sys2Proof.Machine.execVLog2 d a km s
  | .vCvt d a km md => Sys2Proof.Machine.execVCvt d a km md s
  | .vTag d a km md => Sys2Proof.Machine.execVTag d a km md s
  | .vMov d a km => Sys2Proof.Machine.execVMov d a km s
  | .vSplat d a km md => Sys2Proof.Machine.execVSplat d a km md s
  | .vrSum d a km => Sys2Proof.Machine.execVrSum d a km s
  | .vrMax d a km => Sys2Proof.Machine.execVrMax d a km s
  | .vrMin d a km => Sys2Proof.Machine.execVrMin d a km s
  | .vrAnd d a km => Sys2Proof.Machine.execVrAnd d a km s
  | .vrOr d a km => Sys2Proof.Machine.execVrOr d a km s
  | .kAnd d a b => Sys2Proof.Machine.execKAnd d a b s
  | .kOr d a b => Sys2Proof.Machine.execKOr d a b s
  | .kXor d a b => Sys2Proof.Machine.execKXor d a b s
  | .kAndn d a b => Sys2Proof.Machine.execKAndn d a b s
  | .kNot d a => Sys2Proof.Machine.execKNot d a s
  | .kMov d a => Sys2Proof.Machine.execKMov d a s
  | .kWhile d a b => Sys2Proof.Machine.execKWhile d a b s
  | .kBrka d a => Sys2Proof.Machine.execKBrka d a s
  | .kBrkb d a => Sys2Proof.Machine.execKBrkb d a s
  | .kCnt d a => Sys2Proof.Machine.execKCnt d a s
  | .kFirst d a => Sys2Proof.Machine.execKFirst d a s
  | .vldUn d a km fmt => Sys2Proof.Machine.execVldUn d a km fmt s
  | .vldSd d a b km fmt => Sys2Proof.Machine.execVldSd d a b km fmt s
  | .vldX d a b km fmt => Sys2Proof.Machine.execVldX d a b km fmt s
  | .vldSm d a km => Sys2Proof.Machine.execVldSm d a km s
  | .qldUn d a km => Sys2Proof.Machine.execQldUn d a km s
  | .qldSd d a b km => Sys2Proof.Machine.execQldSd d a b km s
  | .vstUn d a km fmt => Sys2Proof.Machine.execVstUn d a km fmt s
  | .vstSd d a b km fmt => Sys2Proof.Machine.execVstSd d a b km fmt s
  | .vstX d a b km fmt => Sys2Proof.Machine.execVstX d a b km fmt s
  | .vstXa d a b km fmt => Sys2Proof.Machine.execVstXa d a b km fmt s
  | .vstSm d a km => Sys2Proof.Machine.execVstSm d a km s
  | .vstQun d a km => Sys2Proof.Machine.execVstQun d a km s
  | .vstQsd d a b km => Sys2Proof.Machine.execVstQsd d a b km s
  | .vamAdd d a b km => Sys2Proof.Machine.execVamAdd d a b km s
  | .vamMin d a b km => Sys2Proof.Machine.execVamMin d a b km s
  | .vamMax d a b km => Sys2Proof.Machine.execVamMax d a b km s
  | .vamAnd d a b km => Sys2Proof.Machine.execVamAnd d a b km s
  | .vamOr d a b km => Sys2Proof.Machine.execVamOr d a b km s
  | .vamXor d a b km => Sys2Proof.Machine.execVamXor d a b km s
  | .vamSwap d a b km => Sys2Proof.Machine.execVamSwap d a b km s
  | .sBind d a => Sys2Proof.Machine.execSBind d a s
  | .sRel d => Sys2Proof.Machine.execSRel d s
  | .sSkip d a => Sys2Proof.Machine.execSSkip d a s
  | .sPos d a => Sys2Proof.Machine.execSPos d a s
  | .qAdd d a b c => Sys2Proof.Machine.execQAdd d a b c s
  | .qSub d a b c => Sys2Proof.Machine.execQSub d a b c s
  | .qMul d a b c => Sys2Proof.Machine.execQMul d a b c s
  | .qDiv d a b c => Sys2Proof.Machine.execQDiv d a b c s
  | .qSqr d a c => Sys2Proof.Machine.execQSqr d a c s
  | .qSqrt d a c => Sys2Proof.Machine.execQSqrt d a c s
  | .qExp d a c => Sys2Proof.Machine.execQExp d a c s
  | .qLog d a c => Sys2Proof.Machine.execQLog d a c s
  | .qMin d a b c => Sys2Proof.Machine.execQMin d a b c s
  | .qMax d a b c => Sys2Proof.Machine.execQMax d a b c s
  | .qHull d a b => Sys2Proof.Machine.execQHull d a b s
  | .qMeet d a b => Sys2Proof.Machine.execQMeet d a b s
  | .qSplit d a => Sys2Proof.Machine.execQSplit d a s
  | .qCmp d a b cond => Sys2Proof.Machine.execQCmp d a b cond s
  | .qMk d a b => Sys2Proof.Machine.execQMk d a b s
  | .qPt d a => Sys2Proof.Machine.execQPt d a s
  | .qLo d a => Sys2Proof.Machine.execQLo d a s
  | .qHi d a => Sys2Proof.Machine.execQHi d a s
  | .qWid d a => Sys2Proof.Machine.execQWid d a s
  | .qMid d a => Sys2Proof.Machine.execQMid d a s
  | .qAxpy d a b w c => Sys2Proof.Machine.execQAxpy d a b w c s
  | .mCfg a => Sys2Proof.Machine.execMCfg a s
  | .mZero d => Sys2Proof.Machine.execMZero d s
  | .mOp d a b pp => Sys2Proof.Machine.execMOp d a b pp s
  | .mOpc d a b pp => Sys2Proof.Machine.execMOpc d a b pp s
  | .mOps d a b pp => Sys2Proof.Machine.execMOps d a b pp s
  | .mPrep a => Sys2Proof.Machine.execMPrep a s
  | .mSt d a => Sys2Proof.Machine.execMSt d a s
  | .mLd d a => Sys2Proof.Machine.execMLd d a s
  | .mInv a b => Sys2Proof.Machine.execMInv a b s
  | .eCpy d a => Sys2Proof.Machine.execECpy d a s
  | .eWsl d a => Sys2Proof.Machine.execEWsl d a s
  | .ePut d a => Sys2Proof.Machine.execEPut d a s
  | .eGet d a => Sys2Proof.Machine.execEGet d a s
  | .eRed d a => Sys2Proof.Machine.execERed d a s
  | .eWait d a => Sys2Proof.Machine.execEWait d a s
  | .hint h => Sys2Proof.Machine.execHint h s
  | .emulate w => Sys2Proof.Machine.execEmulate w s
  | .illegalWord w => Sys2Proof.Machine.execIllegalWord w s
  | .vsave core => Sys2Proof.Machine.execVsave core s
  | .vload core => Sys2Proof.Machine.execVload core s
  | .vclear core => Sys2Proof.Machine.execVclear core s
  | .tsave core => Sys2Proof.Machine.execTsave core s
  | .tload core => Sys2Proof.Machine.execTload core s
  | .tenable core => Sys2Proof.Machine.execTenable core s
  | .tdisable core => Sys2Proof.Machine.execTdisable core s
  | .windowCommandDone core => Sys2Proof.Machine.execWindowCommandDone core s
  | .recoveryQuiet part => Sys2Proof.Machine.execRecoveryQuiet part s
  | .recoverySave part => Sys2Proof.Machine.execRecoverySave part s
  | .recoveryRestore part => Sys2Proof.Machine.execRecoveryRestore part s
  | .recoveryCommandDone part => Sys2Proof.Machine.execRecoveryCommandDone part s
  | .resourceDrained res => Sys2Proof.Machine.execResourceDrained res s
  | .preemptRequest core forReg => Sys2Proof.Machine.execPreemptRequest core forReg s
  | .placement part => Sys2Proof.Machine.execPlacement part s
  | .engineCommandStart cluster idx => Sys2Proof.Machine.execEngineCommandStart cluster idx s
  | .engineCommandComplete cluster idx => Sys2Proof.Machine.execEngineCommandComplete cluster idx s
  | .patternCompileDone cluster idx => Sys2Proof.Machine.execPatternCompileDone cluster idx s
  | .invalidationAck hub => Sys2Proof.Machine.execInvalidationAck hub s
  | .gangLateStart part gang crew => Sys2Proof.Machine.execGangLateStart part gang crew s
  | .streamTranslateAhead core sr => Sys2Proof.Machine.execStreamTranslateAhead core sr s
  | .regrantRequest core lanes base forReg => Sys2Proof.Machine.execRegrantRequest core lanes base forReg s
  | .laneRegrantRaise core lanes base => Sys2Proof.Machine.execLaneRegrantRaise core lanes base s
  | .preemptFallback core => Sys2Proof.Machine.execPreemptFallback core s
  | .budgetPeriodStart => Sys2Proof.Machine.execBudgetPeriodStart s
  | .gangPreempt part gang => Sys2Proof.Machine.execGangPreempt part gang s
  | .gangSliceStart part gang => Sys2Proof.Machine.execGangSliceStart part gang s
  | .gangSliceEnd part gang => Sys2Proof.Machine.execGangSliceEnd part gang s
  | .refreshStart die => Sys2Proof.Machine.execRefreshStart die s
  | .refreshEnd die => Sys2Proof.Machine.execRefreshEnd die s
  | .waitReread core => Sys2Proof.Machine.execWaitReread core s
  | .tokenPopResume core => Sys2Proof.Machine.execTokenPopResume core s
  | .tokenPushResume core => Sys2Proof.Machine.execTokenPushResume core s
  | .barrierRelease core => Sys2Proof.Machine.execBarrierRelease core s
  | .endComplete core => Sys2Proof.Machine.execEndComplete core s
  | .dispatchResume core => Sys2Proof.Machine.execDispatchResume core s
  | .replyWrite core => Sys2Proof.Machine.execReplyWrite core s
  | .eWaitDone core => Sys2Proof.Machine.execEWaitDone core s
  | .streamReadAhead core sr => Sys2Proof.Machine.execStreamReadAhead core sr s
  | .interruptTake hub => Sys2Proof.Machine.execInterruptTake hub s
  | .windowFieldWrite core off val => Sys2Proof.Machine.execWindowFieldWrite core off val s
  | .platWrite level part addr size val => Sys2Proof.Machine.execPlatWrite level part addr size val s
  | .firmwareScrub res => Sys2Proof.Machine.execFirmwareScrub res s
  | .budgetSnapshot part regid => Sys2Proof.Machine.execBudgetSnapshot part regid s
  | .recoveryHold part hold => Sys2Proof.Machine.execRecoveryHold part hold s
  | .deviceRegisterWrite level part addr size val => Sys2Proof.Machine.execDeviceRegisterWrite level part addr size val s
  | .hostWrite vf off size val => Sys2Proof.Machine.execHostWrite vf off size val s
  | .hostRead vf off size => Sys2Proof.Machine.execHostRead vf off size s
  | .vfFlr vf => Sys2Proof.Machine.execVfFlr vf s
  | .pfFlr => Sys2Proof.Machine.execPfFlr s
  | .packageReset => Sys2Proof.Machine.execPackageReset s
  | .attestationRequest nonce => Sys2Proof.Machine.execAttestationRequest nonce s
  | .powerCapSet watts => Sys2Proof.Machine.execPowerCapSet watts s
  | .flitResend port => Sys2Proof.Machine.execFlitResend port s
  | .timeMessage offs eth => Sys2Proof.Machine.execTimeMessage offs eth s
  | .throttleAdjust watts celsius => Sys2Proof.Machine.execThrottleAdjust watts celsius s
  | .thermalTrip => Sys2Proof.Machine.execThermalTrip s
  | .tripEnd => Sys2Proof.Machine.execTripEnd s
  | .healthUpdate die drift margin eye0 eye1 eol => Sys2Proof.Machine.execHealthUpdate die drift margin eye0 eye1 eol s
  | .fabricRequestReceive req => Sys2Proof.Machine.execFabricRequestReceive req s
  | .recoveryImageLoad image => Sys2Proof.Machine.execRecoveryImageLoad image s
  | .securityVersionRaise version => Sys2Proof.Machine.execSecurityVersionRaise version s
  | .loomPortRetrain port => Sys2Proof.Machine.execLoomPortRetrain port s

end Sys2Proof.Machine
end

