-- ==== Sys2Proof/Machine/Late.lean ====
section
/-!
DEFINITION. Late.lean: accesses that take effect out of program order (spec/11_ordering.md R262 to R270, R276, R279;
spec/07_masks_streams.md R182; spec/12_queues.md R287). An instruction of a lag turn issues, and what it writes to memory or
reads from there waits in State.late until it takes effect as its core sees it; a write that has then waits in State.stores
until it performs. DESIGN CHOICE (log 3): the agenda says when.
-/

namespace Sys2Proof.Machine

/-! ## Order (R268, R276, R182) -/

/-- Two accesses of one core lie on one path in related classes (R268). -/
def Key.ordered (a b : Key) : Bool := a.path == b.path && related a.cls b.cls

/-- An instruction whose accesses write memory. -/
def Redo.writes (r : Redo) : Bool := match r.instr with
  | .vstXa .. | .vamAdd .. | .vamMin .. | .vamMax .. | .vamAnd .. | .vamOr .. | .vamXor .. | .vamSwap ..
  | .amAdd .. | .amAnd .. | .amOr .. | .amXor .. | .amMax .. | .amMin .. | .amMaxn .. | .amMinn .. | .amSwap ..
  | .amCas .. | .vstUn .. | .vstSd .. | .vstSm .. | .mSt .. => true
  | _ => false

/-- An entry writes memory. -/
def Late.writes (x : Late) : Bool := match x.act with
  | .write _ => true
  | .owed r => r.writes
  | .fence .. => false

/-- Of the elements of one instruction, two writes to one byte are ordered, and two that read and write (R253, R257); others
take effect in any order (R164). -/
def Late.sameBytes (x y : Late) : Bool := match x.act, y.act with
  | .write a, .write b => a.meets b
  | _, _ => x.writes && y.writes

/-- An entry comes before later accesses of its core with some keys. -/
def Late.orders (x : Late) (keys : List Key) : Bool := match x.act with
  | .fence _ _ post postCls stream => keys.any fun k =>
      post.contains k.path && postCls.contains k.cls && stream.all fun d => k.stream == d
  | _ => x.keys.any fun a => keys.any a.ordered

/-- An entry comes before a younger one. -/
def Late.precedes (x y : Late) : Bool := x.core == y.core && match x.act, y.act with
  | .fence .., .fence .. => false
  | .fence .., _ => x.orders y.keys
  | _, .fence pre preCls _ _ _ => x.keys.any fun k => pre.contains k.path && preCls.contains k.cls
  | _, _ => if x.seq = y.seq then x.sameBytes y else x.orders y.keys

/-- An entry put before marked ones: it is marked where it is chosen or comes before one that is marked. -/
def markFront (start : Late → Bool) (x : Late) (l : List (Late × Bool)) : List (Late × Bool) :=
  (x, start x || l.any fun y => y.2 && x.precedes y.1) :: l

/-- Which of some entries, in program order, are to take effect: those chosen, and those that come before one that is. -/
def marks (start : Late → Bool) : List Late → List (Late × Bool)
  | [] => []
  | x :: l => markFront start x (marks start l)

/-! ## An instruction's accesses made again -/

/-- The stream register whose elements an instruction of the lanes takes. -/
def laneStream : Instr → Option Nat
  | .vldSm _ a _ | .vstSm _ a _ => some a
  | _ => none

/-- The x register an instruction writes, if it can write one. -/
def xDest (i : Instr) : Option Nat :=
  let w := firstWord i
  if (reachesLanes w || isTile w || majorOf w == 0x2A) && !reserves i then none else some (fieldD w)

/-- The x register that an instruction's read of memory gives a value. -/
def Redo.xDest (r : Redo) : Option Nat := if accessesMemory (firstWord r.instr) then Machine.xDest r.instr else none

/-- The index from which an instruction that issued performs its elements. -/
def Redo.start (r : Redo) : Nat := match r.core.resume with
  | some is => is.start
  | none => 0

/-- Elements of a register taken from another core's state: a vector register with its tag, or an interval register. -/
def Core.copySlots (c d : Core) (lo hi : Nat) (f : Nat × Nat) : Core :=
  let at_ := List.range' lo (hi - lo)
  match f.1 with
  | 0 => (c.setElems f.2 (at_.map fun i => (i, d.elem f.2 i))).setTag f.2 (d.tag f.2)
  | 2 => c.setPairs f.2 (at_.map fun i => (i, d.pairBits f.2 i))
  | _ => c

/-- A core after accesses of an instruction that issued have taken effect: what they give its registers, the flags they
raise, and its L1D. -/
def Core.redone (c : Core) (r : Redo) (d : Core) : Core :=
  let c := match r.xDest with
    | some k => c.setX k (d.xreg k)
    | none => c
  let c := (slotWrites r.instr).foldl (fun c f => c.copySlots d r.start r.core.strip.len.toNat f) c
  { c with l1d := d.l1d
           modes := { c.modes with stat := c.modes.stat ||| (d.modes.stat &&& ~~~r.core.modes.stat) } }

/-- A cluster after them: its accumulators, and the pattern-cache entries that a store has removed (R232). -/
def Cluster.redone (k u : Cluster) : Cluster := { k with
  acc := u.acc, badAcc := u.badAcc, softAcc := u.softAcc, patterns := u.patterns, compiles := u.compiles
  events := k.events.set 0 3 (u.events.get 0 3) }

/-- A core after its instruction goes on running: it has not stopped, and neither waits nor has entered a handler. -/
def Core.wentOn (c d : Core) : Bool :=
  d.run == .running && d.wait == .none && d.push.isNone && d.resume.isNone &&
  decide (d.trapS = c.trapS) && decide (d.trapH = c.trapH) && decide (d.trapM = c.trapM)

/-- The next state, where there is one. -/
def nextOf : Host.Outcome State Fault Refusal → Option State
  | .next s => some s
  | _ => none

/-- An instruction that issued run again for its accesses, an m.ops with the pattern it found. -/
def Redo.run (r : Redo) (s : State) : Option State := match r.pattern, r.instr with
  | some p, .mOps d a b pp => nextOf (issue r.instr s fun s =>
      let is := s.issued s.cur (2 * pp) (2 * pp + 1) a
      sparseRun r.instr none s is d b pp is.xc.toNat p)
  | _, i => nextOf (exec i s)

/-- The accesses of an instruction that issued take effect: memory, the registers they give a value, the accumulators and
the L1D; where a condition now stops them they do not. -/
def State.rerun (s : State) (n : Nat) (keys : List Key) (r : Redo) : State :=
  let c := s.coreAt n
  let t := { s with cur := n, agenda := [], lag := some ⟨keys, .again, false⟩ }.setCoreAt n
    { r.core with l1d := c.l1d, events := c.events }
  match r.run t with
  | none => s
  | some u =>
    if !r.core.wentOn (u.coreAt n) then s
    else
      let s := { s with mem := u.mem, free := u.free }.setCoreAt n (c.redone r (u.coreAt n))
      if kindOf n = .hub then s
      else s.updClusterAt (clusterOf n) fun k => k.redone (u.clusterAt (clusterOf n))

/-! ## Taking effect -/

/-- One entry takes effect: a write is one that its core has made, the lines of its L1D that a write on P0 meets gone
(R270); an instruction's accesses are made, behind its core's writes where they update memory (R267); behind an order, its
core's writes have performed (R276). -/
def State.pass (s : State) (e : Late) : State :=
  let mine (k : Nat) : Bool := k == e.core
  match e.act with
  | .write w =>
    let s := { s with stores := s.stores ++ [w] }
    if e.keys.any fun k => k.path == 0 then s.updCoreAt e.core fun c => c.dropRuns w.runs else s
  | .owed r => (if r.writes then s.drain mine else s).rerun e.core e.keys r
  | .fence .. => s.drain mine

/-- Entries in program order: those marked take effect, the others wait on. -/
def State.passes (s : State) : List (Late × Bool) → State
  | [] => s
  | (e, true) :: l => (s.pass e).passes l
  | (e, false) :: l => { s with late := s.late ++ [e] }.passes l

/-- Chosen entries take effect, and those before them that must. -/
def State.takeEffect (s : State) (start : Late → Bool) : State := { s with late := [] }.passes (marks start s.late)

/-- The entry of a place takes effect, after those that must before it. -/
def State.effectAt (s : State) (k : Nat) : State := match s.late[k]? with
  | none => s
  | some e =>
    let t := ({ s with late := [] }.passes (marks (fun x => x.precedes e) (s.late.take k))).pass e
    { t with late := t.late ++ s.late.drop (k + 1) }

/-- What precedes accesses with some keys that a core makes now takes effect. -/
def State.before (s : State) (n : Nat) (keys : List Key) : State :=
  s.takeEffect fun x => x.core == n && x.orders keys

/-- Every access has taken effect, in program order, and every write has performed. -/
def State.settle (s : State) : State :=
  { ({ s with late := [] }.passes (s.late.map fun e => (e, true))).drain fun _ => true with lag := none }

/-! ## Registers that wait for a value -/

/-- The accumulators that an instruction reads or writes (R212). -/
def accsOf : Instr → List Nat
  | .mOp d _ _ _ | .mOps d _ _ _ | .mLd d _ | .mSt d _ | .mZero d => [d]
  | .mOpc d a _ _ => [d, a]
  | .vTr _ a _ _ | .vTc _ a _ _ => [a]
  | _ => []

/-- The interval registers that the fields of an interval instruction may name (R193). -/
def pairFields (i : Instr) : List Nat :=
  let w := firstWord i
  match i with
  | .qAxpy d a b _ _ => [d, a, b]
  | _ => if majorOf w == 0x2B || majorOf w == 0x2E || majorOf w == 0x1F || majorOf w == 0x28 then
      [fieldD w, fieldA w, fieldB w] else []

/-- An instruction reads or writes the slots of a register of a file. -/
def slotTouches (i : Instr) (f : Nat × Nat) : Bool :=
  (slotWrites i).contains f || (match f.1 with
    | 0 => (fieldReads i).contains (.tag f.2)
    | _ => (pairFields i).contains f.2)

/-- An instruction of the array raises flags when its accesses take effect, and this one reads or writes them (R105). -/
def flagsClash (owed i : Instr) : Bool := (fieldReads i).contains (.ctl 0x16) && match owed with
  | .mOp .. | .mOpc .. | .mOps .. => true
  | _ => false

/-- An instruction of a core uses a register that an entry is to give a value, or read. -/
def Late.clashes (x : Late) (n : Nat) (i : Instr) : Bool := match x.act with
  | .owed r =>
    (kindOf n != .hub && clusterOf x.core == clusterOf n && (accsOf r.instr).any (accsOf i).contains) ||
    (x.core == n &&
      (r.xDest.any (fun d => d != 0 && ((xSources i).contains d || xDest i == some d)) ||
        (slotWrites r.instr).any (slotTouches i) || flagsClash r.instr i))
  | _ => false

/-! ## How an instruction's accesses are made in a lag turn -/

/-- A memory format whose elements fill their bytes, so that a store reads nothing (R250, R267). -/
def wholeFmt (f : Fmt) : Bool := !(f == .t6 || f == .e2m1)

/-- In a lag turn: no access but what is finished at once; writes wait; reads wait, or reads and writes, of each element by
itself where split; reads are made at once, behind what orders them; an order is left (R276); an atomic that releases or
acquires, or a wait on a word (R271, R272); the writes of a stream have performed first (R184); the tile is read behind the
core's writes (R231). -/
inductive Manner | plain | stores | owes (split : Bool) | atOnce | fence | atomic | release (sr : Nat) | tile
deriving DecidableEq, Repr

/-- The manner of an instruction; none for one that finds every access before it performed: one that ends or releases a
core, a barrier, a supervisor's instruction, or a word that traps (R271, R294, R295, R281). -/
def State.mannerOf (s : State) (n : Nat) (i : Instr) : Option Manner :=
  let c := s.coreAt n
  let whole (r : Nat) : Bool := wholeFmt (c.stream r).desc.fmt
  let put (w split : Bool) : Option Manner := some (if w then .stores else .owes split)
  let rmw (ord : Ord) : Option Manner := some (if ord = .rlx then .owes false else .atomic)
  match i with
  | .ldS8 .. | .ldN8 .. | .ldS16 .. | .ldN16 .. | .ldS32 .. | .ldN32 .. | .ldX64 .. => some (.owes false)
  | .stS8 .. | .stS16 .. | .stS32 .. | .stX64 .. => some .stores
  | .amAdd _ _ _ ord _ | .amAnd _ _ _ ord _ | .amOr _ _ _ ord _ | .amXor _ _ _ ord _ | .amMax _ _ _ ord _
  | .amMin _ _ _ ord _ | .amMaxn _ _ _ ord _ | .amMinn _ _ _ ord _ | .amSwap _ _ _ ord _ | .amCas _ _ _ ord _
  | .amLd _ _ ord _ => rmw ord
  | .amSt _ _ ord _ => some (if ord = .rlx then .stores else .atomic)
  | .yWait .. => some .atomic
  | .vldUn .. | .vldSd .. | .vldX .. | .qldUn .. | .qldSd .. | .vldSm .. | .vstXa .. | .vamAdd .. | .vamMin ..
  | .vamMax .. | .vamAnd .. | .vamOr .. | .vamXor .. | .vamSwap .. => some (.owes true)
  | .vstUn _ _ _ f | .vstSd _ _ _ _ f => put (wholeFmt f) true
  | .vstX .. | .vstQun .. | .vstQsd .. => some .stores
  | .vstSm _ a _ => put (whole a) (!(c.stream a).desc.scaled)
  | .mSt _ a => put (whole a) false
  | .mLd .. | .mOp .. | .mOpc .. => some (.owes false)
  | .mOps .. | .mPrep .. => some .tile
  | .eCpy .. | .eWsl .. | .ePut .. | .eGet .. | .eRed .. => some .atOnce
  | .sBind d _ | .sRel d => some (.release d)
  | .yFence .. | .yXfence .. => some .fence
  | .yBar | .yEnd | .lnRel | .zCall | .zBrk | .zRet | .zHres .. | .zHstop .. | .zInva .. | .zInvs .. | .zInvp
  | .zSpawn .. | .zKill .. | .zYield | .zWsopen .. | .zWsclose .. | .emulate _ | .illegalWord _ => none
  | _ => some .plain

/-- The keys of an instruction's accesses (R262, R264). -/
def State.keysOf (s : State) (n : Nat) (i : Instr) : List Key :=
  let c := s.coreAt n
  let cls (k : Nat) : Nat := c.riderClass.getD k
  let vcls := cls (c.modes.vcfg.toNat / 2 ^ 16 % 16)
  let stream (r : Nat) : Key := ⟨if kindOf n = .treadle then 4 else 1, c.classOf (c.stream r).desc, r⟩
  match i with
  | .ldS8 _ _ k _ | .ldN8 _ _ k _ | .ldS16 _ _ k _ | .ldN16 _ _ k _ | .ldS32 _ _ k _ | .ldN32 _ _ k _
  | .ldX64 _ _ k _ | .stS8 _ _ k _ | .stS16 _ _ k _ | .stS32 _ _ k _ | .stX64 _ _ k _ => [⟨0, cls k, 16⟩]
  | .vldUn .. | .vldSd .. | .qldUn .. | .qldSd .. | .vstUn .. | .vstSd .. | .vstQun .. | .vstQsd .. => [⟨0, vcls, 16⟩]
  | .vldX .. | .vstX .. | .vstXa .. | .vamAdd .. | .vamMin .. | .vamMax .. | .vamAnd .. | .vamOr .. | .vamXor ..
  | .vamSwap .. => [⟨2, vcls, 16⟩]
  | .vldSm _ a _ | .vstSm _ a _ | .mLd _ a | .mSt _ a | .mOpc _ _ a _ => [stream a]
  | .mOp _ a b _ => [stream a, stream b]
  | .mOps _ _ b _ => [stream b, ⟨5, cls 0, 16⟩]
  | .mPrep .. => [⟨5, cls 0, 16⟩]
  | .eCpy .. | .eWsl .. | .ePut .. | .eGet .. | .eRed .. => [⟨0, cls 0, 16⟩, ⟨3, 0, 16⟩, ⟨6, 0, 16⟩]
  | .yWait .. | .sBind .. => [⟨0, cls 0, 16⟩]
  | i => if majorOf (firstWord i) = 0x0C then [⟨0, cls 0, 16⟩] else []

/-- A core's accesses need not take effect in program order: nothing of it is pending that they must have for, no stop and
no push (R271, R272, R284), and nothing of the package fails as it is read (R401). -/
def State.mayLag (s : State) (n : Nat) : Bool :=
  let c := s.coreAt n
  let k := s.clusterAt (clusterOf n)
  c.push.isNone && c.preempt.isNone && c.regrant.isNone && c.replies.isEmpty && c.services == 0 && c.badRegs.isEmpty &&
  (match c.resume with
    | some is => is.queued && is.start == 0
    | none => true) &&
  (match c.rider with
    | some r => r.push.isNone
    | none => true) &&
  s.hub.badWords.isEmpty && s.hub.softWords.isEmpty && s.hub.linkFails.isEmpty &&
  k.badSlots.isEmpty && k.badAcc.isEmpty && k.softAcc.isEmpty

/-! ## A lag turn -/

/-- An instruction of a core executed, if the core then goes on and no access was one that may not wait. -/
def State.trial (s : State) (n : Nat) (i : Instr) (lag : Option Lag) : Option State :=
  (nextOf (exec i { s with lag := lag })).bind fun u =>
    if (s.coreAt n).wentOn (u.coreAt n) && u.lag.all fun l => !l.fixed then some { u with lag := none } else none

/-- The lines that an instruction has left as they were. -/
def Core.keepLines (c d : Core) : Core := { d with l1d := d.l1d.filter c.l1d.contains }

/-- A core that has issued an instruction: what its accesses are to give it has not come; that its strip was shortened
has. -/
def Core.issuedOnly (c d : Core) : Core := { c.keepLines d with
  vec := c.vec, x := c.x, modes := { d.modes with stat := c.modes.stat ||| (d.modes.stat &&& 0x100) } }

/-- A core as an instruction found it when it issued, its strip as the instruction left it: what is made again of it is
no new issue (R26). -/
def State.issuedAs (s : State) (n : Nat) (i : Instr) (strip : Strip) : Core :=
  let c := s.coreAt n
  let r := takenRegs i
  { c with
    strip := strip
    resume := some { s.issued n r.1 r.2.1 r.2.2 with queued := false }
    rider := c.rider.map fun r => { r with pop := none, push := none, popped := true }
    wait := .none, held := [], replies := [] }

/-- Element k of an instruction of the lanes by itself. -/
def Redo.only (r : Redo) (k : Nat) : Redo :=
  let c := r.core
  let c := match laneStream r.instr with
    | some sr => c.updStream sr fun st => st.moveTo (st.pos + (k - r.start))
    | none => c
  { r with core := { c with strip := { c.strip with len := .ofNat 32 (k + 1) }
                            resume := c.resume.map fun is => { is with start := k } } }

/-- The parts in which an instruction's accesses take effect. -/
def Redo.parts (r : Redo) (split : Bool) : List Redo :=
  if split then (List.range' r.start (r.core.strip.len.toNat - r.start)).map r.only else [r]

/-- An instruction issued whose accesses are owed. -/
def State.owing (s : State) (n : Nat) (i : Instr) (split : Bool) (pattern : Option Pattern) : Option State :=
  let keys := s.keysOf n i
  let c := s.coreAt n
  (s.trial n i (some ⟨keys, .defer, false⟩)).map fun u =>
    let r : Redo := ⟨i, s.issuedAs n i (u.coreAt n).strip, pattern⟩
    let owed := (r.parts split).map fun p : Redo => (⟨n, c.instret, keys, .owed p⟩ : Late)
    let u := { u with late := s.late ++ owed }.setCoreAt n (c.issuedOnly (u.coreAt n))
    if kindOf n = .hub then u
    else
      let k := s.clusterAt (clusterOf n)
      u.updClusterAt (clusterOf n) fun v => { v with acc := k.acc, badAcc := k.badAcc, softAcc := k.softAcc }

/-- The numbers below 16 that a test picks. -/
def below16 (p : Nat → Bool) : List Nat := (List.range 16).filter p

/-- The paths of a mask. -/
def maskPaths (m : BitVec 8) : List Nat := (List.range 8).filter fun k => m.getLsbD k

/-- The paths of the accesses a core makes itself (R263). -/
def ownPaths : Kind → List Nat
  | .hart => [0, 1, 2]
  | .treadle => [0, 4, 5]
  | .hub => [0]

/-- The orders that a fence leaves, or the binding of a stream (R276, R182; its question 4 adds class 0). -/
def State.ordersOf (s : State) (n : Nat) : Instr → List Pending
  | .yFence cmask _ => (ownPaths (kindOf n)).map fun p =>
      .fence [p] (below16 (inMask cmask)) [p] (below16 (inMask cmask)) none
  | .yXfence pa pb _ => [.fence (maskPaths pa) (List.range 16) (maskPaths pb) (List.range 16) none]
  | .sBind d _ => [.fence (ownPaths (kindOf n)) [0, ((s.coreAt n).stream d).desc.cls]
      [if kindOf n = .treadle then 4 else 1] (List.range 16) (some d)]
  | _ => []

/-- Orders left behind what waits of a core, if anything does. -/
def State.leaveOrders (s : State) (n : Nat) (seq : Word) (l : List Pending) : State :=
  if (s.late.any fun x => x.core == n) || s.stores.any fun w => w.core == n then
    { s with late := s.late ++ l.map fun p => ⟨n, seq, [], p⟩ }
  else s

/-- Chosen accesses of a core take effect, and its writes perform. -/
def State.performed (s : State) (n : Nat) (start : Late → Bool) : State :=
  (s.takeEffect fun x => x.core == n && start x).drain fun k => k == n

/-- An instruction of a core whose accesses need not take effect in program order, once the registers it uses have their
values; none where it, or what it meets, may not have such a turn. -/
def State.lagTurn (s : State) (n : Nat) (i : Instr) : Option State :=
  let s := s.takeEffect fun x => x.clashes n i
  let keys := s.keysOf n i
  let seq := (s.coreAt n).instret
  let lines (u : State) : State := u.updCoreAt n (s.coreAt n).keepLines
  match s.mannerOf n i with
  | none => none
  | some .plain => s.trial n i none
  | some .stores => (s.trial n i (some ⟨keys, .defer, false⟩)).map lines
  | some (.owes split) => s.owing n i split none
  | some .atOnce => (s.before n keys).trial n i (some ⟨keys, .now, false⟩)
  | some .fence =>
    let t := match i with
      | .yXfence pa pb _ => if pb.getLsbD 7 then s.performed n fun x => x.keys.any fun k => (maskPaths pa).contains k.path
        else s
      | _ => s
    (t.trial n i none).map fun u => u.leaveOrders n seq (u.ordersOf n i)
  | some .atomic => (s.performed n fun x => x.orders [⟨0, 0, 16⟩]).trial n i none
  | some (.release sr) =>
    let t := (s.performed n fun x => x.writes && x.keys.any fun k => k.stream == sr).before n keys
    (t.trial n i (some ⟨keys, .now, false⟩)).map fun u => u.leaveOrders n seq (u.ordersOf n i)
  | some .tile =>
    let t := s.takeEffect fun x => x.core == n && (x.writes || x.orders [⟨5, 0, 16⟩])
    match i with
    | .mOps _ a _ pp =>
      match ({ t with lag := some ⟨keys, .now, false⟩ }.lookup n (t.issued n (2 * pp) (2 * pp + 1) a).xc.toNat).2 with
      | .hit p => t.owing n i false (some p)
      | _ => none
    | _ => t.trial n i (some ⟨keys, .now, false⟩)

/-- The values that owed accesses are to give the x registers of a core, taken: its front end reads them (R287). -/
def State.scalarsDue (s : State) (n : Nat) : State := s.takeEffect fun x => x.core == n && match x.act with
  | .owed r => r.xDest.isSome
  | _ => false

/-- Every core of which something waits runs. -/
def State.lateRun (s : State) : Bool :=
  (s.late.all fun x => (s.coreAt x.core).run == .running) && s.stores.all fun w => (s.coreAt w.core).run == .running

end Sys2Proof.Machine
end

