-- ==== Sys2Proof/Machine/Step.lean ====
section
/-!
DEFINITION. Step.lean: one step of the machine: the next turn of the agenda, or the next running core's. DESIGN CHOICE
(log 1): one deterministic order; State.agenda says which core or event moves next. Every turn finds the accesses
that waited performed, but for those of R269 and the rows of an engine command.
-/

namespace Sys2Proof.Machine

/-- A core's turn. -/
def coreStep (s : State) (n : Nat) : Host.Outcome State Fault Refusal :=
  let s := { s with cur := n }
  match s.turn n with
  | .done t => .next t
  | .run t i => exec i t

/-- A core's turn whose accesses need not take effect in program order (R269); where that may not be, it finds those before
it performed. -/
def lagStep (s : State) (n : Nat) : Host.Outcome State Fault Refusal :=
  match { s with cur := n }.turn n with
  | .run t i => match (if t.mayLag n then t.lagTurn n i else none) with
    | some u => .next u
    | none => coreStep s.settle n
  | .done _ => coreStep s.settle n

/-- An event that its core's own waiting accesses need not precede: an engine command's start and elements (R279). -/
def overtakes : Instr → Bool
  | .engineCommandStart .. | .engineCommandComplete .. => true
  | _ => false

/-- An event; one that overtakes finds what waits performed after all where it stops a core of which something waits. -/
def eventStep (s : State) (i : Instr) : Host.Outcome State Fault Refusal :=
  if overtakes i then match exec i s with
    | .next u => if u.lateRun then .next u else exec i s.settle
    | o => o
  else exec i s.settle

/-- One step. -/
def step (s : State) : Host.Outcome State Fault Refusal :=
  match s.agenda with
  | .core n :: rest => coreStep { s with agenda := rest }.settle n
  | .event i :: rest => eventStep { s with agenda := rest } i
  | .ahead n :: rest => .next (({ s with agenda := rest }.scalarsDue n).dispatchAhead n)
  | .lag n :: rest => lagStep { s with agenda := rest } n
  | .effect k :: rest => .next ({ s with agenda := rest }.effectAt k)
  | .perform k :: rest => .next ({ s with agenda := rest }.performLate k)
  | [] => match nextRunning s.cores s.hub.power.trip s.cur with
    | some n => coreStep s.settle n
    | none => .fault .idle

/-- The core whose instruction runs next when the agenda holds no event. -/
def State.nextCore (s : State) : Nat := match s.agenda with
  | .core n :: _ => n
  | _ => (nextRunning s.cores s.hub.power.trip s.cur).getD 7200

/-- An instruction stored where the next step fetches it (log 22): the words of w in bits 31:0 and 63:32, at the pc of
the next core; a word that core cannot run is given to hart 0, with a grant of four lanes, or to the treadle of cluster
0. Only that core's pending push and progress, which would stand before the fetch, are cleared, and the accesses that
wait have performed. -/
def State.withFetchWord (s : State) (_nbits w : Nat) : State :=
  let s := s.settle
  let m := s.nextCore
  let n := coreFor (w % 2 ^ 32) m
  let c := if n = m then s.coreAt n
    else if n = 8 then { Core.absentTreadle with run := .running }
    else { Core.absent with run := .running, ident := ⟨0, 0, 0, 0, 0, 4, 0⟩ }
  let s := s.setCoreAt n { c with run := .running, push := none, resume := none, wait := .none }
  { s.placeBytes n (leBytes 8 w) with agenda := [.core n] }

end Sys2Proof.Machine
end

