-- ==== Sys2Proof/Safety.lean ====
section
/-!
DEFINITION. Safety.lean: the terms in which claims speak: a good state, a run, the conditions under which an instruction
has its own effect, and what its retirement changes.
-/

namespace Sys2Proof.Machine

/-- Memory is in its canonical form: keys rise strictly, and no listed byte is what an unlisted one reads as. -/
def State.canonical (s : State) : Prop := Memory.wf s.mem = true

/-- A run of k steps, none of which stops. -/
inductive Runs : Nat → State → State → Prop
  | stay (s : State) : Runs 0 s s
  | go (k : Nat) (s t u : State) : step s = .next t → Runs k t u → Runs (k + 1) s u

/-- A step that does not refuse. -/
def State.modelled (s : State) : Prop := ∀ r, step s ≠ .refused r

/-- No word of memory has an error, and no transfer to come fails (R401). -/
def State.errorFree (s : State) : Prop := s.hub.badWords = [] ∧ s.hub.softWords = [] ∧ s.hub.linkFails = []

/-- Nothing stands before an instruction's own effect at the core whose turn it is, but for a rider: the turn's writes do
not wait (R269), and there is no fault-service hold (R346), no progress of an earlier part of it (R26), no failed check at
decode (R53), no zero-length strip (R16), no other vector or tile owner and no uncorrectable register (R53), no reply due
for its registers, no want of a reply slot and no full queue (R287 to R289). -/
structure ClearButRider (i : Instr) (s : State) : Prop where
  prompt : s.lag = none
  service : s.serviceHeld s.cur = false
  fresh : s.core.resume = none
  decoded : s.decodeCause s.cur i = none
  strip : reachesLanes (firstWord i) = true → s.core.strip.len ≠ 0
  owner : s.ownerCause s.cur i = none
  queue : s.queueWait s.cur i = none

/-- Nothing stands before an instruction's own effect, and it has no rider. -/
structure Clear (i : Instr) (s : State) : Prop extends ClearButRider i s where
  alone : s.core.rider = none

/-- A core whose instruction without a rider has retired with the pc at a value: one more retired instruction, nothing
in progress. -/
def Core.retired (c : Core) (pc : Word) : Core := { c with
  pc := pc, instret := c.instret + 1, resume := none, wait := .none, rider := none }

/-- The state with the core whose turn it is replaced by that core after the retirement of i. -/
def State.retires (s : State) (i : Instr) (c : Core) : State :=
  s.setCore (c.retired (s.core.pc + .ofNat 64 (lengthOf i)))

/-- A lead trap taken by the core whose turn it is, at its pc, its replies written and its queue dropped (R361, R362,
R369). -/
def State.trapped (s : State) (cause tval : Nat) : State :=
  (s.setCore { s.core.stopsLead with resume := none }).takeTrap s.cur cause tval

end Sys2Proof.Machine
end

