-- ==== Sys2Proof/Certificates/Slice0/Obligations.lean ====
section
/-!
DEFINITION. Obligations.lean: the statements for the provers, and the small tables and words they are written in. Each
docstring names the rule of spec/ it formalises.
-/

namespace Sys2Proof.Claims

open Sys2Proof.Machine

/-! ## Tables of results, written from the spec's own descriptions -/

/-- A signed 64-bit value clamped, with SAT when the clamp changes it; or wrapped (R83, R122). -/
def satOrWrap (sat : Bool) (v : Int) : Word × Flags :=
  if sat then (if v < -9223372036854775808 then (0x8000000000000000, Flags.sat)
    else if 9223372036854775807 < v then (0x7FFFFFFFFFFFFFFF, Flags.sat) else (.ofInt 64 v, 0))
  else (.ofInt 64 v, 0)

/-- The number of the highest of the first n bits that is 1, counted from the top (R122). -/
def zerosFromTop (v : Word) : Nat → Nat
  | 0 => 0
  | n + 1 => if v.getLsbD n then 0 else 1 + zerosFromTop v n

/-- Ones among the low n bits (R122). -/
def onesIn (v : Word) : Nat → Nat
  | 0 => 0
  | n + 1 => (if v.getLsbD n then 1 else 0) + onesIn v n

/-- The lowest of n bits from k on that is 1 (R122). -/
def zerosFromBottom (v : Word) : Nat → Nat → Nat
  | 0, _ => 0
  | n + 1, k => if v.getLsbD k then 0 else 1 + zerosFromBottom v n (k + 1)

/-- R122 to R124: destination, result and flags of the scalar integer instructions, from the registers before. -/
def scalarResult (x : Nat → Word) : Instr → Option (Nat × Word × Flags)
  | .xAdd d a b sat => some (d, satOrWrap sat ((x a).toInt + (x b).toInt))
  | .xSub d a b sat => some (d, satOrWrap sat ((x a).toInt - (x b).toInt))
  | .xShl d a b sat => some (d, satOrWrap sat ((x a).toInt * 2 ^ ((x b).toNat % 64)))
  | .xMul d a b sat => some (d, satOrWrap sat ((x a).toInt * (x b).toInt))
  | .xAnd d a b => some (d, x a &&& x b, 0)
  | .xOr d a b => some (d, x a ||| x b, 0)
  | .xXor d a b => some (d, x a ^^^ x b, 0)
  | .xAndn d a b => some (d, x a &&& ~~~(x b), 0)
  | .xShr d a b => some (d, .ofNat 64 ((x a).toNat / 2 ^ ((x b).toNat % 64)), 0)
  | .xSar d a b => some (d, .ofInt 64 ((x a).toInt / 2 ^ ((x b).toNat % 64)), 0)
  | .xMulh d a b => some (d, .ofInt 64 ((x a).toInt * (x b).toInt / 2 ^ 64), 0)
  | .xMulhn d a b => some (d, .ofNat 64 ((x a).toNat * (x b).toNat / 2 ^ 64), 0)
  | .xDiv d a b => some (d, if x b = 0 then (-1, Flags.dz) else (.ofInt 64 ((x a).toInt.tdiv (x b).toInt), 0))
  | .xDivn d a b => some (d, if x b = 0 then (-1, Flags.dz) else (.ofNat 64 ((x a).toNat / (x b).toNat), 0))
  | .xRem d a b => some (d, if x b = 0 then (x a, Flags.dz) else (.ofInt 64 ((x a).toInt.tmod (x b).toInt), 0))
  | .xRemn d a b => some (d, if x b = 0 then (x a, Flags.dz) else (.ofNat 64 ((x a).toNat % (x b).toNat), 0))
  | .xMin d a b => some (d, if (x b).toInt < (x a).toInt then x b else x a, 0)
  | .xMax d a b => some (d, if (x a).toInt < (x b).toInt then x b else x a, 0)
  | .xMinn d a b => some (d, if (x b).toNat < (x a).toNat then x b else x a, 0)
  | .xMaxn d a b => some (d, if (x a).toNat < (x b).toNat then x b else x a, 0)
  | .xSlt d a b => some (d, if (x a).toInt < (x b).toInt then 1 else 0, 0)
  | .xSltn d a b => some (d, if (x a).toNat < (x b).toNat then 1 else 0, 0)
  | .xSeq d a b => some (d, if x a = x b then 1 else 0, 0)
  | .xSel d a b => some (d, if x d = 0 then x b else x a, 0)
  | .xClz d a => some (d, .ofNat 64 (zerosFromTop (x a) 64), 0)
  | .xCtz d a => some (d, .ofNat 64 (zerosFromBottom (x a) 64 0), 0)
  | .xPopc d a => some (d, .ofNat 64 (onesIn (x a) 64), 0)
  | .xiAdd d a imm => some (d, .ofInt 64 ((x a).toInt + imm.toInt), 0)
  | .xiAnd d a imm => some (d, x a &&& .ofInt 64 imm.toInt, 0)
  | .xiOr d a imm => some (d, x a ||| .ofInt 64 imm.toInt, 0)
  | .xiXor d a imm => some (d, x a ^^^ .ofInt 64 imm.toInt, 0)
  | .xiShl d a sh => some (d, .ofNat 64 ((x a).toNat * 2 ^ sh.toNat), 0)
  | .xiShr d a sh => some (d, .ofNat 64 ((x a).toNat / 2 ^ sh.toNat), 0)
  | .xiSar d a sh => some (d, .ofInt 64 ((x a).toInt / 2 ^ sh.toNat), 0)
  | .xiSlt d a imm => some (d, if (x a).toInt < imm.toInt then 1 else 0, 0)
  | .xlLd d imm => some (d, .ofInt 64 imm.toInt, 0)
  | .xlHi d imm => some (d, .ofNat 64 (imm.toNat * 2 ^ 32 + (x d).toNat % 2 ^ 32), 0)
  | .hint _ => some (0, 0, 0)
  | _ => none

/-- R125 to R127: the scalar float instructions, their operands the register bits read in the format fm, their result
rounded once (R104); f.cvt and f.class by R126 and R125. -/
def floatResult (x : Nat → Word) : Instr → Option (Nat × Word × Flags)
  | .fAdd d a b fm rm => some (d, xResult (flOf fm) rm (addV rm (xFloat (flOf fm) (x a)) (xFloat (flOf fm) (x b))))
  | .fSub d a b fm rm =>
    some (d, xResult (flOf fm) rm (addV rm (xFloat (flOf fm) (x a)) (xFloat (flOf fm) (x b)).negate))
  | .fMul d a b fm rm => some (d, xResult (flOf fm) rm (mulV (xFloat (flOf fm) (x a)) (xFloat (flOf fm) (x b))))
  | .fFma d a b fm rm =>
    some (d, xResult (flOf fm) rm (fmaV rm (xFloat (flOf fm) (x a)) (xFloat (flOf fm) (x b)) (xFloat (flOf fm) (x d))))
  | .fDiv d a b fm rm => some (d, xResult (flOf fm) rm (divV (xFloat (flOf fm) (x a)) (xFloat (flOf fm) (x b))))
  | .fSqrt d a fm rm => some (d, xResult (flOf fm) rm (sqrtV (xFloat (flOf fm) (x a))))
  | .fMin d a b fm _ =>
    some (d, xResult (flOf fm) .rne (minMaxV false (xFloat (flOf fm) (x a)) (xFloat (flOf fm) (x b))))
  | .fMax d a b fm _ =>
    some (d, xResult (flOf fm) .rne (minMaxV true (xFloat (flOf fm) (x a)) (xFloat (flOf fm) (x b))))
  | .fCmp d a b fm c =>
    let r := floatCmp c (xFloat (flOf fm) (x a)) (xFloat (flOf fm) (x b))
    some (d, if r.1 then 1 else 0, r.2)
  | .fCvt d a dk sk rm => some (d, floatCvt dk sk rm (x a))
  | .fClass d a fm _ => some (d, .ofNat 64 (floatClass (flOf fm) (x a).toNat), 0)
  | _ => none

/-- R128, R129: where the branches and jumps send the pc, and the link register they write with its value. -/
def jumpResult (x : Nat → Word) (pc : Word) : Instr → Option (Word × Nat × Word)
  | .bEq a b off => some (if x a = x b then pc + 4 * .ofInt 64 off.toInt else pc + 4, 0, 0)
  | .bNe a b off => some (if x a = x b then pc + 4 else pc + 4 * .ofInt 64 off.toInt, 0, 0)
  | .bLt a b off => some (if (x a).toInt < (x b).toInt then pc + 4 * .ofInt 64 off.toInt else pc + 4, 0, 0)
  | .bGe a b off => some (if (x a).toInt < (x b).toInt then pc + 4 else pc + 4 * .ofInt 64 off.toInt, 0, 0)
  | .bLtn a b off => some (if (x a).toNat < (x b).toNat then pc + 4 * .ofInt 64 off.toInt else pc + 4, 0, 0)
  | .bGen a b off => some (if (x a).toNat < (x b).toNat then pc + 4 else pc + 4 * .ofInt 64 off.toInt, 0, 0)
  | .jLink d off => some (pc + 4 * .ofInt 64 off.toInt, d, pc + 4)
  | .jInd d a off =>
    if (x a).toNat % 4 = 0 then some (x a + 4 * .ofInt 64 off.toInt, d, pc + 4) else none
  | _ => none

end Sys2Proof.Claims

open Sys2Proof Sys2Proof.Machine Sys2Proof.Claims

/-! ## Encodings, fetching and reset -/

/-- R42, R43, R48: the words of a well-formed instruction, followed by anything, decode to that instruction and leave
what follows, with every operand at every value the encoding admits. A word that is none (`illegalWord`) has none. -/
def Obligations.DecodeInvertsEncode : Prop :=
  ∀ (i : Instr) (rest : List Byte), WellFormed i = true → encodeWords i ≠ [] → (∀ w, i ≠ .illegalWord w) →
    decode (encode i ++ rest) = .ok (i, rest)

/-- R43, R51: whatever decodes is well-formed and is exactly the encoding of what it decodes to: no field with a value
the manual calls illegal and no reserved bit is let through, and no two words decode to one instruction. -/
def Obligations.DecodedIsEncoding : Prop :=
  ∀ (bs rest : List Byte) (i : Instr), decode bs = .ok (i, rest) → WellFormed i = true ∧ bs = encode i ++ rest

/-- R39, R48, R122, R125, R128, R140, R198, R306: a word of each of several families, written from the encoding tables,
decodes to what it stands for. -/
def Obligations.TableWordsDecode : Prop :=
  decodeTableWord 32 (0x02 * 2 ^ 26 + 5 * 2 ^ 20 + 6 * 2 ^ 14 + 7 * 2 ^ 8) = some (.xAdd 5 6 7 false) ∧
  decodeTableWord 32 (0x0A * 2 ^ 26 + 5 * 2 ^ 20 + 6 * 2 ^ 14 + 0 * 2 ^ 11 + 2 * 2 ^ 7) = some (.ldS8 5 6 2 0) ∧
  decodeTableWord 32 0xAC108300 = some (.qAdd 1 2 3 false) ∧
  decodeTableWord 32 0xAC414614 = some (.qMul 4 5 6 true) ∧
  decodeTableWord 32 0xB8108338 = some (.qAxpy 1 2 3 7 false) ∧
  decodeTableWord 32 0x34000003 = some .yEnd ∧
  decodeTableWord 32 0 = none

/-- R39, R40, R51: when the core whose turn the agenda names may run and has nothing to do before its next instruction (no
push to perform, no held instruction, no interrupt, which on a hub hart that waits for an invalidation comes later), and
the words at its pc decode to an instruction, the step is that instruction's meaning at the state the fetch leaves, with
the turn taken off the agenda, the writes that waited performed (log 3) and the core made current. -/
def Obligations.StepRunsDecoded : Prop :=
  ∀ (s : State) (n : Nat) (rest : List Turn) (i : Instr) (t u : State) (w w1 : Nat),
    let s0 := { ({ s with agenda := rest } : State).settle with cur := n }
    let c := s0.coreAt n
    s.agenda = .core n :: rest → c.run = .running → (s0.hub.power.trip = true → 7200 ≤ n) → c.push = none →
    c.held = [] → (7200 ≤ n → c.wait ≠ .inval → s0.interrupt n = none) →
    s0.fetchWord n c.pc.toNat = (t, .ok w) →
    (if isTwoWord w then t.fetchWord n (c.pc + 4).toNat = (u, .ok w1) else u = t ∧ w1 = 0) →
    decodeWord w w1 = .ok i →
    step s = exec i u

/-- R25: with no turn on the agenda the step is that of the next running core (DESIGN CHOICE, log 1: which one that is).
-/
def Sys2Proof.Claims.StepTakesNextRunning : Prop :=
  ∀ (s : State) (n : Nat), s.agenda = [] → nextRunning s.cores s.hub.power.trip s.cur = some n →
    step s = step { s with agenda := [.core n] }

/-- The model's choice (log 1: the agenda; log 18: waiting for outside), no rule of the spec: with no turn due and no core
that may run, the machine waits for an event from outside, which is the one fault, and it faults for nothing else. -/
def Sys2Proof.Claims.IdleOnlyWhenNothingRuns : Prop :=
  ∀ (s : State), (step s = .fault .idle ↔ s.agenda = [] ∧ nextRunning s.cores s.hub.power.trip s.cur = none)

/-- The model's choice (log 1): no instruction or row refuses, and none faults: each answers a next state. -/
def Sys2Proof.Claims.EveryTurnAnswers : Prop := ∀ (i : Instr) (s : State), ∃ t, exec i s = .next t

/-- R269, R265, R266: the model's choice (log 3: which writes wait, and which turn performs one): a turn that performs a
write that has taken effect as its core sees it puts its bytes into memory and takes it off the list, unless an older such
write of the same core to one of its bytes still waits; then, and where there is no such write, nothing happens. -/
def Sys2Proof.Claims.WaitingWritesPerform : Prop :=
  ∀ (s : State), (∀ e ∈ s.stores, ∃ k, e.runs = [(k, e.bytes.length)]) →
    ∀ (k : Nat) (rest : List Turn), s.agenda = .perform k :: rest →
      let s0 := { s with agenda := rest }
      let older (e x : Store) : Prop := x.core = e.core ∧ ∃ b, x.byteAt b ≠ none ∧ e.byteAt b ≠ none
      (s.stores[k]? = none → step s = .next s0) ∧
      ∀ e, s.stores[k]? = some e →
        ((∃ x ∈ s.stores.take k, older e x) → step s = .next s0) ∧
        ((∀ x ∈ s.stores.take k, ¬ older e x) → ∃ t, step s = .next t ∧ t.stores = s.stores.eraseIdx k ∧
          ∀ b, t.byteAt b = (e.byteAt b).getD (s.byteAt b))

namespace Sys2Proof.Claims

/-- The write that an entry of State.late is, if it is one. -/
def lateWrite (e : Late) : Option Store := match e.act with
  | .write w => some w
  | _ => none

/-- R268: an access comes before a later one of its core: some path of both is the same and their classes on it related. -/
def comesBefore (x e : Late) : Prop :=
  x.core = e.core ∧ ∃ a ∈ x.keys, ∃ b ∈ e.keys, a.path = b.path ∧ (a.cls = b.cls ∨ a.cls = 0 ∨ b.cls = 0)

end Sys2Proof.Claims

/-- R268, R269: the model's choice (log 3: which turn it is) is when a write that waits takes effect as its core sees it: with
memory as it was it leaves State.late and comes last among the writes that have taken effect, after those of earlier
instructions of its core on its path in related classes, which take effect before it, and alone where there are none. -/
def Sys2Proof.Claims.WaitingWritesTakeEffect : Prop :=
  ∀ (s : State) (k : Nat) (rest : List Turn) (e : Late) (w : Store), s.agenda = .effect k :: rest →
    s.late[k]? = some e → e.act = .write w →
    ((∀ x ∈ s.late.take k, (∃ v, x.act = .write v) ∧ x.seq ≠ e.seq ∧ ¬ comesBefore x e) → ∃ t, step s = .next t ∧
      t.late = s.late.eraseIdx k ∧ t.stores = s.stores ++ [w] ∧ t.mem = s.mem) ∧
    ((∀ x ∈ s.late.take k, ∃ v, x.act = .write v) → ∃ t pre, step s = .next t ∧ t.stores = s.stores ++ pre ++ [w] ∧
      t.mem = s.mem ∧ ∀ x ∈ s.late.take k, ∀ v, x.act = .write v → x.seq ≠ e.seq → comesBefore x e → v ∈ pre)

/-- R269: the model's choice (log 3) is when every access has taken effect and every write performed: then none waits, and,
where only writes did, each byte is as the last of them to it left it. -/
def Sys2Proof.Claims.WaitingAccessesSettle : Prop :=
  ∀ (s : State), s.settle.late = [] ∧ s.settle.stores = [] ∧ s.settle.lag = none ∧
    ((∀ e ∈ s.late, ∃ w, e.act = .write w) →
      let all := s.stores ++ s.late.filterMap lateWrite
      (∀ w ∈ all, ∃ k, w.runs = [(k, w.bytes.length)]) →
      ∀ b, s.settle.byteAt b = (all.reverse.findSome? fun w => w.byteAt b).getD (s.byteAt b))

/-- R286 to R288, R361: the model's choice (log 2: when the front end runs ahead): a turn that dispatches ahead of a running
core, whose queue is empty, in which nothing resumes, and of which no access waits, takes the instruction at its pc into its
queue where that may be dispatched, with what it takes there, and changes nothing but what the fetch does; and a core whose oldest queue entry stands at its pc runs
that entry, not what memory then holds there. -/
def Sys2Proof.Claims.QueuesRun : Prop :=
  ∀ (s : State) (n : Nat) (rest : List Turn),
    let c := s.coreAt n
    c.run = .running → s.hub.power.trip = false → c.resume = none →
    (∀ t i, s.agenda = .ahead n :: rest → s.late = [] → kindOf n ≠ .hub → c.rider = none → c.held = [] →
      let s0 := { s with agenda := rest }
      s0.fetchAt n c.pc = (t, .ok i) → t.dispatches n c.owed i = true →
      c.pc.toNat % 131072 + lengthOf i ≤ 131072 →
      step s = .next (t.setCoreAt n { t.coreAt n with held := [t.entry n i c.pc] })) ∧
    (∀ h hs, s.agenda = .core n :: rest → s.late = [] → s.stores = [] → s.lag = none → kindOf n ≠ .hub → c.push = none → c.held = h :: hs → h.pc = c.pc →
      step s = exec h.instr ({ s with agenda := rest, cur := n }.setCoreAt n { c with held := hs, resume := some h.issue }))

/-- With nothing due the next running core has its turn; only with none is the machine idle; no turn is refused; the turns
of accesses that wait and of the queues: the claims StepTakesNextRunning, IdleOnlyWhenNothingRuns, EveryTurnAnswers,
WaitingWritesPerform, WaitingWritesTakeEffect, WaitingAccessesSettle, QueuesRun. -/
def Obligations.NextTurn : Prop :=
  Sys2Proof.Claims.StepTakesNextRunning ∧ Sys2Proof.Claims.IdleOnlyWhenNothingRuns ∧
  Sys2Proof.Claims.EveryTurnAnswers ∧ Sys2Proof.Claims.WaitingWritesPerform ∧
  Sys2Proof.Claims.WaitingWritesTakeEffect ∧ Sys2Proof.Claims.WaitingAccessesSettle ∧ Sys2Proof.Claims.QueuesRun

/-- R404, R110, R335, R338: in State.reset, the package before its firmware's first step, hub hart 0 runs at M, no other
core runs, every partition is free, no resource is assigned and no core is in a partition. That no memory is listed and
no turn is due are the model's choices (log 6 and log 1), as is the pc of hub hart 0, of which this says nothing (log 7);
a package reset of a running machine is the row packageReset, which keeps the LPDDR-6 and weight-store bytes (log 7). -/
def Obligations.ResetRunsHubHartZero : Prop :=
  (State.reset.coreAt 7200).run = .running ∧ (State.reset.coreAt 7200).level = .m ∧
  (∀ n, n ≠ 7200 → (State.reset.coreAt n).run = .absent) ∧ (∀ n, State.reset.partOf n = none) ∧
  (∀ p, (State.reset.partAt p).state = 0) ∧ (∀ r, (State.reset.attachAt r).state = 0) ∧
  State.reset.mem = [] ∧ State.reset.agenda = []

/-! ## Scalar instructions -/

/-- R122, R123, R124, R83, R84, R51: each scalar integer instruction, when nothing stands before it, retires with its
result in its destination, its flags raised, the pc past it and nothing else of the machine changed; with destination
x0 it is a hint and raises no flag. -/
def Obligations.ScalarIntegerResults : Prop :=
  ∀ (i : Instr) (s : State) (d : Nat) (v : Word) (fl : Flags),
    scalarResult s.x i = some (d, v, fl) → Clear i s →
    exec i s = .next (s.retires i (if d = 0 then s.core else (s.core.setX d v).raise fl))

/-- R125, R126, R127, R104: each scalar float instruction, when nothing stands before it, retires with its result in its
destination, its flags raised, the pc past it and nothing else of the machine changed; with destination x0 its flags are
still raised. -/
def Obligations.ScalarFloatResults : Prop :=
  ∀ (i : Instr) (s : State) (d : Nat) (v : Word) (fl : Flags),
    floatResult s.x i = some (d, v, fl) → Clear i s →
    exec i s = .next (s.retires i ((s.core.setX d v).raise fl))

/-- R128, R129: each branch and jump retires with the pc at the target or past it and its link register written. -/
def Obligations.BranchesAndJumps : Prop :=
  ∀ (i : Instr) (s : State) (pc : Word) (d : Nat) (v : Word),
    jumpResult s.x s.core.pc i = some (pc, d, v) → Clear i s →
    exec i s = .next (s.setCore ((s.core.setX d v).retired pc))

/-- R129, R362, R369: j.ind to an address that is no multiple of 4 takes a lead trap with cause misaligned and the
target as its value (DEDUCED, log 24: the trap value), and writes no register. -/
def Sys2Proof.Claims.IndirectJumpMisaligned : Prop :=
  ∀ (d a : Nat) (off : BitVec 12) (s : State), Clear (.jInd d a off) s → (s.x a).toNat % 4 ≠ 0 →
    exec (.jInd d a off) s =
      .next (s.trapped 3 (s.x a + 4 * .ofInt 64 off.toInt).toNat)

/-! ## Length instructions and control registers -/

namespace Sys2Proof.Claims

/-- R130, R131, R401: a core at the start of a strip of a length, with its granule (8 on a treadle); vl, vg and vfl, which
are written, hold no error any more. -/
def strip (c : Core) (k : Kind) (len gran : Nat) : Core :=
  { c with strip := { c.strip with
      len := .ofNat 32 len, granted := .ofNat 32 len, floor := 0,
      gran := if k = Kind.treadle then 8 else gran } }.goodStrip [0, 1, 4]

/-- R130, R13: the limit of a strip's length: the clamp, and on a hart 16 elements for each lane. -/
def lengthLimit (c : Core) (k : Kind) : Nat :=
  if k = .treadle then c.strip.clamp.toNat else min (16 * c.ident.lanes) c.strip.clamp.toNat

/-- R46, R131: the granule of a gr field. -/
def granule : Gr → Nat
  | .g1 => 1 | .g2 => 2 | .g4 => 4 | .g32 => 32

/-- R46: the granule of an element size of ln.shuttle. -/
def esGran : Es → Nat
  | .b1 | .b2 | .b4 | .b8 => 1
  | .t6 => 4
  | .f4 => 2
  | .mx => 32

/-- R133: bytes a pointer moves over n elements of a size. -/
def esMove (n : Nat) : Es → Nat
  | .b1 => n
  | .b2 => n * 2
  | .b4 => n * 4
  | .b8 => n * 8
  | .t6 => (n + 3) / 4 * 3
  | .f4 => (n + 1) / 2
  | .mx => (n + 31) / 32

/-- R133: pointer registers from b on moved over n elements. -/
def movePointers (n : Nat) : List Es → Nat → Core → Core
  | [], _, c => c
  | e :: es, b, c => movePointers n es (b + 1) (c.setX b (c.xreg b + .ofNat 64 (esMove n e)))

/-- R36, R117, R145, R347: the state after a pending re-grant of its core has taken effect, which a length instruction with
K = 1 leaves pending: its vector state is 0, no slot of its lanes fails, with no lanes left BASE is 0, and the surveyor
looks at its partition. -/
def regranted (kb : Bool) (s : State) : State := match s.core.regrant, kb with
  | some g, false =>
    let c := s.core
    let t := (s.setCore { c with
      regrant := none, vec := Vec.reset
      ident := { c.ident with lanes := g.lanes, base := if g.lanes = 0 then 0 else g.base } }).freshSlots s.cur
    match s.partOf s.cur with
    | some p => t.later (.placement p)
    | none => t
  | _, _ => s

/-- R111, R117, R118: the value of a control register on a kind of core, but for the clocks, wswin and the trap
registers. -/
def crValue (c : Core) (k : Kind) (hartid : Nat) (cn : Nat) : Option Word :=
  let onHart (v : Word) : Option Word := match k with
    | .hart => some v
    | .hub => some 0
    | .treadle => none
  let hartOrHub (v : Half) : Option Word := if k = .treadle then none else some (v.setWidth 64)
  let onTreadle (v : Half) : Option Word := if k = .treadle then some (v.setWidth 64) else none
  match cn with
  | 0x000 => onHart (c.strip.len.setWidth 64)
  | 0x001 => onHart (c.strip.granted.setWidth 64)
  | 0x002 => onHart (c.strip.ff.setWidth 64)
  | 0x003 => hartOrHub c.strip.fs
  | 0x004 => onHart (c.strip.floor.setWidth 64)
  | 0x005 => hartOrHub c.modes.vcfg
  | 0x006 => hartOrHub c.modes.stat
  | 0x007 => onHart (.ofNat 64 (16 * c.ident.lanes * 65536 + c.ident.base * 256 + c.ident.lanes))
  | 0x008 => match k with
    | .hart => some (c.strip.clamp.setWidth 64)
    | .hub => some 512
    | .treadle => none
  | 0x010 => onTreadle c.strip.len
  | 0x011 => onTreadle c.strip.granted
  | 0x012 => onTreadle c.strip.ff
  | 0x013 => onTreadle c.strip.fs
  | 0x014 => onTreadle c.strip.floor
  | 0x015 => onTreadle c.strip.clamp
  | 0x016 => onTreadle c.modes.stat
  | 0x020 => if k = .hart then some (c.modes.qthr.setWidth 64) else none
  | 0x021 => if k = .hart then some (c.modes.qstat.setWidth 64) else none
  | 0x032 => some c.instret
  | 0x038 => some (.ofNat 64 hartid)
  | 0x039 => if k = .hub then none else some (.ofNat 64 (c.ident.ncrew.toNat * 65536 + c.ident.crew.toNat))
  | 0x03A => some (c.ident.regid.setWidth 64)
  | 0x03B => some (c.ident.asid.setWidth 64)
  | _ => none

/-- R111, R112 to R116: a core with a U-writable control register written; none where it is not built on that kind of
core, or where a reserved bit would be set or a barred value given. DEDUCED (log 24): a write of a hub hart's vff, which
reads 0, is dropped. -/
def crWritten (c : Core) (k : Kind) (cn : Nat) (v : Word) : Option Core :=
  let w : Half := v.setWidth 32
  match cn, k with
  | 0x002, .hart => some { c with strip := { c.strip with ff := w } }
  | 0x002, .hub => some c
  | 0x012, .treadle => some { c with strip := { c.strip with ff := w } }
  | 0x003, .hart | 0x003, .hub | 0x013, .treadle =>
    if w.toNat < 512 then some { c with strip := { c.strip with fs := w } } else none
  | 0x005, .hart | 0x005, .hub =>
    if w &&& 0xFFF001C0 = 0 ∧ w.toNat / 8192 % 8 < 5 then some { c with modes := { c.modes with vcfg := w } } else none
  | 0x006, .hart | 0x006, .hub | 0x016, .treadle =>
    if w &&& 0xFFFFFEC0 = 0 then some { c with modes := { c.modes with stat := w } } else none
  | 0x020, .hart =>
    if w.toNat < 0x7F800000 then some { c with modes := { c.modes with qthr := w } } else none
  | 0x021, .hart => if w.toNat < 4 then some { c with modes := { c.modes with qstat := w } } else none
  | _, _ => none

/-- R368: the reserved bits of a trap register of a level: 0 cause, 3 vec, 4 stat. -/
def trapReserved (l : Level) : Nat → Word
  | 0 => 0x7FFFFFFFFFFFFF00
  | 3 => 3
  | 4 => match l with
    | .m => 0xFFFFFFFFFFFFFF4C
    | .h => 0xFFFFFFFFFFFFFF48
    | _ => 0xFFFFFFFFFFFFFF40
  | _ => 0

/-- R120: the three writing forms with the new value each gives, from the old value and x[a]. -/
def crForms (d a cn : Nat) : List (Instr × (Word → Word → Word)) :=
  [(.crWr d a cn, fun _ v => v), (.crSet d a cn, fun old v => old ||| v), (.crClr d a cn, fun old v => old &&& ~~~v)]

end Sys2Proof.Claims

/-- R132, R130, R131, R36: ln.set starts a strip as long as x[a] asks and the limit allows, and writes that length to
x[d]; kpos becomes 0. That a re-grant to no lanes that takes effect here gives a strip of length 0 is the model's choice
(log 23). -/
def Sys2Proof.Claims.LengthSet : Prop :=
  ∀ (d a : Nat) (gr : Gr) (np : Nat) (kb : Bool) (s : State), Clear (.lnSet d a gr np kb) s → s.core.preempt = none →
    let t := regranted kb s
    let len := min (s.x a).toNat (lengthLimit t.core s.kind)
    let c1 := strip t.core s.kind len (granule gr)
    exec (.lnSet d a gr np kb) s = .next (t.retires (.lnSet d a gr np kb)
      (({ c1 with strip := { c1.strip with kpos := 0 } } : Core).setX d (.ofNat 64 len)))

/-- R133, R130, R131, R36: ln.shuttle moves its np pointers over the strip, subtracts the strip from x[a], and, while
elements remain, starts the next strip and branches; with none left it writes 0 to x[d] and goes on. That a re-grant to no
lanes that takes effect here gives a strip of length 0 is the model's choice (log 23). -/
def Sys2Proof.Claims.LengthShuttle : Prop :=
  ∀ (d a b np : Nat) (kb : Bool) (es0 es1 es2 es3 : Es) (off : BitVec 20) (s : State),
    let i := Instr.lnShuttle d a b np kb es0 es1 es2 es3 off
    Clear i s → s.core.preempt = none →
    let es := [es0, es1, es2, es3].take np
    let n := s.core.strip.len.toNat
    let rem := (s.x a).toNat - n
    let t := regranted kb s
    let c1 := (movePointers n es b t.core).setX a (.ofNat 64 rem)
    let c2 : Core := { c1 with strip := { c1.strip with
      kpos := if s.kind = .treadle then s.core.strip.kpos + .ofNat 32 n else 0 } }
    let len := min rem (lengthLimit c2 s.kind)
    exec i s = .next (t.setCore (if rem = 0 then (c2.setX d 0).retired (s.core.pc + 8)
      else ((strip c2 s.kind len (es.foldl (fun g e => max g (esGran e)) 1)).setX d (.ofNat 64 len)).retired
        (s.core.pc + 4 * .ofInt 64 off.toInt)))

/-- Ln.set and ln.shuttle: the claims LengthSet, LengthShuttle. -/
def Obligations.LengthSettings : Prop := Sys2Proof.Claims.LengthSet ∧ Sys2Proof.Claims.LengthShuttle

/-- R176, R177, R24: ln.trim to a length x[a] that is not below the strip's, or whose moved position is not, changes no
length; x[d] reads the length. -/
def Sys2Proof.Claims.TrimKeepsLength : Prop :=
  ∀ (d a : Nat) (s : State), Clear (.lnTrim d a) s →
    s.core.strip.len.toNat ≤ max (s.x a).toNat s.core.strip.floor.toNat →
    exec (.lnTrim d a) s =
      .next (s.retires (.lnTrim d a) (s.core.setX d (s.core.strip.len.setWidth 64)))

/-- R176, R177, R24, R131: ln.trim below the strip's length shortens it to x[a] moved down to its granule and row but not
below the floor, records cause trim (8), sets SH, and x[d] reads the new length. -/
def Sys2Proof.Claims.TrimShortens : Prop :=
  ∀ (d a : Nat) (s : State), Clear (.lnTrim d a) s →
    let j := max (s.core.moved (s.x a).toNat) s.core.strip.floor.toNat
    (s.x a).toNat < s.core.strip.len.toNat → j < s.core.strip.len.toNat →
    ∃ t, exec (.lnTrim d a) s = .next t ∧ t.core.strip.len = .ofNat 32 j ∧ t.core.strip.ff = .ofNat 32 j ∧
      t.core.strip.fs = 8 ∧ t.core.strip.granted = s.core.strip.granted ∧
      t.core.modes.stat = s.core.modes.stat ||| 0x100 ∧ (∀ r, t.x r = if r = d ∧ d ≠ 0 then .ofNat 64 j else s.x r) ∧
      t.core.pc = s.core.pc + 4 ∧ t.mem = s.mem ∧ t.core.vec = s.core.vec

/-- R135, R145, R14, R351: ln.rel leaves the core with length 0 and, on a hart, no lanes until it ends and cleared vector
state; no other core and no memory changes. -/
def Sys2Proof.Claims.ReleaseLanes : Prop :=
  ∀ (s : State), Clear .lnRel s →
    ∃ t, exec .lnRel s = .next t ∧ t.core.strip.len = 0 ∧ t.core.strip.granted = 0 ∧ t.core.strip.floor = 0 ∧
      t.core.x = s.core.x ∧ t.core.pc = s.core.pc + 4 ∧ t.mem = s.mem ∧
      (s.kind ≠ .treadle → t.core.ident.lanes = 0 ∧ t.core.vec = Vec.reset ∧ t.core.released = true) ∧
      (∀ n, n ≠ s.cur → t.coreAt n = s.coreAt n)

/-- Ln.trim and ln.rel: the claims TrimKeepsLength, TrimShortens, ReleaseLanes. -/
def Obligations.StripTrimAndRelease : Prop :=
  Sys2Proof.Claims.TrimKeepsLength ∧ Sys2Proof.Claims.TrimShortens ∧ Sys2Proof.Claims.ReleaseLanes

/-- R120, R111, R117, R118, R110: cr.rd puts the register's value into x[d] and changes nothing else. -/
def Sys2Proof.Claims.ControlRegisterValues : Prop :=
  ∀ (d cn : Nat) (v : Word) (s : State), crValue s.core s.kind (s.hartid s.cur) cn = some v → Clear (.crRd d cn) s →
    exec (.crRd d cn) s = .next (s.retires (.crRd d cn) (s.core.setX d v))

/-- R120, R111 to R116: cr.wr, cr.set and cr.clr give the register x[a], the old value with those bits set, or with
them cleared, and put the old value into x[d]; that a write of a hub hart's vff is dropped is the model's reading
(DEDUCED, log 24). -/
def Sys2Proof.Claims.ControlRegisterUpdates : Prop :=
  ∀ (d a cn : Nat) (old : Word) (s : State), crValue s.core s.kind (s.hartid s.cur) cn = some old →
    (∀ c, crWritten s.core s.kind cn (s.x a) = some c → Clear (.crWr d a cn) s →
      exec (.crWr d a cn) s = .next (s.retires (.crWr d a cn) (c.setX d old))) ∧
    (∀ c, crWritten s.core s.kind cn (old ||| s.x a) = some c → Clear (.crSet d a cn) s →
      exec (.crSet d a cn) s = .next (s.retires (.crSet d a cn) (c.setX d old))) ∧
    (∀ c, crWritten s.core s.kind cn (old &&& ~~~(s.x a)) = some c → Clear (.crClr d a cn) s →
      exec (.crClr d a cn) s = .next (s.retires (.crClr d a cn) (c.setX d old)))

/-- R111, R120, R53: a trap register of a level above the hub hart's, or on a cluster core, is neither read nor written:
the instruction takes a lead trap with cause illegal and its word as the value. -/
def Sys2Proof.Claims.TrapRegistersNeedLevel : Prop :=
  ∀ (d a cn : Nat) (s : State) (l : Level) (k : Nat), trapCr cn = some (l, k) →
    (s.kind ≠ .hub ∨ rankOf s.core.level < rankOf l) →
    (Clear (.crRd d cn) s → exec (.crRd d cn) s = .next (s.trapped 10 (firstWord (.crRd d cn)))) ∧
    ∀ f ∈ crForms d a cn, Clear f.1 s → exec f.1 s = .next (s.trapped 10 (firstWord f.1))

/-- R111, R112 to R116, R120: a write of a register that no cr write may give, or that is not built on the kind of core,
and one whose new value has a reserved bit or is barred, takes a lead trap with cause illegal and changes nothing. -/
def Sys2Proof.Claims.BarredWrites : Prop :=
  ∀ (d a cn : Nat) (s : State), ∀ f ∈ crForms d a cn, Clear f.1 s →
    ((∃ old, crValue s.core s.kind (s.hartid s.cur) cn = some old ∧ crWritten s.core s.kind cn (f.2 old (s.x a)) = none) ∨
      cn = 0x028 ∨ cn = 0x030 ∨ cn = 0x031 ∨
      (crValue s.core s.kind (s.hartid s.cur) cn = none ∧ trapCr cn = none)) →
    exec f.1 s = .next (s.trapped 10 (firstWord f.1))

/-- R111, R120: a read of a number that names no register built on the kind of core takes a lead trap with cause
illegal. -/
def Sys2Proof.Claims.UnbuiltReads : Prop :=
  ∀ (d cn : Nat) (s : State), Clear (.crRd d cn) s → crValue s.core s.kind (s.hartid s.cur) cn = none →
    trapCr cn = none → cn ≠ 0x030 → cn ≠ 0x031 → (cn = 0x028 → s.kind = .hub) →
    exec (.crRd d cn) s = .next (s.trapped 10 (firstWord (.crRd d cn)))

/-- R368, R120, R111: a hub hart that reads a trap register of a level it has reached gets its value; the read of a
cause register clears BUSY of that level, the others change nothing. -/
def Sys2Proof.Claims.TrapRegisterReads : Prop :=
  ∀ (d cn k : Nat) (l : Level) (s : State), trapCr cn = some (l, k) → s.kind = .hub → rankOf l ≤ rankOf s.core.level →
    Clear (.crRd d cn) s →
    let r := s.core.trapRegs l
    exec (.crRd d cn) s = .next (s.retires (.crRd d cn)
      ((if k = 0 then s.core.setTrapRegs l { r with stat := r.stat &&& ~~~(0x80 : Word) } else s.core).setX d (r.get k)))

/-- R368, R120, R111: cr.wr, cr.set and cr.clr of a trap register of a level the hub hart has reached give it x[a], its
old value with those bits set, or with them cleared, and x[d] the old value; a new value with a reserved bit is
illegal. -/
def Sys2Proof.Claims.TrapRegisterWrites : Prop :=
  ∀ (d a cn k : Nat) (l : Level) (s : State), trapCr cn = some (l, k) → s.kind = .hub →
    rankOf l ≤ rankOf s.core.level → ∀ f ∈ crForms d a cn, Clear f.1 s →
    let r := s.core.trapRegs l
    let new := f.2 (r.get k) (s.x a)
    exec f.1 s = .next (if new &&& trapReserved l k = 0 then
      s.retires f.1 ((s.core.setTrapRegs l (r.set k new)).setX d (r.get k))
      else s.trapped 10 (firstWord f.1))

/-- Cr.wr, cr.set and cr.clr, and the registers a level may not name or give: the claims ControlRegisterUpdates,
TrapRegisterWrites, TrapRegistersNeedLevel, BarredWrites. -/
def Obligations.ControlRegisterWrites : Prop :=
  Sys2Proof.Claims.ControlRegisterUpdates ∧ Sys2Proof.Claims.TrapRegisterWrites ∧
  Sys2Proof.Claims.TrapRegistersNeedLevel ∧ Sys2Proof.Claims.BarredWrites

/-- R119, R117, R242: a read of time or cycle answers a value that has not gone back (the time that has passed is a free
value, log 11); a read of wswin answers the bank and whether it is in refresh. -/
def Sys2Proof.Claims.ClockReads : Prop :=
  ∀ (d : Nat) (s : State),
    (Clear (.crRd d 0x031) s → ∃ t, exec (.crRd d 0x031) s = .next t ∧ s.hub.clock.time ≤ t.hub.clock.time ∧
      t.mem = s.mem ∧ (∀ r, t.x r = if r = d ∧ d ≠ 0 then .ofNat 64 t.hub.clock.time else s.x r)) ∧
    (Clear (.crRd d 0x030) s → s.kind = .hub → ∃ t, exec (.crRd d 0x030) s = .next t ∧
      s.hub.clock.cycleHub ≤ t.hub.clock.cycleHub ∧ t.mem = s.mem ∧
      (∀ r, t.x r = if r = d ∧ d ≠ 0 then .ofNat 64 t.hub.clock.cycleHub else s.x r)) ∧
    (Clear (.crRd d 0x030) s → s.kind ≠ .hub → ∃ t, exec (.crRd d 0x030) s = .next t ∧
      s.hub.clock.cycleWeave ≤ t.hub.clock.cycleWeave ∧ t.mem = s.mem ∧
      (∀ r, t.x r = if r = d ∧ d ≠ 0 then .ofNat 64 t.hub.clock.cycleWeave else s.x r)) ∧
    (Clear (.crRd d 0x028) s → s.kind ≠ .hub →
      let r := s.refreshAt (dieOf (clusterOf s.cur))
      ∃ t, exec (.crRd d 0x028) s = .next t ∧ t.mem = s.mem ∧ (∀ q, q ≠ d → t.x q = s.x q) ∧
        (d ≠ 0 → (t.x d).toNat % 16 = r.bank % 16 ∧ (t.x d).getLsbD 13 = r.busy ∧
          (let left := (t.x d).toNat / 16 % 512
          let next := (t.x d).toNat / 2 ^ 20
          if r.busy then 1 ≤ left ∧ left ≤ 416 ∧ next = 2184 + left else left = 0 ∧ 1 ≤ next ∧ next ≤ 2184)))

/-- Cr.rd of every control register: the claims ControlRegisterValues, TrapRegisterReads, ClockReads, UnbuiltReads. -/
def Obligations.ControlRegisterReads : Prop :=
  Sys2Proof.Claims.ControlRegisterValues ∧ Sys2Proof.Claims.TrapRegisterReads ∧ Sys2Proof.Claims.ClockReads ∧
  Sys2Proof.Claims.UnbuiltReads

/-! ## Scalar memory -/

namespace Sys2Proof.Claims

/-- R137: base register, offset, size and destination of the scalar loads, with the widening of what they read. -/
def loadForm : Instr → Option (Nat × Nat × BitVec 7 × Nat × (Nat → Word))
  | .ldS8 d a _ off => some (d, a, off, 1, fun v => (BitVec.ofNat 8 v).signExtend 64)
  | .ldN8 d a _ off => some (d, a, off, 1, fun v => .ofNat 64 v)
  | .ldS16 d a _ off => some (d, a, off, 2, fun v => (BitVec.ofNat 16 v).signExtend 64)
  | .ldN16 d a _ off => some (d, a, off, 2, fun v => .ofNat 64 v)
  | .ldS32 d a _ off => some (d, a, off, 4, fun v => (BitVec.ofNat 32 v).signExtend 64)
  | .ldN32 d a _ off => some (d, a, off, 4, fun v => .ofNat 64 v)
  | .ldX64 d a _ off => some (d, a, off, 8, fun v => .ofNat 64 v)
  | _ => none

/-- R251, R259: value register, base register, offset and size of the scalar stores and am.st. -/
def storeForm : Instr → Option (Nat × Nat × BitVec 7 × Nat)
  | .stS8 d a _ off => some (d, a, off, 1)
  | .stS16 d a _ off => some (d, a, off, 2)
  | .stS32 d a _ off => some (d, a, off, 4)
  | .stX64 d a _ off => some (d, a, off, 8)
  | .amSt d a _ _ => some (d, a, 0, 8)
  | _ => none

/-- R259: destination, address register and order of the read-modify-write atomics, with the new value of the word. -/
def atomicForm (x : Nat → Word) : Instr → Option (Nat × Nat × Ord × (Word → Word))
  | .amAdd d a b o _ => some (d, a, o, fun v => v + x b)
  | .amAnd d a b o _ => some (d, a, o, fun v => v &&& x b)
  | .amOr d a b o _ => some (d, a, o, fun v => v ||| x b)
  | .amXor d a b o _ => some (d, a, o, fun v => v ^^^ x b)
  | .amMax d a b o _ => some (d, a, o, fun v => if v.toInt < (x b).toInt then x b else v)
  | .amMin d a b o _ => some (d, a, o, fun v => if (x b).toInt < v.toInt then x b else v)
  | .amMaxn d a b o _ => some (d, a, o, fun v => if v.toNat < (x b).toNat then x b else v)
  | .amMinn d a b o _ => some (d, a, o, fun v => if (x b).toNat < v.toNat then x b else v)
  | .amSwap d a b o _ => some (d, a, o, fun _ => x b)
  | .amCas d a b o _ => some (d, a, o, fun v => if v = x d then x b else v)
  | _ => none

/-- R137, R251: base plus the offset in units of the access size. -/
def accessAddr (base : Word) (off : BitVec 7) (size : Nat) : Nat :=
  (base + .ofInt 64 off.toInt * .ofNat 64 size).toNat

/-- R272, R247: an acquire drops what the core's L1D holds. -/
def acquiring (o : Ord) (c : Core) : Core := match o with
  | .acq | .ar => { c with l1d := [] }
  | _ => c

end Sys2Proof.Claims

/-- R137, R138: a scalar load whose access meets no condition puts the value read, widened, into x[d] and retires;
everything the read itself leaves (R325's A bit, the L1D) stands. -/
def Sys2Proof.Claims.LoadsComplete : Prop :=
  ∀ (i : Instr) (s t : State) (d a : Nat) (off : BitVec 7) (size : Nat) (widen : Nat → Word) (v : Nat),
    loadForm i = some (d, a, off, size, widen) → Clear i s →
    s.loadScalar s.cur (accessAddr (s.x a) off size) size = (t, .ok v) →
    exec i s = .next (t.retires i (t.core.setX d (widen v)))

/-- R259, R272: am.ld does so past the L1D, and with acquire order drops it. -/
def Sys2Proof.Claims.AtomicLoad : Prop :=
  ∀ (s t : State) (d a v : Nat) (o : Ord) (sco : Sco), Clear (.amLd d a o sco) s →
    s.loadDirect s.cur (s.x a).toNat = (t, .ok v) →
    exec (.amLd d a o sco) s = .next (t.retires (.amLd d a o sco) (acquiring o (t.core.setX d (.ofNat 64 v))))

/-- R251, R259: a store whose bytes lie in memory, in one run, writes the low bytes of x[d] there, lowest first; every
other byte reads as it does after the access is located; no register changes. -/
def Sys2Proof.Claims.StoresReachMemory : Prop :=
  ∀ (i : Instr) (s t : State) (d a : Nat) (off : BitVec 7) (size k : Nat) (io w : Bool),
    storeForm i = some (d, a, off, size) → Clear i s → s.errorFree →
    locate s (s.who s.cur) .write (accessAddr (s.x a) off size) size size = (t, .ok (.mem [(k, size)] io w)) →
    ∃ u, exec i s = .next u ∧ u.bytesAt k size = leBytes size (s.x d).toNat ∧
      (∀ q, q < k ∨ k + size ≤ q → u.byteAt q = t.byteAt q) ∧ (∀ r, u.x r = s.x r) ∧ u.core.pc = s.core.pc + 4 ∧
      u.core.modes = s.core.modes ∧ u.core.vec = s.core.vec ∧ u.core.strip = s.core.strip

/-- R251, R259: a scalar store whose access, to memory or to a register of a device, meets no condition retires with all
that the write itself leaves. -/
def Sys2Proof.Claims.StoresComplete : Prop :=
  ∀ (i : Instr) (s t : State) (d a : Nat) (off : BitVec 7) (size : Nat), storeForm i = some (d, a, off, size) →
    Clear i s → s.storeScalar s.cur (accessAddr (s.x a) off size) size (s.x d).toNat = (t, .ok ()) →
    exec i s = .next (t.retires i t.core)

/-- R269, R251: the model's choice (log 3): in a turn whose writes wait, a store to memory that is no I/O page retires with
its bytes last among the accesses that wait, with the keys of the turn; memory and registers stay. -/
def Sys2Proof.Claims.StoresWait : Prop :=
  ∀ (i : Instr) (s t : State) (d a : Nat) (off : BitVec 7) (size k : Nat) (keys : List Key) (w : Bool),
    let va := accessAddr (s.x a) off size
    storeForm i = some (d, a, off, size) → s.lag = some ⟨keys, .defer, false⟩ → Clear i { s with lag := none } →
    locate s (s.who s.cur) .write va size size = (t, .ok (.mem [(k, size)] false w)) →
    ∃ u, exec i s = .next u ∧ u.mem = t.mem ∧ (∀ r, u.x r = s.x r) ∧ u.core.pc = s.core.pc + 4 ∧
      u.late = s.late ++ [⟨s.cur, s.core.instret, keys, .write ⟨s.cur, (s.partOf s.cur).getD 16,
        s.core.ident.asid.toNat, va, [(k, size)], leBytes size (s.x d).toNat⟩⟩]

/-- The scalar stores and am.st: the claims StoresReachMemory, StoresComplete, StoresWait. -/
def Obligations.ScalarStores : Prop :=
  Sys2Proof.Claims.StoresReachMemory ∧ Sys2Proof.Claims.StoresComplete ∧ Sys2Proof.Claims.StoresWait

/-- R259, R248: an atomic whose word lies in memory, in one run that is no I/O page, gives x[d] the old word and the
word its new value; every other byte reads as it does after the access is located. -/
def Obligations.Atomics : Prop :=
  ∀ (i : Instr) (s t : State) (d a k : Nat) (o : Ord) (f : Word → Word) (w : Bool),
    atomicForm s.x i = some (d, a, o, f) → Clear i s → s.errorFree →
    locate s (s.who s.cur) .write (s.x a).toNat 8 8 = (t, .ok (.mem [(k, 8)] false w)) →
    ∃ u, exec i s = .next u ∧ u.natAt k 8 = (f (.ofNat 64 (t.natAt k 8))).toNat ∧
      (∀ q, q < k ∨ k + 8 ≤ q → u.byteAt q = t.byteAt q) ∧
      (∀ r, u.x r = if r = d ∧ d ≠ 0 then .ofNat 64 (t.natAt k 8) else s.x r) ∧ u.core.pc = s.core.pc + 4 ∧
      u.core.modes = s.core.modes ∧ u.core.vec = s.core.vec ∧ u.core.strip = s.core.strip

/-- R138, R362, R366: a scalar load or store whose access is not aligned to its size takes a lead trap with cause
misaligned and the address as its value, and changes no register and no memory. -/
def Sys2Proof.Claims.MisalignedAccessTraps : Prop :=
  ∀ (i : Instr) (s : State) (a size : Nat) (off : BitVec 7), Clear i s →
    ((∃ d f, loadForm i = some (d, a, off, size, f)) ∨ (∃ d, storeForm i = some (d, a, off, size))) →
    accessAddr (s.x a) off size % size ≠ 0 →
    exec i s = .next (s.trapped 3 (accessAddr (s.x a) off size))

namespace Sys2Proof.Claims

/-- The address of a scalar access or atomic, with the state its access leaves and the condition it meets. -/
def scalarAccess (s : State) (i : Instr) : Option (Nat × State × Option Cond) :=
  let met {α : Type} (va : Nat) (r : State × Except Cond α) : Option (Nat × State × Option Cond) :=
    some (va, r.1, match r.2 with
      | .error c => some c
      | .ok _ => none)
  match loadForm i, storeForm i, atomicForm s.x i, i with
  | some (_, a, off, size, _), _, _, _ =>
    met (accessAddr (s.x a) off size) (s.loadScalar s.cur (accessAddr (s.x a) off size) size)
  | _, some (d, a, off, size), _, _ =>
    met (accessAddr (s.x a) off size) (s.storeScalar s.cur (accessAddr (s.x a) off size) size (s.x d).toNat)
  | _, _, some (_, a, _, f), _ => met (s.x a).toNat (s.atomic s.cur (s.x a).toNat f)
  | _, _, _, .amLd _ a _ _ => met (s.x a).toNat (s.loadDirect s.cur (s.x a).toNat)
  | _, _, _, _ => none

/-- R385, R402, R323: the STATUS with which a condition ends the launch of a fault policy (0 demand, 1 pinned, 2 fatal); a
hub hart has no policy and ends none. -/
def endsWith (pol : Option Nat) (c : Cond) : Option Nat := match pol, c with
  | some _, .uncorrectable => some 4
  | some _, .pinned => some 2
  | some p, .notPresent => if p = 1 then some 2 else if p = 2 then some 3 else none
  | some p, .permission => if p = 2 then some 3 else none
  | _, _ => none

/-- R360: the cause code of a condition of a scalar access. -/
def causeCode : Cond → Option Nat
  | .notPresent => some 1
  | .permission => some 2
  | .misaligned => some 3
  | .pinned => some 16
  | .uncorrectable => some 15
  | _ => none

/-- R238: a leaf's TIER, WS and IO fit the range its page lies in, which the partition has. -/
def fitsRange (q : Part) (e pa : Nat) : Bool :=
  let tier := e.testBit 12
  let ws := e.testBit 11
  match spaceOf pa with
  | some .device => !tier && !ws && (channelKey q pa).isSome
  | some .lpddr => tier && !ws && (memKey (some q) pa).isSome
  | some (.weight d) => !tier && ws && q.wsdies.testBit d
  | some .host | some .regs => !tier && !ws && e.testBit 9
  | none => false

/-- R322, R243: a leaf gives an access its rights: the range, the level, the kind, and the region's weight-store mask, which
holds back no e.wsl (DEDUCED, log 20). -/
def givesRights (q : Part) (w : Who) (k : Acc) (e pa : Nat) : Bool :=
  fitsRange q e pa && (decide (w.level ≠ .u) || e.testBit 5) && (match k with
    | .read => e.testBit 2
    | .fetch => e.testBit 4
    | .write => e.testBit 3 && !e.testBit 11
    | .wswrite => e.testBit 3 && e.testBit 11) &&
  (match w.wsmask, spaceOf pa with
    | some m, some (.weight d) => decide (k = .wswrite) || m.testBit d
    | _, _ => true)

/-- R320, R321: an entry with P = 1 that is malformed at a level. -/
def malformed (e level : Nat) : Bool :=
  let leaf := e.testBit 1
  decide (e / 2 ^ 60 ≠ 0) || decide (e / 2 ^ 13 % 16 ≠ 0) || (decide (level = 0) && leaf) || (decide (level = 2) && !leaf) ||
  (decide (level = 1) && leaf && decide (e / 2 ^ 17 % 2 ^ 14 ≠ 0)) || (!leaf && decide (e / 4 % 2 ^ 11 ≠ 0)) ||
  (leaf && e.testBit 3 && !e.testBit 2)

/-- R319: the 8 bytes at a partition-physical address that a walk reads, with their key. -/
def tableWord (s : State) (q : Part) (pa : Nat) : Option (Nat × Nat) :=
  (tableKey q pa).map fun key => (s.natAt key 8, key)

/-- R322: the levels of a walk from a table on: entry, its key and the page, or the condition. -/
def walkLevels (s : State) (q : Part) (w : Who) (k : Acc) (va : Nat) : List (Nat × Nat) → Nat → Except Cond (Nat × Nat × Nat)
  | [], _ => .error .permission
  | (level, ix) :: rest, t => match tableWord s q (t + 8 * ix) with
    | none => .error .permission
    | some (e, key) =>
      if !e.testBit 0 then .error (if e.testBit 10 then .pinned else .notPresent)
      else if malformed e level then .error .permission
      else
        let addr := e / 2 ^ 17 % 2 ^ 35 * 2 ^ 17
        if !e.testBit 1 then walkLevels s q w k va rest addr
        else
          let page := if level = 1 then addr + va / 2 ^ 17 % 2 ^ 14 * 2 ^ 17 else addr
          if givesRights q w k e page then .ok (e, key, page) else .error .permission

/-- R322: a whole walk, from the ASID's directory entry. -/
def walkOf (s : State) (q : Part) (w : Who) (k : Acc) (va : Nat) : Except Cond (Nat × Nat × Nat) :=
  match tableWord s q (q.asiddir.toNat + 8 * w.asid) with
  | none => .error .permission
  | some (d, _) =>
    if !d.testBit 0 || decide (d / 2 % 2 ^ 14 ≠ 0) || decide (d / 2 ^ 52 ≠ 0) then .error .permission
    else walkLevels s q w k va
      [(0, va / 2 ^ 45 % 2 ^ 12), (1, va / 2 ^ 31 % 2 ^ 14), (2, va / 2 ^ 17 % 2 ^ 14)] (d / 2 ^ 15 % 2 ^ 37 * 2 ^ 15)

end Sys2Proof.Claims

/-- R138, R385, R402, R323, R360, R366: a scalar load, store or atomic whose access meets a condition ends its core's launch
with the STATUS of R385 or R402, or takes a lead trap with the condition's code and, as value, the address, or for an
uncorrectable word (15) the instruction's word; its own effect does not happen. -/
def Sys2Proof.Claims.ScalarConditions : Prop :=
  ∀ (i : Instr) (s t : State) (va code : Nat) (c : Cond), Clear i s → scalarAccess s i = some (va, t, some c) →
    causeCode c = some code →
    (∀ p r st, t.partOf s.cur = some p → t.launchOf s.cur = some r → endsWith (some r.rcb.fpol) c = some st →
      exec i s = .next (t.terminate p r.regid st 0)) ∧
    (endsWith ((t.launchOf s.cur).map fun r => r.rcb.fpol) c = none →
      exec i s = .next (t.trapped code (if c = .uncorrectable then firstWord i else va)))

/-- R319 to R326: with no translation held and no error in memory, a translation for a partition's access is the walk of
R322: its condition, with nothing changed but the walk caches; or its leaf's page and attributes, with A, and D for a
write, set in the leaf and no other byte changed. That the mask of a region does not hold back an e.wsl is the model's
reading (DEDUCED, log 20). -/
def Sys2Proof.Claims.TranslationsWalk : Prop :=
  ∀ (s : State) (w : Who) (k : Acc) (va p : Nat), s.errorFree → s.tlb = [] → s.walks = [] → w.part = some p →
    match walkOf s (s.partAt p) w k va with
    | .error c => ∃ ws, translate s w k va = ({ s with walks := ws }, .error c)
    | .ok (e, key, page) => ∃ t, translate s w k va = (t, .ok ⟨page, e.testBit 9, e.testBit 5⟩) ∧
      t.natAt key 8 = e ||| (if k = .write ∨ k = .wswrite then 0xC0 else 0x40) ∧
      ∀ q, q < key ∨ key + 8 ≤ q → t.byteAt q = s.byteAt q

/-- R23, R248, R164: an access that is not aligned is misaligned, whatever else it meets; of two pages' conditions, neither
an uncorrectable word, of which one is permission, permission is reported. -/
def Sys2Proof.Claims.ConditionsRank : Prop :=
  ∀ (s : State) (w : Who) (k : Acc) (va n align : Nat),
    (va % align ≠ 0 → locate s w k va n align = (s, .error .misaligned)) ∧
    (∀ (t u : State) (c d : Cond), let n1 := 4096 - va % 4096
      va % align = 0 → n1 < n → locateBlock s w k va n1 = (t, .error c) →
      locateBlock t w k ((va + n1) % 2 ^ 64) (n - n1) = (u, .error d) → c ≠ .misaligned → d ≠ .misaligned →
      c ≠ .uncorrectable → d ≠ .uncorrectable → c = .permission ∨ d = .permission → locate s w k va n align = (u, .error .permission))

/-- R401, R402: a scalar load that reads a byte of an uncorrectable word of memory meets that condition, and memory stays. -/
def Sys2Proof.Claims.BadWordsFail : Prop :=
  ∀ (s t : State) (va size k b : Nat) (io win : Bool), s.hub.linkFails = [] →
    locate s (s.who s.cur) .read va size size = (t, .ok (.mem [(k, size)] io win)) → t.hub.linkFails = [] →
    b ∈ t.hub.badWords → 16 * b < k + size → k < 16 * b + 16 →
    ∃ u, s.loadScalar s.cur va size = (u, .error .uncorrectable) ∧ u.mem = t.mem

/-- Misaligned jumps and scalar accesses, the conditions of scalar accesses, and where they come from: the claims
IndirectJumpMisaligned, MisalignedAccessTraps, ScalarConditions, TranslationsWalk, ConditionsRank, BadWordsFail. -/
def Obligations.ScalarAccessTraps : Prop :=
  Sys2Proof.Claims.IndirectJumpMisaligned ∧ Sys2Proof.Claims.MisalignedAccessTraps ∧
  Sys2Proof.Claims.ScalarConditions ∧ Sys2Proof.Claims.TranslationsWalk ∧ Sys2Proof.Claims.ConditionsRank ∧
  Sys2Proof.Claims.BadWordsFail

/-- R137, R247: a scalar load whose bytes lie in memory, in one run, with nothing of them in the core's L1D, reads those
bytes, lowest first. -/
def Sys2Proof.Claims.LoadsReadMemory : Prop :=
  ∀ (i : Instr) (s t : State) (d a : Nat) (off : BitVec 7) (size k : Nat) (widen : Nat → Word) (io w : Bool),
    loadForm i = some (d, a, off, size, widen) → Clear i s → s.core.l1d = [] → s.errorFree →
    locate s (s.who s.cur) .read (accessAddr (s.x a) off size) size size = (t, .ok (.mem [(k, size)] io w)) →
    ∃ u, exec i s = .next u ∧ (∀ r, u.x r = if r = d ∧ d ≠ 0 then widen (t.natAt k size) else s.x r) ∧ u.mem = t.mem

/-- R265, R268, R269: the model's choice (log 3): in a turn whose accesses need not take effect in program order, a scalar
load of bytes in memory, none of them in the core's L1D, reads of each byte the last write of its own core to it that has
taken effect and not performed; with none it reads memory, whatever other writes wait. -/
def Sys2Proof.Claims.LoadsOvertake : Prop :=
  ∀ (i : Instr) (s t : State) (d a : Nat) (off : BitVec 7) (size k : Nat) (widen : Nat → Word) (io w : Bool),
    loadForm i = some (d, a, off, size, widen) → s.lag ≠ none → Clear i { s with lag := none } →
    s.core.l1d = [] → s.errorFree →
    locate s (s.who s.cur) .read (accessAddr (s.x a) off size) size size = (t, .ok (.mem [(k, size)] io w)) →
    let own := s.stores.filter fun e => decide (e.core = s.cur)
    let byte (j : Nat) : Byte := (own.reverse.findSome? fun e => e.byteAt (k + j)).getD (t.byteAt (k + j))
    ∃ u, exec i s = .next u ∧ u.mem = t.mem ∧ u.late = s.late ∧ u.stores = s.stores ∧
      ∀ r, u.x r = if r = d ∧ d ≠ 0 then widen (leNat ((List.range size).map byte)) else s.x r

/-- The scalar loads and am.ld: the claims LoadsComplete, AtomicLoad, LoadsReadMemory, LoadsOvertake. -/
def Obligations.ScalarLoads : Prop :=
  Sys2Proof.Claims.LoadsComplete ∧ Sys2Proof.Claims.AtomicLoad ∧ Sys2Proof.Claims.LoadsReadMemory ∧
  Sys2Proof.Claims.LoadsOvertake

/-! ## Fences, barriers, ends, riders -/

namespace Sys2Proof.Claims

/-- R188: what the streams that a test picks have read ahead is gone. -/
def unread (pick : Stream → Bool) (c : Core) : Core :=
  { c with streams := c.streams.map fun e => if pick e.2 then (e.1, { e.2 with ahead := [] }) else e }

/-- R272, R247: a core after an acquire over its own paths: nothing read before it is left. -/
def acquired (c : Core) : Core := { unread (fun _ => true) c with l1d := [] }

/-- R262, R276: a command of a core's that may still make accesses, of which there are none once its push alone waits, is on
a path of a mask: P3 for e.cpy and e.wsl, P6 for the fabric commands. -/
def onPath (pa : BitVec 8) (n : Nat) (m : Cmd) : Bool := decide (m.core = n) && decide (m.prog ≠ pushPending) && (match m.kind with
  | .cpy | .wsl => pa.getLsbD 3
  | _ => pa.getLsbD 6)

end Sys2Proof.Claims

/-- R276, R278, R272: y.fence retires: what the streams of its classes, class 0 among them, have read ahead is gone, and
with a scope of crew or wider the core's L1D is dropped. All else is as it was: the writes before it have performed when it
has its turn (DESIGN CHOICE, log 3). -/
def Sys2Proof.Claims.FenceRetires : Prop :=
  ∀ (s : State) (sco : YSco) (cm : BitVec 16), Clear (.yFence cm sco) s →
    let c := unread (fun t => t.desc.cls == 0 || cm.getLsbD t.desc.cls) s.core
    exec (.yFence cm sco) s = .next (s.retires (.yFence cm sco) (if sco = .hart then c else { c with l1d := [] }))

/-- R276, R277, R278, R272: y.xfence with none of the core's engine commands on the paths before it retires: what the
streams have read ahead is gone where a stream path is among those after it, and the L1D where the scalar path is and the
scope is crew or wider. With such a command it waits (a wait of the class that a pre-emption can end, R377). -/
def Sys2Proof.Claims.PathFenceRetires : Prop :=
  ∀ (s : State) (sco : YSco) (pa pb : BitVec 8), Clear (.yXfence pa pb sco) s → pa ≠ 0 → pb ≠ 0 →
    pa &&& ~~~(pathsOf s.kind) = 0 → pb &&& ~~~(pathsOf s.kind) = 0 →
    let cmds := if s.kind = .hub then [] else (s.clusterAt (clusterOf s.cur)).cmds
    let c := if pb.getLsbD 1 = true ∨ pb.getLsbD 4 = true then unread (fun _ => true) s.core else s.core
    ((∀ m ∈ cmds, onPath pa s.cur m = false) → exec (.yXfence pa pb sco) s = .next (s.retires (.yXfence pa pb sco)
      (if pb.getLsbD 0 = true ∧ sco ≠ .hart then { c with l1d := [] } else c))) ∧
    ((∃ m ∈ cmds, onPath pa s.cur m = true) → s.core.preempt = none →
      exec (.yXfence pa pb sco) s = .next (s.setCore { s.core with wait := .engine }))

/-- R294, R247: a core that reaches the barrier last lets every core of its crew go on past it, as if it had popped a
token from each. -/
def Sys2Proof.Claims.BarrierReleasesCrew : Prop :=
  ∀ (s : State), Clear .yBar s →
    let s1 := s.setCore { s.core with arrived := true }
    s1.barrierFull s.cur = true →
    ∃ t, exec .yBar s = .next t ∧
      ∀ m ∈ s.crewmates s.cur, (t.coreAt m).pc = (s.coreAt m).pc + 4 ∧ (t.coreAt m).arrived = false ∧
        (t.coreAt m).l1d = [] ∧ (∀ e ∈ (t.coreAt m).streams, e.2.ahead = []) ∧ (t.coreAt m).x = (s.coreAt m).x

/-- R294: a core that reaches the barrier before the others waits in it, with nothing else changed. -/
def Sys2Proof.Claims.BarrierWaits : Prop :=
  ∀ (s : State), Clear .yBar s → s.core.preempt = none →
    let s1 := s.setCore { s.core with arrived := true }
    s1.barrierFull s.cur = false →
    exec .yBar s = .next (s.setCore { s.core with arrived := true, wait := .barrier })

/-- R295, R110, R289: at its y.end a cluster core whose engine commands have completed leaves its slot, its scalar registers
as they were but for the replies due, which are written; one with commands in progress waits there, with nothing else
changed. -/
def Sys2Proof.Claims.CoresEnd : Prop :=
  ∀ (s : State), Clear .yEnd s → s.kind ≠ .hub →
    (s.drained s.cur = true → exec .yEnd s = .next (s.endCore s.cur) ∧ ((s.endCore s.cur).coreAt s.cur).run = .absent ∧
      ((s.endCore s.cur).coreAt s.cur).x = s.core.writeReplies.x) ∧
    (s.drained s.cur = false → s.core.preempt = none →
      exec .yEnd s = .next (s.setCore { s.core with wait := .ending }))

/-- R261, R272: y.wait on a word that has reached x[b] puts it into x[d] and is an acquire. -/
def Sys2Proof.Claims.WaitSatisfied : Prop :=
  ∀ (s t : State) (d a b v : Nat), Clear (.yWait d a b) s → s.loadDirect s.cur (s.x a).toNat = (t, .ok v) →
    (s.x b).toNat ≤ v →
    exec (.yWait d a b) s =
      .next (t.retires (.yWait d a b) ((acquired t.core).setX d (.ofNat 64 v)))

/-- Y.fence, y.xfence, y.bar, y.end and y.wait: the claims FenceRetires, PathFenceRetires, BarrierReleasesCrew,
BarrierWaits, CoresEnd, WaitSatisfied. -/
def Obligations.FencesBarriersAndWaits : Prop :=
  Sys2Proof.Claims.FenceRetires ∧ Sys2Proof.Claims.PathFenceRetires ∧ Sys2Proof.Claims.BarrierReleasesCrew ∧
  Sys2Proof.Claims.BarrierWaits ∧ Sys2Proof.Claims.CoresEnd ∧ Sys2Proof.Claims.WaitSatisfied

/-- R54, R55, R290: a rider whose FIFOs its core may use goes before its carrier: the pc moves to the carrier and the
rider waits with it (DESIGN CHOICE, log 19: a step of its own). -/
def Sys2Proof.Claims.RiderAwaitsCarrier : Prop :=
  ∀ (s : State) (pe he ce : Bool) (pid hid cls : Nat), Clear (.ride pe pid he hid ce cls) s →
    (pe = true → readsFifo s.kind s.core.ident.hidx pid = true) →
    (he = true → writesFifo s.kind s.core.ident.hidx hid = true) →
    exec (.ride pe pid he hid ce cls) s = .next (s.setCore { s.core with
      pc := s.core.pc + 4
      rider := some ⟨s.core.pc, firstWord (.ride pe pid he hid ce cls), if pe then some pid else none,
        if he then some hid else none, if ce then some cls else none, false⟩ })

/-- R55, R272, R290, R291, R292: a scalar carrier with a rider that pops one FIFO with a token and pushes another with
room has its own effect, takes one token, which is an acquire, and adds one, and counts two retired instructions. -/
def Sys2Proof.Claims.RiderPopsAndPushes : Prop :=
  ∀ (i : Instr) (s : State) (r : Rider) (p h d : Nat) (v : Word) (fl : Flags),
    scalarResult s.x i = some (d, v, fl) → ClearButRider i s → s.core.rider = some r → badCarrier r i = false →
    r.pop = some p → r.push = some h → r.popped = false → p ≠ h → p < 32 → h < 32 →
    0 < s.fifoCount s.cur p → s.fifoCount s.cur h < 15 →
    ∃ t, exec i s = .next t ∧ t.fifoCount s.cur p = s.fifoCount s.cur p - 1 ∧
      t.fifoCount s.cur h = s.fifoCount s.cur h + 1 ∧ (∀ q, t.x q = if q = d ∧ d ≠ 0 then v else s.x q) ∧
      t.core.instret = s.core.instret + 2 ∧ t.core.rider = none ∧ t.core.l1d = [] ∧
      (∀ e ∈ t.core.streams, e.2.ahead = []) ∧
      t.core.pc = s.core.pc + .ofNat 64 (lengthOf i) ∧ t.mem = s.mem

/-- R55, R272, R247: the pop comes before the carrier's own effect: a scalar load that carries one reads after it, as if
nothing had been in the core's L1D. -/
def Sys2Proof.Claims.PopBeforeCarrier : Prop :=
  ∀ (i : Instr) (s t : State) (r : Rider) (p d a size v : Nat) (off : BitVec 7) (widen : Nat → Word),
    loadForm i = some (d, a, off, size, widen) → ClearButRider i s → s.core.rider = some r → badCarrier r i = false →
    r.pop = some p → r.push = none → r.popped = false → 0 < s.fifoCount s.cur p → p < 17 →
    ((s.setFifo s.cur p (s.fifoCount s.cur p - 1)).setCore
      { acquired s.core with rider := some { r with popped := true } }).loadScalar s.cur
        (accessAddr (s.x a) off size) size = (t, .ok v) →
    ∃ u, exec i s = .next u ∧ u.mem = t.mem ∧ u.fifoCount s.cur p = t.fifoCount s.cur p ∧
      (∀ q, u.x q = if q = d ∧ d ≠ 0 then widen v else t.x q)

/-- A rider and its carrier: the claims RiderAwaitsCarrier, RiderPopsAndPushes, PopBeforeCarrier. -/
def Obligations.Riders : Prop :=
  Sys2Proof.Claims.RiderAwaitsCarrier ∧ Sys2Proof.Claims.RiderPopsAndPushes ∧ Sys2Proof.Claims.PopBeforeCarrier

/-! ## Exceptions and the return from one -/

namespace Sys2Proof.Claims

/-- R369: the level at which a hub hart at a level takes a trap of a code. -/
def entryLevel (cause : Nat) (l : Level) : Level :=
  if cause = 12 then (match l with | .u | .s => .h | .h | .m => .m)
  else if cause = 18 then (match l with | .u => .s | .s => .h | .h | .m => .m)
  else match l with
    | .u => .s
    | l => l

/-- R110: the trap registers of a level. -/
def regsOf (c : Core) : Level → TrapRegs
  | .m => c.trapM
  | .h => c.trapH
  | _ => c.trapS

/-- R370: the level at which the trap is then taken, none when M is busy. -/
def busyUp (c : Core) : Level → Option Level
  | .u | .s => if c.trapS.stat.getLsbD 7 = false then some .s
    else if c.trapH.stat.getLsbD 7 = false then some .h
    else if c.trapM.stat.getLsbD 7 = false then some .m else none
  | .h => if c.trapH.stat.getLsbD 7 = false then some .h
    else if c.trapM.stat.getLsbD 7 = false then some .m else none
  | .m => if c.trapM.stat.getLsbD 7 = false then some .m else none

/-- R6: the code of a level. -/
def levelCode : Level → Nat
  | .u => 0 | .s => 1 | .h => 2 | .m => 3

end Sys2Proof.Claims

/-- R369, R370: a trap of a hub hart: the registers of the level it is taken at receive the code, the pc and the value;
PIE takes IE, IE becomes 0, PLV the level before, BUSY 1; the hart is at that level with the pc at its handler; its
other registers, the other levels' trap registers, memory and every other core are as they were. -/
def Sys2Proof.Claims.HubTrapRegisters : Prop :=
  ∀ (s : State) (n cause tval : Nat) (l : Level), kindOf n = .hub →
    busyUp (s.coreAt n) (entryLevel cause (s.coreAt n).level) = some l →
    let c := s.coreAt n
    let t := s.takeTrap n cause tval
    let e := t.coreAt n
    (regsOf e l).cause = .ofNat 64 cause ∧ (regsOf e l).epc = c.pc ∧ (regsOf e l).tval = .ofNat 64 tval ∧
    (regsOf e l).vec = (regsOf c l).vec ∧ e.level = l ∧ e.pc = (regsOf c l).vec ∧
    (∀ k, (regsOf e l).stat.getLsbD k = if k = 0 then false else if k = 1 then (regsOf c l).stat.getLsbD 0
      else if k = 4 then (levelCode c.level).testBit 0 else if k = 5 then (levelCode c.level).testBit 1
      else if k = 7 then true else (regsOf c l).stat.getLsbD k) ∧
    (∀ l', l' ≠ l → ¬(l' = .u ∧ l = .s) → regsOf e l' = regsOf c l') ∧
    e.x = c.x ∧ e.modes = c.modes ∧ e.strip = c.strip ∧ e.win = c.win ∧ t.mem = s.mem ∧
    (∀ m, m ≠ n → t.coreAt m = s.coreAt m)

/-- R370, R387: a synchronous trap that finds M busy stops the partition: every running core of it stops in place. -/
def Sys2Proof.Claims.TrapWithEveryLevelBusy : Prop :=
  ∀ (s : State) (n cause tval p : Nat), kindOf n = .hub → s.partOf n = some p →
    busyUp (s.coreAt n) (entryLevel cause (s.coreAt n).level) = none →
    let t := s.takeTrap n cause tval
    (t.partAt p).stopped = true ∧ t.mem = s.mem ∧
    (∀ m, s.partOf m = some p → (t.coreAt m).run ≠ .running) ∧
    (∀ m, s.partOf m ≠ some p → t.coreAt m = s.coreAt m)

/-- R362, R364, R384: a lead trap of a cluster core: it stops at its pc with its registers as they were; its window is
latched with the kind lead, the cause and the value; a feature-masked trap (12) writes nothing to memory. -/
def Obligations.ClusterTrapEntry : Prop :=
  ∀ (s : State) (n cause tval : Nat), kindOf n ≠ .hub →
    let c := s.coreAt n
    let t := s.takeTrap n cause tval
    let e := t.coreAt n
    e.run = .stopped ∧ e.win.kind = .lead ∧ e.win.cause = cause ∧ e.win.latch = true ∧ e.win.tval = .ofNat 64 tval ∧
    e.win.prog = 0 ∧ e.pc = c.pc ∧ e.x = c.x ∧ e.strip = c.strip ∧ e.modes = c.modes ∧ e.vec = c.vec ∧
    e.streams = c.streams ∧ e.level = c.level ∧ (cause = 12 → t.mem = s.mem)

/-- R371, R372, R366: z.call takes a lead trap with cause 18, z.brk one with cause 17, and y.end on a hub hart one with cause
18; the value is the instruction's word. That a turn in which it does so finds the stores before it performed is the
model's form of R372's wait (DESIGN CHOICE, log 3), of which this says nothing. -/
def Sys2Proof.Claims.CallsAndBreakpoints : Prop :=
  ∀ (s : State), (Clear .zCall s → exec .zCall s = .next (s.trapped 18 (firstWord .zCall))) ∧
    (Clear .zBrk s → exec .zBrk s = .next (s.trapped 17 (firstWord .zBrk))) ∧
    (Clear .yEnd s → s.kind = .hub → exec .yEnd s = .next (s.trapped 18 (firstWord .yEnd)))

/-- R373: z.ret goes back to the level PLV names and the pc saved at the level it is at: IE takes PIE, PIE becomes 1,
BUSY 0; the level's other trap registers, the x registers, memory and every other core stay. That bits 1:0 of a saved pc
that is no multiple of 4 are dropped is the model's choice (log 24). -/
def Sys2Proof.Claims.TrapReturnRestores : Prop :=
  ∀ (s : State), Clear .zRet s → rankOf (statPlv (regsOf s.core s.core.level).stat) ≤ rankOf s.core.level →
    let c := s.core
    let l := c.level
    ∃ t, exec .zRet s = .next t ∧ t.core.pc = (regsOf c l).epc &&& ~~~(3 : Word) ∧
      levelCode t.core.level = (regsOf c l).stat.toNat / 16 % 4 ∧
      (∀ k, (regsOf t.core l).stat.getLsbD k = if k = 0 then (regsOf c l).stat.getLsbD 1 else if k = 1 then true
        else if k = 7 then false else (regsOf c l).stat.getLsbD k) ∧
      (regsOf t.core l).cause = (regsOf c l).cause ∧ (regsOf t.core l).epc = (regsOf c l).epc ∧
      (regsOf t.core l).tval = (regsOf c l).tval ∧ (regsOf t.core l).vec = (regsOf c l).vec ∧ t.core.x = c.x ∧
      t.mem = s.mem ∧ (∀ m, m ≠ s.cur → t.coreAt m = s.coreAt m)

/-- R373, R6: z.ret to a level above the hart's is illegal. -/
def Sys2Proof.Claims.TrapReturnUpwardIllegal : Prop :=
  ∀ (s : State), Clear .zRet s → rankOf s.core.level < rankOf (statPlv (regsOf s.core s.core.level).stat) →
    exec .zRet s = .next (s.trapped 10 (firstWord .zRet))

/-- Z.ret: the claims TrapReturnRestores, TrapReturnUpwardIllegal. -/
def Obligations.TrapReturn : Prop :=
  Sys2Proof.Claims.TrapReturnRestores ∧ Sys2Proof.Claims.TrapReturnUpwardIllegal

/-- R50, R47, R53: the supervisor's z instructions on a cluster core, or on a hub hart at U, are illegal: a lead trap with
cause 10 and the word as its value. -/
def Obligations.SupervisorInstructionsNeedS : Prop :=
  ∀ (i : Instr) (s : State),
    (i = .zRet ∨ (∃ d a, i = .zHres d a) ∨ (∃ d a, i = .zHstop d a) ∨ (∃ a, i = .zInva a) ∨ (∃ a b, i = .zInvs a b) ∨
      i = .zInvp ∨ (∃ d a, i = .zWsopen d a) ∨ (∃ d a, i = .zWsclose d a)) →
    (s.kind ≠ .hub ∨ s.core.level = .u) → WellFormed i = true → s.serviceHeld s.cur = false → s.core.resume = none →
    s.core.rider = none → (∀ f, s.masked s.cur f = false) →
    exec i s = .next (s.trapped 10 (firstWord i))

/-! ## The supervisor's instructions -/

/-- R374, R375, R272: z.hres sets a stopped core of an online cluster of the partition going, at the value written to its
window's PC if there is one, whose progress and held instructions are then gone, and answers 0; 1 where it is not
stopped, 2 where the hartid names no such core, 3 while a window command is in progress. The resumption is an acquire. -/
def Sys2Proof.Claims.ResumeStatus : Prop :=
  ∀ (d a : Nat) (s : State), Clear (.zHres d a) s →
    ∃ t, exec (.zHres d a) s = .next t ∧ t.mem = s.mem ∧
      match s.targetCore s.cur (s.x a) with
      | none => (∀ r, t.x r = if r = d ∧ d ≠ 0 then 2 else s.x r)
      | some m =>
        if (s.coreAt m).win.cmdstat = 1 then (∀ r, t.x r = if r = d ∧ d ≠ 0 then 3 else s.x r) ∧ t.coreAt m = s.coreAt m
        else if (s.coreAt m).win.kind = .running then
          (∀ r, t.x r = if r = d ∧ d ≠ 0 then 1 else s.x r) ∧ t.coreAt m = s.coreAt m
        else (∀ r, t.x r = if r = d ∧ d ≠ 0 then 0 else s.x r) ∧ (t.coreAt m).run = .running ∧
          (t.coreAt m).win.latch = false ∧ (t.coreAt m).win.kind = .running ∧
          (t.coreAt m).x = (s.coreAt m).x ∧ (t.coreAt m).l1d = [] ∧ (∀ e ∈ (t.coreAt m).streams, e.2.ahead = []) ∧
          (match (s.coreAt m).win.newPc with
            | some v => (t.coreAt m).pc = v ∧ (t.coreAt m).resume = none ∧ (t.coreAt m).held = []
            | none => (t.coreAt m).pc = (s.coreAt m).pc ∧ (t.coreAt m).resume = (s.coreAt m).resume ∧
              (t.coreAt m).held = (s.coreAt m).held)

/-- R375, R361: z.hstop stops a running core, latched with kind hstop and no cause, and answers 0, with nothing read before
the stop left in the caller's L1D and the replies of what the core has performed written; 1 where it is stopped, 2 where
the hartid names no such core, 3 where no core is placed. What a treadle in flight performs first (R224) is not stated
here. -/
def Sys2Proof.Claims.HaltStatus : Prop :=
  ∀ (d a : Nat) (s : State), Clear (.zHstop d a) s →
    ∃ t, exec (.zHstop d a) s = .next t ∧ ((∀ m, s.targetCore s.cur (s.x a) = some m → kindOf m ≠ .treadle) → t.mem = s.mem) ∧
      match s.targetCore s.cur (s.x a) with
      | none => (∀ r, t.x r = if r = d ∧ d ≠ 0 then 2 else s.x r)
      | some m =>
        if (s.coreAt m).run = .absent then
          (∀ r, t.x r = if r = d ∧ d ≠ 0 then 3 else s.x r) ∧ t.coreAt m = s.coreAt m
        else if (s.coreAt m).win.kind ≠ .running then
          (∀ r, t.x r = if r = d ∧ d ≠ 0 then 1 else s.x r) ∧ t.coreAt m = s.coreAt m
        else (∀ r, t.x r = if r = d ∧ d ≠ 0 then 0 else s.x r) ∧ (t.coreAt m).run = .stopped ∧
          (t.coreAt m).win.kind = .hstop ∧ (t.coreAt m).win.latch = true ∧ (t.coreAt m).win.cause = 0 ∧
          t.core.l1d = [] ∧ (kindOf m ≠ .treadle →
            (t.coreAt m).x = (s.coreAt m).writeReplies.x ∧ (t.coreAt m).strip = (s.coreAt m).strip)

/-- Z.hres and z.hstop: the claims ResumeStatus, HaltStatus. -/
def Obligations.ResumeAndHalt : Prop :=
  Sys2Proof.Claims.ResumeStatus ∧ Sys2Proof.Claims.HaltStatus

namespace Sys2Proof.Claims

/-- R328: a translation is one that a stream holds: of stream register (h - 20000) mod 16 of core (h - 20000) / 16. -/
def ofStream (h : Nat) : Bool := decide (20000 ≤ h)

/-- R330: an invalidation of a partition covers a TLB by its holder: a hub hart's, and a cluster's, its cores' or their
streams' where the cluster is the partition's and not offline. -/
def holderCovered (s : State) (p h : Nat) : Bool :=
  let cluster := if ofStream h then (h - 20000) / 16 / 9 else if h < 7200 then h / 9 else h - 10000
  let a := s.hub.clusterAtt.get Attach.none cluster
  (decide (7200 ≤ h) && decide (h < 10000)) || (decide (a.part = p) && decide (2 ≤ a.state))

/-- R316: the part of an address that a page-table level below the root serves. -/
def served (level va : Nat) : Nat := if level = 0 then 0 else if level = 1 then va / 2 ^ 45 else va / 2 ^ 31

end Sys2Proof.Claims

/-- R328, R281, R330, R316: with no engine command in progress, z.inva, z.invs and z.invp drop from what the partition's
TLBs hold the translations of the ASID that are not global or that a stream holds, those of the page, 128 KiB or 2 GiB, in
the ASID or global, or all; and from its walk caches the tables of the ASID, those on the page's path, or all; and retire,
with nothing read before left in the hub hart's L1D. -/
def Sys2Proof.Claims.InvalidationsDrop : Prop :=
  ∀ (s : State) (p : Nat), s.partOf s.cur = some p → (∀ e ∈ s.clusters, e.2.cmds = []) →
    (∀ a, Clear (.zInva a) s → (s.x a).toNat < 2 ^ 16 →
      ∃ t, exec (.zInva a) s = .next t ∧ t.core.pc = s.core.pc + 4 ∧ t.core.l1d = [] ∧ t.mem = s.mem ∧
        (t.tlb = s.tlb.filter fun e => !(decide (e.part = p) && holderCovered s p e.holder &&
          decide (e.asid = (s.x a).toNat) && (ofStream e.holder || !bitOf e.attrs 8))) ∧
        t.walks = s.walks.filter fun c => !decide (c.part = p ∧ c.asid = (s.x a).toNat)) ∧
    (∀ a b, Clear (.zInvs a b) s → (s.x a).toNat < 2 ^ 16 → (s.x b).toNat < 2 ^ 57 →
      ∃ t, exec (.zInvs a b) s = .next t ∧ t.core.pc = s.core.pc + 4 ∧ t.core.l1d = [] ∧ t.mem = s.mem ∧
        (t.tlb = s.tlb.filter fun e => !(decide (e.part = p) && holderCovered s p e.holder &&
          decide (e.page = (s.x b).toNat / if e.big then 2147483648 else 131072) &&
          (decide (e.asid = (s.x a).toNat) || bitOf e.attrs 8))) ∧
        t.walks = s.walks.filter fun c =>
          !decide (c.part = p ∧ c.asid = (s.x a).toNat ∧ c.pre = served c.level (s.x b).toNat)) ∧
    (Clear .zInvp s →
      ∃ t, exec .zInvp s = .next t ∧ t.core.pc = s.core.pc + 4 ∧ t.core.l1d = [] ∧ t.mem = s.mem ∧
        (t.tlb = s.tlb.filter fun e => !(decide (e.part = p) && holderCovered s p e.holder)) ∧
        t.walks = s.walks.filter fun c => !decide (c.part = p))

/-- R342, R335: z.spawn of an aligned RCB that is accepted answers the region's REGID, the next of its partition, and
the region is in the table; of one that is rejected it answers bit 63 and the code, and no region is added. -/
def Sys2Proof.Claims.SpawnAnswers : Prop :=
  ∀ (d a p : Nat) (s t : State) (b : List Byte), Clear (.zSpawn d a) s → (s.x a).toNat % 64 = 0 →
    s.loadBlock s.cur (s.x a).toNat 32 = (t, .ok b) → t.partOf s.cur = some p →
    let code := spawnCode (t.partAt p) (t.spawnRoot s.cur) (t.onlineClusters p) b
    ∃ u, exec (.zSpawn d a) s = .next u ∧
      (code = 0 → (d ≠ 0 → u.x d = .ofNat 64 (t.partAt p).nextReg) ∧
        (u.partAt p).regions.map (fun r => r.regid) =
          (t.partAt p).regions.map (fun r => r.regid) ++ [(t.partAt p).nextReg] ∧
        (u.partAt p).nextReg = (t.partAt p).nextReg + 1) ∧
      (code ≠ 0 → (d ≠ 0 → u.x d = .ofNat 64 (2 ^ 63 + code)) ∧ (u.partAt p).regions = (t.partAt p).regions)

/-- R343, R341: z.kill by a hub hart of a region that is not there answers bit 63 and 2 and changes nothing else; of a
region in its root, or of the root, it answers 0 and the region is gone. That the root is REGID 0 is the model's reading
(DEDUCED, log 25). -/
def Sys2Proof.Claims.KillAnswers : Prop :=
  ∀ (d a b p : Nat) (s : State), Clear (.zKill d a b) s → s.partOf s.cur = some p → s.kind = .hub →
    (s.regionAt p (s.x a).toNat = none →
      exec (.zKill d a b) s = .next (s.retires (.zKill d a b) (s.core.setX d 0x8000000000000002))) ∧
    (s.regionAt p (s.x a).toNat ≠ none → below (s.partAt p).regions 0 (s.x a).toNat = true →
      ∃ t, exec (.zKill d a b) s = .next t ∧ t.x d = 0 ∧ t.regionAt p (s.x a).toNat = none)

/-- R343, R341: z.kill by a core of a launch of a region that is neither its own launch nor, with an SROOT, in the subtree
that SROOT names answers bit 63 and 2 and changes nothing else; of one that is, the region is gone, with the answer 0
where the caller's own launch is not in its subtree. -/
def Sys2Proof.Claims.KillBelowSroot : Prop :=
  ∀ (d a b p : Nat) (s : State) (r : Region), Clear (.zKill d a b) s → s.partOf s.cur = some p → s.kind ≠ .hub →
    s.launchOf s.cur = some r →
    let id := (s.x a).toNat
    let rs := (s.partAt p).regions
    let mayKill := id = r.regid ∨ (r.rcb.sroot ≠ 0 ∧ below rs r.rcb.sroot id = true)
    (s.regionAt p id = none ∨ ¬mayKill →
      exec (.zKill d a b) s = .next (s.retires (.zKill d a b) (s.core.setX d 0x8000000000000002))) ∧
    (s.regionAt p id ≠ none → mayKill →
      ∃ t, exec (.zKill d a b) s = .next t ∧ t.regionAt p id = none ∧
        (below rs id r.regid = false → t.x d = 0))

/-- R341, R342: z.spawn by a core of a launch with no SROOT is rejected: code 1 for a malformed block, else code 2; x[d]
receives bit 63 and the code, and no region is added. -/
def Sys2Proof.Claims.SpawnNeedsSroot : Prop :=
  ∀ (d a p : Nat) (s t : State) (r : Region) (b : List Byte), Clear (.zSpawn d a) s → s.kind ≠ .hub →
    s.launchOf s.cur = some r → r.rcb.sroot = 0 → (s.x a).toNat % 64 = 0 →
    s.loadBlock s.cur (s.x a).toNat 32 = (t, .ok b) → t.partOf s.cur = some p → t.launchOf s.cur = some r →
    ∃ u, exec (.zSpawn d a) s = .next u ∧ (u.partAt p).regions = (t.partAt p).regions ∧
      (d ≠ 0 → u.x d = if rcbBadForm b then 0x8000000000000001 else 0x8000000000000002)

/-- R344: z.yield with no ready launch to make room for retires with nothing else changed; else its launch is to be
pre-empted for that launch and its own core is switched out past the instruction. Which launch it makes room for
(`yieldsTo`) is the model's reading (DEDUCED, log 29). -/
def Sys2Proof.Claims.YieldMakesRoom : Prop :=
  ∀ (s : State) (p : Nat) (r : Region), Clear .zYield s → s.launchOf s.cur = some r → s.partOf s.cur = some p →
    (s.yieldsTo p r = none → exec .zYield s = .next (s.retires .zYield s.core)) ∧
    (∀ h, s.yieldsTo p r = some h → r.phase = .placed →
      exec .zYield s =
        .next (((s.retires .zYield s.core).vacateLaunch p r h.regid).switchOut s.cur true))

/-- Z.spawn, z.kill and z.yield: the claims SpawnAnswers, SpawnNeedsSroot, KillAnswers, KillBelowSroot,
YieldMakesRoom. -/
def Obligations.RegionCalls : Prop :=
  Sys2Proof.Claims.SpawnAnswers ∧ Sys2Proof.Claims.SpawnNeedsSroot ∧ Sys2Proof.Claims.KillAnswers ∧
  Sys2Proof.Claims.KillBelowSroot ∧ Sys2Proof.Claims.YieldMakesRoom

/-- R243: z.wsopen opens the write window of a die of the partition, and z.wsclose, with no e.wsl of the partition in a
queue or saved with a context, closes it, answering 0; else 2 where the die is not the partition's, 3 where the window is
open, 1 where a placed region uses the die, 4 where it is not open. -/
def Sys2Proof.Claims.WriteWindows : Prop :=
  ∀ (d a p : Nat) (s : State), s.partOf s.cur = some p → (∀ e ∈ s.clusters, e.2.cmds = []) →
    (∀ r ∈ (s.partAt p).regions, ∀ c ∈ r.saved, c.cmds = []) →
    let die := (s.x a).toNat
    let mine := decide (die < 8) && bitOf (s.partAt p).wsdies die
    let open_ := s.hub.windows.get false die
    (Clear (.zWsopen d a) s → ∃ t, exec (.zWsopen d a) s = .next t ∧ t.core.pc = s.core.pc + 4 ∧
      (∀ r, t.x r = if r = d ∧ d ≠ 0 then (if !mine then 2 else if open_ then 3
        else if s.dieInUse s.cur die then 1 else 0) else s.x r) ∧
      (∀ e, t.hub.windows.get false e =
        if e = die ∧ mine = true ∧ s.dieInUse s.cur die = false then true else s.hub.windows.get false e)) ∧
    (Clear (.zWsclose d a) s → s.core.wait ≠ .wsclose → ∃ t, exec (.zWsclose d a) s = .next t ∧ t.core.pc = s.core.pc + 4 ∧
      (∀ r, t.x r = if r = d ∧ d ≠ 0 then (if !mine then 2 else if !open_ then 4 else 0) else s.x r) ∧
      (∀ e, t.hub.windows.get false e = if e = die ∧ mine = true then false else s.hub.windows.get false e))

/-- R243, R307: z.wsclose waits while an e.wsl of the partition, in a queue or saved with a context, that was accepted
before it has not completed, with the window open. -/
def Sys2Proof.Claims.WindowCloseWaits : Prop :=
  ∀ (d a p : Nat) (s : State), Clear (.zWsclose d a) s → s.partOf s.cur = some p → s.core.wait ≠ .wsclose →
    s.core.preempt = none → (s.x a).toNat < 8 → bitOf (s.partAt p).wsdies (s.x a).toNat = true →
    s.hub.windows.get false (s.x a).toNat = true →
    ((∃ e ∈ s.clusters, ∃ m ∈ e.2.cmds, m.kind = .wsl ∧ m.part = p) ∨
      ∃ r ∈ (s.partAt p).regions, ∃ c ∈ r.saved, ∃ m ∈ c.cmds, m.kind = .wsl ∧ m.part = p) →
    ∃ t, exec (.zWsclose d a) s = .next t ∧ t.core.wait = .wsclose ∧ t.core.pc = s.core.pc ∧ t.core.x = s.core.x ∧
      t.hub.windows = s.hub.windows ∧ t.mem = s.mem

/-- Z.inva, z.invs, z.invp, z.wsopen and z.wsclose: the claims InvalidationsDrop, WriteWindows, WindowCloseWaits. -/
def Obligations.InvalidationsAndWriteWindows : Prop :=
  Sys2Proof.Claims.InvalidationsDrop ∧ Sys2Proof.Claims.WriteWindows ∧ Sys2Proof.Claims.WindowCloseWaits

/-! ## Vector, mask and interval instructions -/

namespace Sys2Proof.Claims

/-- The strip of the core whose turn it is runs whole: no pre-emption cuts it (R34), no register slot of its cluster fails
parity (R147), and no flag is a stop condition (R86). -/
structure WholeStrip (s : State) : Prop where
  uncut : s.core.preempt = none
  sound : (s.clusterAt (clusterOf s.cur)).badSlots = []
  quiet : s.core.stopMask = 0

/-- R150 to R153, R157: an element-wise vector instruction that its operand tags allow: destination, its new tag, the
elements it selects, and element k with its flags. -/
def vectorResult (c : Core) : Instr → Option (Nat × Tag × (Nat → Bool) × (Nat → Half × Flags))
  | .vAdd d a b km sat => (opRow true sat (c.tag a) (c.tag b)).map fun r =>
    (d, r.tag, c.mask km, fun k => elemBin .add sat c.ftz c.vrm r (c.tag a) (c.tag b) (c.elem a k) (c.elem b k))
  | .vSub d a b km sat => (opRow true sat (c.tag a) (c.tag b)).map fun r =>
    (d, r.tag, c.mask km, fun k => elemBin .sub sat c.ftz c.vrm r (c.tag a) (c.tag b) (c.elem a k) (c.elem b k))
  | .vMul d a b km sat => (opRow false sat (c.tag a) (c.tag b)).map fun r =>
    (d, r.tag, c.mask km, fun k => elemBin .mul sat c.ftz c.vrm r (c.tag a) (c.tag b) (c.elem a k) (c.elem b k))
  | .vDiv d a b km => (opRow false false (c.tag a) (c.tag b)).map fun r =>
    (d, r.tag, c.mask km, fun k => elemBin .div false c.ftz c.vrm r (c.tag a) (c.tag b) (c.elem a k) (c.elem b k))
  | .vMin d a b km => (opRow false false (c.tag a) (c.tag b)).map fun r =>
    (d, r.tag, c.mask km, fun k => elemBin .min false c.ftz c.vrm r (c.tag a) (c.tag b) (c.elem a k) (c.elem b k))
  | .vMax d a b km => (opRow false false (c.tag a) (c.tag b)).map fun r =>
    (d, r.tag, c.mask km, fun k => elemBin .max false c.ftz c.vrm r (c.tag a) (c.tag b) (c.elem a k) (c.elem b k))
  | .vFma d a b km => (fmaRow (c.tag a) (c.tag b) (c.tag d)).map fun r => (d, r.tag, c.mask km, fun k =>
    elemFma false c.ftz c.vrm r (c.tag a) (c.tag b) (c.tag d) (c.elem a k) (c.elem b k) (c.elem d k))
  | .vFms d a b km => (fmaRow (c.tag a) (c.tag b) (c.tag d)).map fun r => (d, r.tag, c.mask km, fun k =>
    elemFma true c.ftz c.vrm r (c.tag a) (c.tag b) (c.tag d) (c.elem a k) (c.elem b k) (c.elem d k))
  | .vAnd d a b km => (logicTag (c.tag a) (c.tag b)).map fun t => (d, t, c.mask km, fun k => (c.elem a k &&& c.elem b k, 0))
  | .vOr d a b km => (logicTag (c.tag a) (c.tag b)).map fun t => (d, t, c.mask km, fun k => (c.elem a k ||| c.elem b k, 0))
  | .vXor d a b km => (logicTag (c.tag a) (c.tag b)).map fun t => (d, t, c.mask km, fun k => (c.elem a k ^^^ c.elem b k, 0))
  | .vShl d a b km => if Tag.isInt (c.tag a) && Tag.isInt (c.tag b) then
    some (d, c.tag a, c.mask km, fun k => (.ofNat 32 ((c.elem a k).toNat * 2 ^ ((c.elem b k).toNat % 32)), 0)) else none
  | .vShr d a b km => if Tag.isInt (c.tag a) && Tag.isInt (c.tag b) then
    some (d, c.tag a, c.mask km, fun k => (.ofNat 32 ((c.elem a k).toNat / 2 ^ ((c.elem b k).toNat % 32)), 0)) else none
  | .vSar d a b km => if Tag.isInt (c.tag a) && Tag.isInt (c.tag b) then
    some (d, c.tag a, c.mask km, fun k => (.ofInt 32 ((c.elem a k).toInt / 2 ^ ((c.elem b k).toNat % 32)), 0)) else none
  | .vSel d a b km => (selTag (c.tag a) (c.tag b)).map fun t =>
    (d, t, fun _ => true, fun k => (if c.mask km k then c.elem a k else c.elem b k, 0))
  | .vIota d km => some (d, .ix, c.mask km, fun k => (.ofNat 32 k, 0))
  | .vAbs d a km => if c.tag a = .s32 || Tag.isFloat (c.tag a) then
    some (d, c.tag a, c.mask km, fun k => (elemAbs (c.tag a) (c.elem a k), 0)) else none
  | .vNeg d a km => if c.tag a = .s32 || Tag.isFloat (c.tag a) then
    some (d, c.tag a, c.mask km, fun k => (elemNeg (c.tag a) (c.elem a k), 0)) else none
  | .vNot d a km => if Tag.isInt (c.tag a) then some (d, c.tag a, c.mask km, fun k => (~~~(c.elem a k), 0)) else none
  | .vSqrt d a km => if Tag.isFloat (c.tag a) then some (d, c.tag a, c.mask km, fun k =>
    result c.ftz c.vrm (c.tag a) (sqrtV (operand c.ftz (c.tag a) (c.elem a k)))) else none
  | .vExp2 d a km => if Tag.isFloat (c.tag a) then some (d, .fp32, c.mask km, fun k =>
    result c.ftz c.vrm .fp32 (exp2V (operand c.ftz (c.tag a) (c.elem a k)))) else none
  | .vLog2 d a km => if Tag.isFloat (c.tag a) then some (d, .fp32, c.mask km, fun k =>
    result c.ftz c.vrm .fp32 (log2V (operand c.ftz (c.tag a) (c.elem a k)))) else none
  | .vCvt d a km md => if c.tag a = .pk then none else
    some (d, md, c.mask km, fun k => elemCvt c.ftz c.vrm (c.tag a) md (c.elem a k))
  | .vTag d a km md => some (d, md, c.mask km, fun k => (c.elem a k, 0))
  | .vMov d a km => some (d, c.tag a, c.mask km, fun k => (c.elem a k, 0))
  | .vSplat d a km md => some (d, md, c.mask km, fun _ =>
    (if md = .bf16 then .ofNat 32 ((c.xreg a).toNat % 65536 * 65536) else .ofNat 32 (c.xreg a).toNat, 0))
  | _ => none

/-- R260: the tags that a vector atomic takes: an index in b, and in d an integer or, where float allows it, FP32. -/
def badAtomic (c : Core) (float : Bool) (d b : Nat) : Bool :=
  !(Tag.isIndex (c.tag b) && (Tag.isInt (c.tag d) || (float && c.tag d == .fp32)))

/-- The vector instructions that a tag combination outside their table stops (R57 to R60, R161, R201, R252, R260). -/
def tagChecked (c : Core) : Instr → Bool
  | .vAdd _ a b _ sat | .vSub _ a b _ sat => (opRow true sat (c.tag a) (c.tag b)).isNone
  | .vMul _ a b _ sat => (opRow false sat (c.tag a) (c.tag b)).isNone
  | .vDiv _ a b _ | .vMin _ a b _ | .vMax _ a b _ | .vCmp _ a b _ _ => (opRow false false (c.tag a) (c.tag b)).isNone
  | .vAnd _ a b _ | .vOr _ a b _ | .vXor _ a b _ => (logicTag (c.tag a) (c.tag b)).isNone
  | .vShl _ a b _ | .vShr _ a b _ | .vSar _ a b _ => !(Tag.isInt (c.tag a) && Tag.isInt (c.tag b))
  | .vNot _ a _ => !Tag.isInt (c.tag a)
  | .vSqrt _ a _ | .vExp2 _ a _ | .vLog2 _ a _ => !Tag.isFloat (c.tag a)
  | .vFma d a b _ | .vFms d a b _ => (fmaRow (c.tag a) (c.tag b) (c.tag d)).isNone
  | .vSel _ a b _ => c.tag a != c.tag b
  | .vAbs _ a _ | .vNeg _ a _ => !(c.tag a == .s32 || Tag.isFloat (c.tag a))
  | .vCvt _ a _ _ => c.tag a == .pk
  | .vPerm _ _ b _ => !Tag.isIndex (c.tag b)
  | .vrSum d a _ => redTag .sum (c.tag a) != some (c.tag d)
  | .vrMax d a _ => redTag .max (c.tag a) != some (c.tag d)
  | .vrMin d a _ => redTag .min (c.tag a) != some (c.tag d)
  | .vrAnd d a _ | .vrOr d a _ => !(Tag.isInt (c.tag a) && c.tag d == c.tag a)
  | .qPt _ a => !Tag.isFloat (c.tag a)
  | .qMk _ a b => !(Tag.isFloat (c.tag a) && Tag.isFloat (c.tag b))
  | .vstUn d _ _ f | .vstSd d _ _ _ f => !storeAccepts f (c.tag d)
  | .vldX _ _ b _ _ => !Tag.isIndex (c.tag b)
  | .vstX d _ b _ f | .vstXa d _ b _ f => !(Tag.isIndex (c.tag b) && storeAccepts f (c.tag d))
  | .vamAdd d _ b _ | .vamMin d _ b _ | .vamMax d _ b _ | .vamSwap d _ b _ => badAtomic c true d b
  | .vamAnd d _ b _ | .vamOr d _ b _ | .vamXor d _ b _ => badAtomic c false d b
  | _ => false

/-- The slot of element j of a register inside the strip, zero outside (R156). -/
def slotIn (c : Core) (r n : Nat) (j : Int) : Half := if 0 ≤ j ∧ j < n then c.elem r j.toNat else 0

/-- The number of selected elements below k (R157, R158). -/
def selectedBelow (c : Core) (km k : Nat) : Nat := ((List.range k).filter (c.mask km)).length

/-- R156 to R158: a permutation that its operand tags allow: destination, its new tag, and the elements it writes, each
with its index. -/
def permuted (c : Core) (n : Nat) : Instr → Option (Nat × Tag × List (Nat × Half))
  | .vSlide d a b km => some (d, c.tag a,
    ((List.range n).filter (c.mask km)).map fun k => (k, slotIn c a n ((k : Int) + (c.xreg b).toInt)))
  | .vPerm d a b km => if Tag.isIndex (c.tag b) then some (d, c.tag a,
    ((List.range n).filter (c.mask km)).map fun k => (k, slotIn c a n ((c.elem b k).toNat : Int))) else none
  | .vExpd d a km => some (d, c.tag a,
    ((List.range n).filter (c.mask km)).map fun k => (k, slotIn c a n (selectedBelow c km k : Int)))
  | .vRev d a km => some (d, c.tag a,
    ((List.range n).filter (c.mask km)).map fun k => (k, slotIn c a n ((n : Int) - 1 - k)))
  | .vComp d a km => some (d, c.tag a,
    ((List.range n).filter (c.mask km)).zipIdx.map fun p => (p.2, c.elem a p.1))
  | _ => none

/-- R172: the mask bits an instruction of the k group writes: destination, and bit k of a strip of n. -/
def maskBits (c : Core) (n : Nat) : Instr → Option (Nat × (Nat → Bool))
  | .kAnd d a b => some (d, fun k => c.mask a k && c.mask b k)
  | .kOr d a b => some (d, fun k => c.mask a k || c.mask b k)
  | .kXor d a b => some (d, fun k => xor (c.mask a k) (c.mask b k))
  | .kAndn d a b => some (d, fun k => c.mask a k && !c.mask b k)
  | .kNot d a => some (d, fun k => !c.mask a k)
  | .kMov d a => some (d, fun k => c.mask a k)
  | .kWhile d a b => some (d, fun k => decide ((c.xreg a).toNat + k < (c.xreg b).toNat))
  | .kBrka d a => some (d, fun k => decide (∀ j < k, j < n → c.mask a j = false))
  | .kBrkb d a => some (d, fun k => decide (∀ j ≤ k, j < n → c.mask a j = false))
  | _ => none

/-- R161, R162: function, destination, source and mask of a reduction. -/
def reduction : Instr → Option (RedOp × Nat × Nat × Nat)
  | .vrSum d a km => some (.sum, d, a, km)
  | .vrMax d a km => some (.max, d, a, km)
  | .vrMin d a km => some (.min, d, a, km)
  | .vrAnd d a km => some (.and, d, a, km)
  | .vrOr d a km => some (.or, d, a, km)
  | _ => none

/-- R199, R200: operation and registers of an interval instruction with a contractor twin, and whether it is one. -/
def intervalForm (c : Core) : Instr → Option (IvOp × Nat × Nat × Nat × Bool)
  | .qAdd d a b k => some (.add, d, a, b, k)
  | .qSub d a b k => some (.sub, d, a, b, k)
  | .qMul d a b k => some (.mul, d, a, b, k)
  | .qDiv d a b k => some (.div, d, a, b, k)
  | .qMin d a b k => some (.min, d, a, b, k)
  | .qMax d a b k => some (.max, d, a, b, k)
  | .qSqr d a k => some (.sqr, d, a, 0, k)
  | .qSqrt d a k => some (.sqrt, d, a, 0, k)
  | .qExp d a k => some (.exp, d, a, 0, k)
  | .qLog d a k => some (.log, d, a, 0, k)
  | .qAxpy d a b w k => some (.axpy (unpack Fl.f32 ((c.xreg w).toNat % 2 ^ 32)), d, a, b, k)
  | _ => none

/-- The second operand of an interval operation; a unary one has none. -/
def second (c : Core) (op : IvOp) (b k : Nat) : Ival :=
  match op with
  | .sqr | .sqrt | .exp | .log => .span zeroVal zeroVal
  | _ => c.ival b k

/-- R201, R205 to R208: the core after each of the other interval instructions over n elements, where its operand tags
allow it. -/
def intervalResult (c : Core) (n : Nat) : Instr → Option Core
  | .qHull d a b => some (c.setPairs d ((List.range n).map fun k => (k, (hullIval (c.ival a k) (c.ival b k)).pair)))
  | .qMeet d a b => some (c.setPairs d ((List.range n).map fun k => (k, (meetIval (c.ival a k) (c.ival b k)).pair)))
  | .qSplit d a =>
    let halves (k : Nat) : Word × Word := match c.ival a k with
      | .span lo hi => ((Ival.span lo (boundVal (midCode lo hi))).pair, (Ival.span (boundVal (midCode lo hi)) hi).pair)
      | v => (v.pair, v.pair)
    some ((c.setPairs d ((List.range n).map fun k => (k, (halves k).1))).setPairs a
      ((List.range n).map fun k => (k, (halves k).2)))
  | .qCmp d a b cond =>
    let r (k : Nat) : Bool × Bool := compareIval cond (c.ival a k) (c.ival b k)
    some ((c.setMasks d ((List.range n).map fun k => (k, (r k).1))).setMasks (d + 1)
      ((List.range n).map fun k => (k, (r k).2)))
  | .qMk d a b => if Tag.isFloat (c.tag a) && Tag.isFloat (c.tag b) then
      some (c.setPairs d ((List.range n).map fun k =>
        (k, (ivalOf (pointVal (c.tag a) (c.elem a k)) (pointVal (c.tag b) (c.elem b k))).pair)))
    else none
  | .qPt d a => if Tag.isFloat (c.tag a) then
      some (c.setPairs d ((List.range n).map fun k => (k, (pointIval (pointVal (c.tag a) (c.elem a k))).pair)))
    else none
  | .qLo d a => some (writeVec d .fp32 ((List.range n).map fun k => (k, BitVec.ofNat 32 (match c.ival a k with
      | .ill => 0x7FC00000
      | .empty => 0x7F800000
      | .span lo _ => plusZero (downF32 lo)))) c)
  | .qHi d a => some (writeVec d .fp32 ((List.range n).map fun k => (k, BitVec.ofNat 32 (match c.ival a k with
      | .ill => 0x7FC00000
      | .empty => 0xFF800000
      | .span _ hi => plusZero (upF32 hi)))) c)
  | .qWid d a => some (writeVec d .fp32 ((List.range n).map fun k => (k, BitVec.ofNat 32 (match c.ival a k with
      | .ill | .empty => 0x7FC00000
      | .span lo hi => widCode lo hi))) c)
  | .qMid d a => some (writeVec d .fp32 ((List.range n).map fun k => (k, BitVec.ofNat 32 (match c.ival a k with
      | .ill | .empty => 0x7FC00000
      | .span lo hi => midCode lo hi))) c)
  | _ => none

end Sys2Proof.Claims

/-- R144, R146, R149 to R153, R157: an element-wise vector instruction whose tags are allowed, over a strip that runs
whole, writes every selected element below the length, gives the destination its tag, raises the flags of the elements
it computed, and changes nothing else. -/
def Obligations.VectorElementResults : Prop :=
  ∀ (i : Instr) (s : State) (d : Nat) (t : Tag) (sel : Nat → Bool) (f : Nat → Half × Flags),
    vectorResult s.core i = some (d, t, sel, f) → Clear i s → WholeStrip s →
    let ks := (List.range s.core.strip.len.toNat).filter sel
    exec i s = .next (s.retires i
      ((writeVec d t (ks.map fun k => (k, (f k).1)) s.core).raise (ks.foldl (fun fl k => fl ||| (f k).2) 0)))

/-- R57 to R60, R161, R252, R260, R53: a vector instruction whose operand tags its table does not list takes a lead trap
with cause tag (9) and its word as the value, and writes nothing. -/
def Sys2Proof.Claims.TagTraps : Prop :=
  ∀ (i : Instr) (s : State), tagChecked s.core i = true → Clear i s →
    exec i s = .next (s.trapped 9 (firstWord i))

/-- R154: v.cmp writes the selected bits of mask d. -/
def Sys2Proof.Claims.VectorCompare : Prop :=
  ∀ (d a b km : Nat) (cond : VCond) (r : Row) (s : State), Clear (.vCmp d a b km cond) s → WholeStrip s →
    opRow false false (s.core.tag a) (s.core.tag b) = some r →
    let f (k : Nat) : Bool × Flags :=
      elemCmp cond s.core.ftz r (s.core.tag a) (s.core.tag b) (s.core.elem a k) (s.core.elem b k)
    let ks := (List.range s.core.strip.len.toNat).filter (s.core.mask km)
    exec (.vCmp d a b km cond) s = .next (s.retires (.vCmp d a b km cond)
      ((s.core.setMasks d (ks.map fun k => (k, (f k).1))).raise (ks.foldl (fun fl k => fl ||| (f k).2) 0)))

/-- R156 to R158: the permutations write the selected elements from the slots R157 names, or, v.comp, the selected
elements closed up; the destination takes tag(a). -/
def Obligations.VectorPermutations : Prop :=
  ∀ (i : Instr) (s : State) (d : Nat) (t : Tag) (l : List (Nat × Half)),
    permuted s.core s.core.strip.len.toNat i = some (d, t, l) → Clear i s → WholeStrip s →
    exec i s = .next (s.retires i (writeVec d t l s.core))

/-- R159: v.mvx puts element x[b] of a into x[d], sign-extended from S32 alone, and 0 where the strip has no such
element. -/
def Sys2Proof.Claims.VectorToScalar : Prop :=
  ∀ (d a b : Nat) (s : State), Clear (.vMvx d a b) s → WholeStrip s →
    let p := (s.x b).toNat
    exec (.vMvx d a b) s = .next (s.retires (.vMvx d a b) (s.core.setX d
      (if p < s.core.strip.len.toNat then
        (if s.core.tag a = .s32 then .ofInt 64 (s.core.elem a p).toInt else .ofNat 64 (s.core.elem a p).toNat)
       else 0)))

namespace Sys2Proof.Claims

/-- R106: position p of level l of the tree over a row. -/
def treeNode (op : Half → Half → Half) (row : Nat → Option Half) : Nat → Nat → Option Half
  | 0, p => row p
  | l + 1, p => match treeNode op row l (2 * p), treeNode op row l (2 * p + 1) with
    | none, y => y
    | x, none => x
    | some x, some y => some (op x y)

/-- R106, R88: position p of row m: element 32 m + p, a BF16 one widened to FP32, or absent. -/
def rowAt (c : Core) (t : Tag) (a km n m p : Nat) : Option Half :=
  let k := 32 * m + p
  if p < 32 ∧ k < n ∧ c.mask km k = true then some (if t = .bf16 then c.elem a k &&& 0xFFFF0000 else c.elem a k) else none

end Sys2Proof.Claims

/-- R106, R161: with no stop flag the rows combine in ascending order into the accumulator, each by the fixed tree of five
levels over its 32 positions. -/
def Sys2Proof.Claims.ReductionTree : Prop :=
  ∀ (c : Core) (t : Tag) (op : Half → Half → Half × Flags) (a km n rows : Nat) (acc : Half), c.stopMask = 0 →
    let op1 (x y : Half) : Half := (op x y).1
    (c.reduce t op a km n rows 0 acc 0).1 = (List.range rows).foldl (fun acc m =>
      match treeNode op1 (rowAt c t a km n m) 5 0 with
      | none => acc
      | some v => op1 acc v) acc

/-- R161, R162, R106: a reduction whose tags are allowed combines the rows of a in order, each by its tree, into element
0 of d. -/
def Sys2Proof.Claims.ReductionResults : Prop :=
  ∀ (i : Instr) (s : State) (op : RedOp) (d a km : Nat) (t : Tag), reduction i = some (op, d, a, km) → Clear i s →
    WholeStrip s → redTag op (s.core.tag a) = some t → s.core.tag d = t →
    let n := s.core.strip.len.toNat
    let r := s.core.reduce (s.core.tag a) (redOp op s.core.ftz s.core.vrm t) a km n ((n + 31) / 32) 0 (s.core.elem d 0) 0
    r.2.2 = none ∧
    exec i s = .next (s.retires i (((s.core.setElem d 0 r.1).setTag d t).raise r.2.1))

/-- The reductions: the claims ReductionResults, ReductionTree. -/
def Obligations.VectorReductions : Prop :=
  Sys2Proof.Claims.ReductionResults ∧ Sys2Proof.Claims.ReductionTree

/-- R172, R174: the mask instructions write every bit of mask d below the length. -/
def Sys2Proof.Claims.MaskResults : Prop :=
  ∀ (i : Instr) (s : State) (d : Nat) (bit : Nat → Bool),
    maskBits s.core s.core.strip.len.toNat i = some (d, bit) → Clear i s → WholeStrip s →
    exec i s = .next (s.retires i
      (s.core.setMasks d ((List.range s.core.strip.len.toNat).map fun k => (k, bit k))))

/-- R173: k.cnt counts the ones of mask a below the length, k.first finds the lowest, or answers the length. -/
def Sys2Proof.Claims.MaskCounts : Prop :=
  ∀ (d a : Nat) (s : State), WholeStrip s →
    let n := s.core.strip.len.toNat
    (Clear (.kCnt d a) s → exec (.kCnt d a) s = .next (s.retires (.kCnt d a)
      (s.core.setX d (.ofNat 64 ((List.range n).countP (s.core.mask a)))))) ∧
    (Clear (.kFirst d a) s → ∃ p, exec (.kFirst d a) s = .next (s.retires (.kFirst d a)
      (s.core.setX d (.ofNat 64 p))) ∧ p ≤ n ∧ (∀ j < p, s.core.mask a j = false) ∧
      (p < n → s.core.mask a p = true))

/-- V.cmp, the mask instructions that write a mask, v.mvx, k.cnt and k.first: the claims VectorCompare, MaskResults,
VectorToScalar, MaskCounts. -/
def Obligations.MasksAndScalars : Prop :=
  Sys2Proof.Claims.VectorCompare ∧ Sys2Proof.Claims.MaskResults ∧ Sys2Proof.Claims.VectorToScalar ∧
  Sys2Proof.Claims.MaskCounts

/-- R195, R196, R199, R200: a forward interval form writes, for every element of the strip, the outward image. -/
def Sys2Proof.Claims.IntervalForward : Prop :=
  ∀ (i : Instr) (s : State) (op : IvOp) (d a b : Nat), intervalForm s.core i = some (op, d, a, b, false) →
    Clear i s → WholeStrip s →
    exec i s = .next (s.retires i (s.core.setPairs d ((List.range s.core.strip.len.toNat).map fun k =>
      (k, (forward op (s.core.ival a k) (second s.core op b k)).pair))))

/-- R196, R202 to R204: a contractor form narrows a, then b, and writes the progress bits to k23 and the sticky bits of
qstat; its destination is only read. -/
def Sys2Proof.Claims.IntervalContractors : Prop :=
  ∀ (i : Instr) (s : State) (op : IvOp) (d a b : Nat), intervalForm s.core i = some (op, d, a, b, true) →
    Clear i s → WholeStrip s →
    let c := s.core
    let un := match op with
      | .sqr | .sqrt | .exp | .log => true
      | _ => false
    let v := (List.range c.strip.len.toNat).map fun k => (k, narrowElem op (!un && a == b)
      (unpack Fl.f32 c.modes.qthr.toNat) (c.ival a k) (second c op b k) (c.ival d k))
    let c1 := c.setPairs a (v.map fun e => (e.1, e.2.x))
    let c2 := if un then c1 else c1.setPairs b (v.map fun e => (e.1, e.2.y))
    exec i s = .next (s.retires i ((c2.setMasks 23 (v.map fun e => (e.1, e.2.progress))).setQstat v))

/-- The forward and contractor interval forms: the claims IntervalForward, IntervalContractors. -/
def Obligations.IntervalArithmetic : Prop :=
  Sys2Proof.Claims.IntervalForward ∧ Sys2Proof.Claims.IntervalContractors

/-- R201, R205 to R208: q.hull, q.meet, q.split, q.cmp, q.mk, q.pt, q.lo, q.hi, q.wid and q.mid over a strip that runs
whole write what the table `intervalResult` gives, and nothing else. -/
def Obligations.IntervalResults : Prop :=
  ∀ (i : Instr) (s : State) (c : Core), intervalResult s.core s.core.strip.len.toNat i = some c → Clear i s →
    WholeStrip s → exec i s = .next (s.retires i c)

/-! ## What the helpers compute, over the reals -/

namespace Sys2Proof.Claims

/-- The rational of a sign, a natural number and a power of two. -/
def ratOf (neg : Bool) (m : Nat) (e : Int) : ℚ := (if neg then -1 else 1) * m * 2 ^ e

/-- R88: the magnitude of a code without its sign, in a format of precision p with its exponent bits: a significand times
a power of two, subnormals without the hidden bit; one past the largest finite code it is the next power of two. -/
def magOf (f : Fl) (c : Nat) : ℚ :=
  let hidden := 2 ^ (f.prec - 1)
  let ex := c / hidden
  let bias : Int := 2 ^ (f.ebits - 1) - 1
  ((if ex = 0 then c else hidden + c % hidden : Nat) : ℚ) * 2 ^ ((max ex 1 : Nat) - bias - (f.prec - 1 : Nat) : Int)

/-- The code of infinity without its sign, and the weight of the sign bit (R88, R89). -/
def infCode (f : Fl) : Nat := (2 ^ f.ebits - 1) * 2 ^ (f.prec - 1)
def signWeight (f : Fl) : Nat := 2 ^ (f.prec - 1 + f.ebits)

/-- R91: where a mode takes a magnitude of a sign: to the nearest, toward zero, away from zero. -/
inductive Toward | nearest | zero | away
def toward (mode : Rm) (neg : Bool) : Toward := match mode, neg with
  | .rne, _ => .nearest
  | .rtz, _ | .rdn, false | .rup, true => .zero
  | .rdn, true | .rup, false => .away

/-- R91, R104: c is the code of a magnitude y rounded once; the largest finite value stands for an overflow toward zero,
infinity for the others. -/
def roundsTo (f : Fl) (mode : Rm) (neg : Bool) (y : ℝ) (c : Nat) : Prop :=
  let mag (k : Nat) : ℝ := (magOf f k : ℝ)
  let inf := infCode f
  c ≤ inf ∧ match toward mode neg with
    | .nearest =>
      (0 < c → mag (c - 1) + mag c ≤ 2 * y ∧ (2 * y = mag (c - 1) + mag c → c % 2 = 0)) ∧
      (c < inf → 2 * y ≤ mag c + mag (c + 1) ∧ (2 * y = mag c + mag (c + 1) → c % 2 = 0))
    | .zero => c < inf ∧ mag c ≤ y ∧ (c + 1 < inf → y < mag (c + 1))
    | .away => (c < inf → y ≤ mag c) ∧ (0 < c → mag (c - 1) < y)

/-- R85: the flags of a magnitude y > 0 rounded to the code c: OF when, rounded, it exceeds the largest finite value, NX
when the result differs from it, UF when it is also tiny: rounded with no bound on the exponent, below the smallest
normal value. -/
def roundFlags (f : Fl) (mode : Rm) (neg : Bool) (y : ℝ) (c : Nat) (fl : Flags) : Prop :=
  let mag (k : Nat) : ℝ := (magOf f k : ℝ)
  let inf := infCode f
  let normal := mag (2 ^ (f.prec - 1))
  let overflows := match toward mode neg with
    | .nearest => mag (inf - 1) + mag inf ≤ 2 * y
    | .zero => mag inf ≤ y
    | .away => mag (inf - 1) < y
  let tiny := match toward mode neg with
    | .nearest => normal < 2 ^ (f.prec + 1) * (normal - y)
    | .zero => y < normal
    | .away => normal ≤ 2 ^ f.prec * (normal - y)
  let inexact := c = inf ∨ mag c ≠ y
  (fl.getLsbD 0 = true ↔ inexact) ∧ (fl.getLsbD 1 = true ↔ inexact ∧ tiny) ∧ (fl.getLsbD 2 = true ↔ overflows) ∧ fl.toNat < 8

/-- A result of a sign with its flags is the magnitude y rounded once. -/
def isRounded (f : Fl) (mode : Rm) (neg : Bool) (y : ℝ) (r : Nat × Flags) : Prop :=
  ∃ c, r.1 = (if neg then signWeight f else 0) + c ∧ roundsTo f mode neg y c ∧ roundFlags f mode neg y c r.2

/-- The formats of the arithmetic (R88). -/
def formats : List Fl := [Fl.f64, Fl.f32, Fl.bf16]

/-- R150: the exact result of a binary operation on two reals; none where division has none. -/
noncomputable def exactly (op : BinOp) (x y : ℝ) : Option ℝ := match op with
  | .add => some (x + y)
  | .sub => some (x - y)
  | .mul => some (x * y)
  | .div => if y = 0 then none else some (x / y)
  | .min => some (min x y)
  | .max => some (max x y)

/-- R88: the real of a float slot under its tag, if it is finite; a BF16 value is in the upper half. -/
def slotReal (t : Tag) (h : Half) : Option ℚ :=
  let b := if t = .bf16 then h.toNat / 65536 else h.toNat
  let f := if t = .bf16 then Fl.bf16 else Fl.f32
  let c := b % signWeight f
  if c < infCode f then some (if signWeight f ≤ b then -magOf f c else magOf f c) else none

/-- A float slot of a tag as a code. -/
def codeOf (t : Tag) (h : Half) : Nat := if t = .bf16 then h.toNat / 65536 else h.toNat

end Sys2Proof.Claims

/-- R88, R89: a code is decoded to the value it stands for; a NaN signals when the top bit of its fraction is 0. -/
def Sys2Proof.Claims.CodesDecode : Prop :=
  ∀ f ∈ formats, ∀ (neg : Bool) (c : Nat), c < signWeight f →
    let v := unpack f ((if neg then signWeight f else 0) + c)
    (c < infCode f → ∃ m e, v = .fin neg m e ∧ ratOf false m e = magOf f c) ∧
    (c = infCode f → v = .inf neg) ∧
    (infCode f < c → v = .nan (decide (c < infCode f + 2 ^ (f.prec - 2))))

/-- R85, R88, R89, R91, R104: a value packed into a format is rounded once, with its flags; a zero and an infinity keep
their sign; a NaN becomes the canonical one, with NV where it signals. -/
def Sys2Proof.Claims.RoundingIsIeee : Prop :=
  ∀ f ∈ formats, ∀ (mode : Rm) (neg : Bool),
    (∀ m e, 0 < m → isRounded f mode neg ((ratOf false m e : ℚ) : ℝ) (pack f mode (.fin neg m e))) ∧
    (∀ e, pack f mode (.fin neg 0 e) = ((if neg then signWeight f else 0), 0)) ∧
    pack f mode (.inf neg) = ((if neg then signWeight f else 0) + infCode f, 0) ∧
    (∀ s, pack f mode (.nan s) = (infCode f + 2 ^ (f.prec - 2), if s then Flags.nv else 0))

/-- R104, R91: sums, products and fused sums of finite values are formed exactly, with no flag; a zero sum of opposite
zeros or of cancelling terms is negative only toward -infinity. -/
def Sys2Proof.Claims.ExactOperations : Prop :=
  ∀ (mode : Rm) (n1 n2 n3 : Bool) (m1 m2 m3 : Nat) (e1 e2 e3 : Int),
    let x := ratOf n1 m1 e1
    let y := ratOf n2 m2 e2
    let z := ratOf n3 m3 e3
    let a : Val := .fin n1 m1 e1
    let b : Val := .fin n2 m2 e2
    (∃ n m e, addV mode a b = (.fin n m e, 0) ∧ ratOf n m e = x + y ∧
      (m = 0 → n = if n1 = n2 then n1 else decide (mode = .rdn))) ∧
    (∃ m e, mulV a b = (.fin (n1 != n2) m e, 0) ∧ ratOf (n1 != n2) m e = x * y) ∧
    (∃ n m e, fmaV mode a b (.fin n3 m3 e3) = (.fin n m e, 0) ∧ ratOf n m e = x * y + z ∧
      (m = 0 → n = if (n1 != n2) = n3 then n3 else decide (mode = .rdn)))

/-- R85, R89, R104: infinities and NaNs as operands: a NaN gives the canonical one, with NV where one signals; infinities
that cancel, zero times infinity (whatever is added), 0/0 and infinity/infinity are invalid; a non-zero value over zero is
an infinity with DZ; a root below zero is invalid. -/
def Sys2Proof.Claims.SpecialOperands : Prop :=
  ∀ (mode : Rm) (n1 n2 : Bool) (m : Nat) (e1 e2 : Int) (a b c : Val),
    let bad : Val × Flags := (.nan false, Flags.nv)
    (a.isNan = true ∨ b.isNan = true →
      let r : Val × Flags := (.nan false, if a.signals || b.signals then Flags.nv else 0)
      addV mode a b = r ∧ mulV a b = r ∧ divV a b = r) ∧
    (n1 ≠ n2 → addV mode (.inf n1) (.inf n2) = bad) ∧ addV mode (.inf n1) (.inf n1) = (.inf n1, 0) ∧
    addV mode (.inf n1) (.fin n2 m e1) = (.inf n1, 0) ∧ addV mode (.fin n2 m e1) (.inf n1) = (.inf n1, 0) ∧
    (m ≠ 0 → mulV (.inf n1) (.fin n2 m e1) = (.inf (n1 != n2), 0) ∧
      mulV (.fin n2 m e1) (.inf n1) = (.inf (n2 != n1), 0) ∧
      divV (.fin n1 m e1) (.fin n2 0 e2) = (.inf (n1 != n2), Flags.dz) ∧ sqrtV (.fin true m e1) = bad) ∧
    mulV (.inf n1) (.inf n2) = (.inf (n1 != n2), 0) ∧
    mulV (.inf n1) (.fin n2 0 e1) = bad ∧ mulV (.fin n2 0 e1) (.inf n1) = bad ∧
    (fmaV mode (.inf n1) (.fin n2 0 e1) c).1 = .nan false ∧ (fmaV mode (.inf n1) (.fin n2 0 e1) c).2 = Flags.nv ∧
    (fmaV mode (.fin n2 0 e1) (.inf n1) c).1 = .nan false ∧ (fmaV mode (.fin n2 0 e1) (.inf n1) c).2 = Flags.nv ∧
    divV (.fin n1 0 e1) (.fin n2 0 e2) = bad ∧ divV (.inf n1) (.inf n2) = bad ∧
    divV (.inf n1) (.fin n2 m e1) = (.inf (n1 != n2), 0) ∧ (divV (.fin n1 m e1) (.inf n2)).1.isZero = true ∧
    sqrtV (.inf true) = bad ∧ sqrtV (.inf false) = (.inf false, 0) ∧ sqrtV (.fin n1 0 e1) = (.fin n1 0 e1, 0)

/-- R104: a quotient and a root of finite values are rounded as the exact ones are. -/
def Sys2Proof.Claims.QuotientsAndRoots : Prop :=
  ∀ f ∈ formats, ∀ (mode : Rm) (n1 n2 : Bool) (m1 m2 : Nat) (e1 e2 : Int), 0 < m1 →
    (0 < m2 → isRounded f mode (n1 != n2) ((ratOf false m1 e1 / ratOf false m2 e2 : ℚ) : ℝ)
      (finishV f mode (divV (.fin n1 m1 e1) (.fin n2 m2 e2)))) ∧
    isRounded f mode false (Real.sqrt ((ratOf false m1 e1 : ℚ) : ℝ)) (finishV f mode (sqrtV (.fin false m1 e1)))

/-- R104, R88, R150: a binary element operation and a fused one on finite slots of float tags, with subnormals kept, whose
exact result is not zero, rounds it once into the result tag's format, with its flags. -/
def Sys2Proof.Claims.ElementResultsRound : Prop :=
  ∀ (mode : Rm) (t ta tb td : Tag) (a b d : Half) (x y z : ℚ), Tag.isFloat t = true →
    Tag.isFloat ta = true → Tag.isFloat tb = true → Tag.isFloat td = true →
    slotReal ta a = some x → slotReal tb b = some y → slotReal td d = some z →
    let f := if t = .bf16 then Fl.bf16 else Fl.f32
    let rounded (r : Half × Flags) (v : ℝ) : Prop := ∀ neg, (neg = true ↔ v < 0) → v ≠ 0 →
      isRounded f mode neg |v| (codeOf t r.1, r.2)
    (∀ op v, op ≠ .min → op ≠ .max → exactly op x y = some v → rounded (floatBin op false mode t ta tb a b) v) ∧
    rounded (elemFma false false mode (.float t) ta tb td a b d) (x * y + z) ∧
    rounded (elemFma true false mode (.float t) ta tb td a b d) (x * y - z)

/-- R91, R103: a finite value converted to an integer is rounded in its mode, with NX when that changes it, and clamped
to the range with NV. -/
def Sys2Proof.Claims.IntegersRound : Prop :=
  ∀ (mode : Rm) (lo hi : Int) (neg : Bool) (m : Nat) (e : Int), lo ≤ hi →
    let x := ratOf neg m e
    ∃ n : Int, (match mode with
        | .rne => |2 * (x - n)| ≤ 1 ∧ (|2 * (x - n)| = 1 → n % 2 = 0)
        | .rtz => n = if x < 0 then ⌈x⌉ else ⌊x⌋
        | .rdn => n = ⌊x⌋
        | .rup => n = ⌈x⌉) ∧
      toIntV mode lo hi (.fin neg m e) = (if n < lo then (lo, Flags.nv) else if hi < n then (hi, Flags.nv)
        else (n, if (n : ℚ) = x then 0 else Flags.nx))

/-- R107: exp2 of an integer and log2 of a power of two are exact. -/
def Sys2Proof.Claims.PowersExact : Prop :=
  ∀ (k : Int), k.natAbs < 2 ^ 40 →
    (∃ m e, exp2V (ofInt k) = (.fin false m e, 0) ∧ ratOf false m e = 2 ^ k) ∧
    (∀ (a : Nat) (e : Int), e + a = k → log2V (.fin false (2 ^ a) e) = (ofInt k, 0))

/-- The float helpers compute what the spec asks, exactly and rounded once: the claims CodesDecode, RoundingIsIeee,
ExactOperations, SpecialOperands, QuotientsAndRoots, ElementResultsRound, IntegersRound, PowersExact. -/
def Obligations.ExactResults : Prop :=
  Sys2Proof.Claims.CodesDecode ∧ Sys2Proof.Claims.RoundingIsIeee ∧ Sys2Proof.Claims.ExactOperations ∧
  Sys2Proof.Claims.SpecialOperands ∧ Sys2Proof.Claims.QuotientsAndRoots ∧ Sys2Proof.Claims.ElementResultsRound ∧
  Sys2Proof.Claims.IntegersRound ∧ Sys2Proof.Claims.PowersExact

namespace Sys2Proof.Claims

/-- R108: a bound of a pair lies at or below a real, or at or above it; a NaN bound does neither. -/
def belowReal (b : Nat) (r : ℝ) : Prop :=
  let c := b % 2 ^ 31
  if c < 0x7F800000 then (if 2 ^ 31 ≤ b then -(magOf Fl.f32 c : ℝ) else (magOf Fl.f32 c : ℝ)) ≤ r
  else b = 0xFF800000
def aboveReal (b : Nat) (r : ℝ) : Prop :=
  let c := b % 2 ^ 31
  if c < 0x7F800000 then r ≤ (if 2 ^ 31 ≤ b then -(magOf Fl.f32 c : ℝ) else (magOf Fl.f32 c : ℝ))
  else b = 0x7F800000

/-- R108: a real is a member of a pair: lo in bits 31:0, hi in bits 63:32. -/
def holds (w : Word) (r : ℝ) : Prop := belowReal (w.toNat % 2 ^ 32) r ∧ aboveReal (w.toNat / 2 ^ 32) r

/-- R108: a pair with a NaN is ill. -/
def illPair (w : Word) : Prop :=
  0x7F800000 < w.toNat % 2 ^ 31 ∨ 0x7F800000 < w.toNat / 2 ^ 32 % 2 ^ 31

/-- R197: the pair of an empty set, and of an ill one. -/
def emptyPair : Word := 0xFF8000007F800000
def illWord : Word := 0x7FC000007FC00000

/-- R199, R200: the function of an interval operation relates two reals and a result; exp and log, whose rounding these
claims leave out, are in none. -/
def gives (op : IvOp) (p r q : ℝ) : Prop := match op with
  | .add => q = p + r
  | .sub => q = p - r
  | .mul => q = p * r
  | .div => r ≠ 0 ∧ q = p / r
  | .sqr => q = p * p
  | .sqrt => 0 ≤ p ∧ q = Real.sqrt p
  | .min => q = min p r
  | .max => q = max p r
  | .axpy (.fin n m e) => q = (ratOf n m e : ℝ) * p + r
  | .axpy _ | .exp | .log => False

/-- An operation these claims speak of. -/
def IvArith (op : IvOp) : Prop := match op with
  | .exp | .log | .axpy (.nan _) | .axpy (.inf _) => False
  | _ => True

/-- What an operation reads of a second operand: nothing for a unary one, which the model gives a zero. -/
def secondPair (op : IvOp) (y : Word) : Word := match op with
  | .sqr | .sqrt => 0
  | _ => y

/-- How the model reads that operand. -/
def secondIval (op : IvOp) (y : Word) : Ival := match op with
  | .sqr | .sqrt => .span zeroVal zeroVal
  | _ => readPair y

/-- w is the tightest pair around the reals of which P holds: it has them all, no more than any pair that has them all,
and is the empty pair where there are none. -/
def tightest (P : ℝ → Prop) (w : Word) : Prop :=
  (∀ q, P q → holds w q) ∧ (∀ u, ¬ illPair u → (∀ q, P q → holds u q) → ∀ q, holds w q → holds u q) ∧
  ((∀ q, ¬ P q) → w = emptyPair)

end Sys2Proof.Claims

/-- R197, R199, R200: a forward form but exp and log (left out here) gives the tightest outward pair of the exact image of
its operands; with an ill operand it gives the ill pair, and q.axpy does so for a w that is no finite number. -/
def Sys2Proof.Claims.ForwardEncloses : Prop :=
  ∀ (op : IvOp) (x y : Word), let y := secondPair op y
    let z := (forward op (readPair x) (secondIval op y)).pair
    (IvArith op → ¬ illPair x → ¬ illPair y → tightest (fun q => ∃ p r, holds x p ∧ holds y r ∧ gives op p r q) z) ∧
    (illPair x ∨ illPair y → z = illWord) ∧
    (∀ v, op = .axpy v → v.finite = false → z = illWord)

/-- R202, R197: a contractor but of exp and log (left out here) keeps of each operand the tightest pair around the values
that reach the bound z: none is lost and no operand is widened; with an ill pair among the three the operands stay. -/
def Sys2Proof.Claims.ContractorsEnclose : Prop :=
  ∀ (op : IvOp) (thr : Nat) (x y z : Word), thr < 0x7F800000 → let y := secondPair op y
    let n := narrowElem op false (unpack Fl.f32 thr) (readPair x) (secondIval op y) (readPair z)
    (IvArith op → ¬ illPair x → ¬ illPair y → ¬ illPair z →
      tightest (fun p => holds x p ∧ ∃ r q, holds y r ∧ gives op p r q ∧ holds z q) n.x ∧
      (∀ p, holds n.x p → holds x p) ∧
      (op ≠ .sqr → op ≠ .sqrt →
        tightest (fun r => holds y r ∧ ∃ p q, holds x p ∧ gives op p r q ∧ holds z q) n.y ∧
        ∀ r, holds n.y r → holds y r)) ∧
    (illPair x ∨ illPair y ∨ illPair z → (∀ p, holds n.x p ↔ holds x p) ∧ n.progress = false ∧ n.emptied = false)

/-- R201: q.hull gives the tightest pair around two, q.meet what they have in common; with an ill one the ill pair. -/
def Sys2Proof.Claims.LatticeEncloses : Prop :=
  ∀ (x y : Word),
    let h := (hullIval (readPair x) (readPair y)).pair
    let m := (meetIval (readPair x) (readPair y)).pair
    (¬ illPair x → ¬ illPair y →
      tightest (fun q => holds x q ∨ holds y q) h ∧ tightest (fun q => holds x q ∧ holds y q) m ∧
      ∀ q, holds m q ↔ holds x q ∧ holds y q) ∧
    (illPair x ∨ illPair y → h = illWord ∧ m = illWord)

/-- The interval helpers enclose, tightly: the claims ForwardEncloses, ContractorsEnclose, LatticeEncloses. -/
def Obligations.IntervalsEnclose : Prop :=
  Sys2Proof.Claims.ForwardEncloses ∧ Sys2Proof.Claims.ContractorsEnclose ∧ Sys2Proof.Claims.LatticeEncloses

/-! ## Vector memory instructions and streams -/

namespace Sys2Proof.Claims

/-- R163, R164, R209: mask, elements and write-back of the unit and strided loads. -/
def loadStripForm (c : Core) : Instr → Option (Nat × (Nat → Elem) × (List (Nat × Nat) → Core → Core))
  | .vldUn d a km f => some (km, fun k => elemOf f (c.xreg a).toNat k,
    fun v => writeVec d (loadTag f) (v.map fun e => (e.1, widen f e.2)))
  | .vldSd d a b km f => some (km, fun k => elemAt f (c.xreg a + .ofNat 64 k * c.xreg b).toNat,
    fun v => writeVec d (loadTag f) (v.map fun e => (e.1, widen f e.2)))
  | .qldUn d a km => some (km, fun k => pairAt ((c.xreg a).toNat + 8 * k),
    fun v c => c.setPairs d (v.map fun e => (e.1, .ofNat 64 e.2)))
  | .qldSd d a b km => some (km, fun k => pairAt (c.xreg a + .ofNat 64 k * c.xreg b).toNat,
    fun v c => c.setPairs d (v.map fun e => (e.1, .ofNat 64 e.2)))
  | _ => none

/-- R252 to R254: mask, elements and codes of the unit and strided stores that the tag of d allows. -/
def storeStripForm (c : Core) : Instr → Option (Nat × (Nat → Elem) × (Nat → Nat))
  | .vstUn d a km f => if storeAccepts f (c.tag d) then
    some (km, fun k => elemOf f (c.xreg a).toNat k, fun k => narrow f (c.tag d) (c.elem d k)) else none
  | .vstSd d a b km f => if storeAccepts f (c.tag d) then some (km,
    fun k => elemAt f (c.xreg a + .ofNat 64 k * c.xreg b).toNat, fun k => narrow f (c.tag d) (c.elem d k)) else none
  | .vstQun d a km => some (km, fun k => pairAt ((c.xreg a).toNat + 8 * k), fun k => (c.pairBits d k).toNat)
  | .vstQsd d a b km => some (km, fun k => pairAt (c.xreg a + .ofNat 64 k * c.xreg b).toNat,
    fun k => (c.pairBits d k).toNat)
  | _ => none

/-- R257, R260: index register, mask, format and new code of element k of the indexed instructions that change memory,
whether the old code comes back into d, and whether they read it at all. -/
def indexedForm (c : Core) : Instr → Option (Nat × Nat × Nat × Nat × Fmt × (Nat → Nat → Nat) × Bool × Bool)
  | .vstX d a b km f => if storeAccepts f (c.tag d) then
    some (d, a, b, km, f, fun k _ => narrow f (c.tag d) (c.elem d k), false, false) else none
  | .vstXa d a b km f => if storeAccepts f (c.tag d) then
    some (d, a, b, km, f, fun k old => addCode f (c.tag d) old (c.elem d k), false, true) else none
  | .vamAdd d a b km => vam d a b km (fun _ x y => x + y) (some addF32)
  | .vamMin d a b km => vam d a b km (fun t x y => (intBin .min false t t t x y).1) (some (minMaxF32 false))
  | .vamMax d a b km => vam d a b km (fun t x y => (intBin .max false t t t x y).1) (some (minMaxF32 true))
  | .vamAnd d a b km => vam d a b km (fun _ x y => x &&& y) none
  | .vamOr d a b km => vam d a b km (fun _ x y => x ||| y) none
  | .vamXor d a b km => vam d a b km (fun _ x y => x ^^^ y) none
  | .vamSwap d a b km => vam d a b km (fun _ _ y => y) (some fun _ y => y)
  | _ => none
where
  vam (d a b km : Nat) (int : Tag → Half → Half → Half) (float : Option (Half → Half → Half)) :
      Option (Nat × Nat × Nat × Nat × Fmt × (Nat → Nat → Nat) × Bool × Bool) :=
    (if Tag.isInt (c.tag d) then some (int (c.tag d)) else if c.tag d = .fp32 then float else none).map fun f =>
      (d, a, b, km, .s32, fun k old => (f (.ofNat 32 old) (c.elem d k)).toNat, true, true)

/-- R163, R252: the address of element k of an indexed access. -/
def indexedElem (c : Core) (a b : Nat) (f : Fmt) (k : Nat) : Elem :=
  elemAt f ((c.xreg a).toNat + (c.elem b k).toNat * Fmt.bytes f)

/-- R166, R248: an indexed element checked; one that is read and written must lie off I/O pages. -/
def indexedCheck (w : Who) (k : Acc) (rmw : Bool) (elem : Nat → Elem) (s : State) (n : Nat) :
    State × Except Hit (Elem × Loc) := match s.checkElem w k (elem n) with
  | (t, .ok x) => if rmw && x.2.isIo then (t, .error ⟨.permission, x.1.addr⟩) else (t, .ok x)
  | r => r

/-- R166: the pages not present of an element that failed for one, or for its alignment. -/
def indexedPages (w : Who) (k : Acc) (elem : Nat → Elem) (s : State) (n : Nat) (h : Hit) : State × List Nat :=
  s.elemAbsent w k (elem n) h.cond

/-- R257, R260: an indexed element stored, or read and written with its old code as the result. -/
def indexedAct (w : Who) (rmw : Bool) (new : Nat → Nat → Nat) (s : State) (k : Nat) (x : Elem × Loc) :
    State × Except Hit Nat :=
  if rmw then s.modifyElem w x (new k) else match s.storeElem w x (new k 0) with
    | (t, .error h) => (t, .error h)
    | (t, .ok _) => (t, .ok 0)

/-- R246: the broadcast of an indexed access with an element in device memory, counted. -/
def broadcast (n : Nat) (l : List (Nat × Elem × Loc)) (s : State) : State :=
  if (l.any fun e => inDevice e.2) then s.countCluster (clusterOf n) 8 1 else s

/-- R167: a position of vld.sm performed: its stream element read, where it has one. -/
def streamRead (n : Nat) (s : State) (_ : Nat) (o : Option Ready) : State × Except Hit (Option (Nat × Nat)) :=
  match o with
  | none => (s, .ok none)
  | some r => match s.readStream (s.who n) r with
    | (t, .error h) => (t, .error h)
    | (t, .ok v) => (t, .ok (some v))

/-- Every located element lies in memory. -/
def inMemory (l : List (Nat × Elem × Loc)) : Prop := ∀ e ∈ l, ∃ runs io w, e.2.2 = .mem runs io w

/-- R27, R401: the floor of a strip of n elements that were all performed by an instruction that raises it; vfl, which is
written, holds no error any more. -/
def floored (c : Core) (raises : Bool) (n : Nat) : Core :=
  if raises = true ∧ c.strip.floor.toNat < n then
    { c with strip := { c.strip with floor := .ofNat 32 n } }.goodStrip [4] else c

/-- A key of memory lies in no run of the located elements. -/
def outside (l : List (Nat × Elem × Loc)) (q : Nat) : Prop :=
  ∀ e ∈ l, ∀ r ∈ e.2.2.runs, q < r.1 ∨ r.1 + r.2 ≤ q

end Sys2Proof.Claims

/-- R164, R209, R144, R27: a unit or strided load whose selected elements are all located in memory and readable puts
them, widened, into its destination; it raises the floor only where one lies on an I/O page; memory is left as the
translations left it. -/
def Obligations.VectorLoads : Prop :=
  ∀ (i : Instr) (s t u : State) (km : Nat) (elem : Nat → Elem) (write : List (Nat × Nat) → Core → Core)
    (l : List (Nat × Elem × Loc)) (vals : List (Nat × Nat)),
    loadStripForm s.core i = some (km, elem, write) → Clear i s → WholeStrip s →
    checks (s.core.mask km) (fun s' k => s'.checkElem (s.who s.cur) .read (elem k)) s.core.strip.len.toNat 0 s =
      (t, l, none) → inMemory l →
    performs (fun s' _ x => s'.p0Load s.cur (s.who s.cur) x) l t = (u, vals, none) →
    exec i s = .next (u.retires i (floored (write vals u.core) (anyIo l) s.core.strip.len.toNat)) ∧ u.mem = t.mem

namespace Sys2Proof.Claims

/-- R34, R149: where an instruction over n elements stops: the stop found, or a pending pre-emption's row where that is
lower. -/
def cutAt (c : Core) (n : Nat) (found : Option (Nat × Hit)) : Option (Nat × Hit) :=
  match c.preempt.bind fun p => p.bound with
  | some b => if b < (found.map fun f => f.1).getD n then some (b, ⟨.preempt, 0⟩) else found
  | none => found

/-- R24, R26, R114: what a stop for a cause at a moved position e above 0 leaves, with c1 the core that has performed the
elements below it and fq whether its record was written: not above the floor, a tail stop that the instruction resumes
from e, the replies before it written; above it, a strip of that length, with the floor raised to it where the
instruction raises the floor. -/
def stoppedAt (s u : State) (c1 : Core) (raises : Bool) (e cause : Nat) (fq : Bool) (tval : Nat) : Prop :=
  let c := s.core
  let fs : Half := .ofNat 32 (if fq then cause + 256 else cause)
  u.core.vec = c1.vec ∧
  if e ≤ c.strip.floor.toNat then
    u.core.x = c.writeReplies.x ∧ u.core.run = .stopped ∧ u.core.win.kind = .tail ∧ u.core.win.cause = cause ∧
    u.core.win.latch = true ∧ u.core.win.tval = .ofNat 64 tval ∧ u.core.win.prog = e ∧ u.core.pc = c.pc ∧
    u.core.modes = c1.modes ∧ u.core.strip = { c.strip with ff := .ofNat 32 e, fs := fs } ∧
    (u.core.resume.map fun r => r.start) = some e
  else
    u.core.x = c.x ∧ u.core.pc = c.pc + 4 ∧ u.core.modes = { c1.modes with stat := c1.modes.stat ||| 0x100 } ∧
    u.core.strip = { c.strip with
      len := .ofNat 32 e, ff := .ofNat 32 e, fs := fs, floor := if raises then .ofNat 32 e else c.strip.floor }

/-- R24: the outcome of a stop at a moved position above 0. -/
def outAt (s : State) (e : Nat) : StopOut := if e ≤ s.core.strip.floor.toNat then .tail else .short

/-- R166, R313: the value of a lead trap that a written batch record accompanies has bit 63. -/
def recordMark (written : Bool) : Nat := if written then 2 ^ 63 else 0

/-- R191: the record that stream a's consumer posts with a stop at element j for its page. -/
def streamRecord (s : State) (a : Nat) (st : Stream) (h : Hit) (j : Nat) (out : StopOut) : State × Bool :=
  if h.cond = .notPresent then s.postStream s.cur a st (st.pos + j) out h.cond.code j else (s, false)

/-- R156, R158, R174: what a permutation writes below a cut e of its n elements. -/
def permutedBelow (c : Core) (n e : Nat) (i : Instr) : Option (Nat × Tag × List (Nat × Half)) :=
  match i with
  | .vComp _ _ _ => permuted c e i
  | i => (permuted c n i).map fun r => (r.1, r.2.1, r.2.2.filter fun x => x.1 < e)

end Sys2Proof.Claims

/-- R149, R86, R24, R32: an element-wise vector instruction whose lowest element that would set a flag of the stop mask
is j, no pre-emption's row lying below, stops at j moved down, with cause 4 and the flags as the value: at 0 a lead trap,
nothing written, else as R24 gives, the elements below written. -/
def Sys2Proof.Claims.FlagsStopElements : Prop :=
  ∀ (i : Instr) (s : State) (d : Nat) (t : Tag) (sel : Nat → Bool) (f : Nat → Half × Flags) (j : Nat),
    vectorResult s.core i = some (d, t, sel, f) → Clear i s →
    (∀ b, (s.core.preempt.bind fun p => p.bound) = some b → j ≤ b) →
    (s.clusterAt (clusterOf s.cur)).badSlots = [] → j < s.core.strip.len.toNat → sel j = true →
    (f j).2 &&& s.core.stopMask ≠ 0 → (∀ k < j, sel k = true → (f k).2 &&& s.core.stopMask = 0) →
    let e := s.core.moved j
    let ks := (List.range e).filter sel
    let c1 := (writeVec d t (ks.map fun k => (k, (f k).1)) s.core).raise (ks.foldl (fun fl k => fl ||| (f k).2) 0)
    (e = 0 → exec i s = .next (s.trapped 4 (f j).2.toNat)) ∧
    (e ≠ 0 → ∃ u, exec i s = .next u ∧ stoppedAt s u c1 false e 4 false (f j).2.toNat)

/-- R34, R32: a pending pre-emption's row b below the length cuts element-wise forms, permutations and k instructions with
cause 6. -/
def Sys2Proof.Claims.PreemptsCut : Prop :=
  ∀ (i : Instr) (s : State) (b : Nat), Clear i s → (s.clusterAt (clusterOf s.cur)).badSlots = [] →
    (s.core.preempt.bind fun p => p.bound) = some b → b < s.core.strip.len.toNat →
    let e := s.core.moved b
    let n := s.core.strip.len.toNat
    let stops (c1 : Core) : Prop := (e = 0 → exec i s = .next (s.trapped 6 0)) ∧
      (e ≠ 0 → ∃ u, exec i s = .next u ∧ stoppedAt s u c1 false e 6 false 0)
    (∀ d t sel f, vectorResult s.core i = some (d, t, sel, f) →
      (∀ k ≤ b, sel k = true → (f k).2 &&& s.core.stopMask = 0) →
      let ks := (List.range e).filter sel
      stops ((writeVec d t (ks.map fun k => (k, (f k).1)) s.core).raise (ks.foldl (fun fl k => fl ||| (f k).2) 0))) ∧
    (∀ d t l, permutedBelow s.core n e i = some (d, t, l) → stops (writeVec d t l s.core)) ∧
    (∀ d bit, maskBits s.core n i = some (d, bit) → stops (s.core.setMasks d ((List.range e).map fun k => (k, bit k))))

/-- R164, R23, R24, R131: a unit or strided load stops at the lowest element j that meets a condition which ends no launch,
or at the cut, moved down: a lead trap at 0, else as R24 gives, the elements below loaded. -/
def Sys2Proof.Claims.ConditionsStopLoads : Prop :=
  ∀ (i : Instr) (s t : State) (km : Nat) (elem : Nat → Elem) (write : List (Nat × Nat) → Core → Core)
    (l : List (Nat × Elem × Loc)) (found : Option (Nat × Hit)) (j : Nat) (h : Hit),
    loadStripForm s.core i = some (km, elem, write) → Clear i s → (s.clusterAt (clusterOf s.cur)).badSlots = [] →
    checks (s.core.mask km) (fun s' k => s'.checkElem (s.who s.cur) .read (elem k)) s.core.strip.len.toNat 0 s =
      (t, l, found) → cutAt s.core s.core.strip.len.toNat found = some (j, h) → t.fate s.cur h.cond = .stop h.cond →
    let e := s.core.moved j
    let low := l.filter fun x => x.1 < e
    (e = 0 → exec i s = .next (t.trapped h.cond.code h.tval)) ∧
    (∀ u vals, e ≠ 0 → inMemory low → performs (fun s' _ x => s'.p0Load s.cur (s.who s.cur) x) low t = (u, vals, none) →
      ∃ v, exec i s = .next v ∧
        stoppedAt s v (write vals u.core) (anyIo low) e h.cond.code false h.tval)

/-- R253, R24, R27: so does a unit or strided store: the elements below are stored, no other byte changes, and the floor
rises to the stop. -/
def Sys2Proof.Claims.ConditionsStopStores : Prop :=
  ∀ (i : Instr) (s t : State) (km : Nat) (elem : Nat → Elem) (code : Nat → Nat)
    (l : List (Nat × Elem × Loc)) (found : Option (Nat × Hit)) (j : Nat) (h : Hit),
    storeStripForm s.core i = some (km, elem, code) → Clear i s → (s.clusterAt (clusterOf s.cur)).badSlots = [] →
    checks (s.core.mask km) (fun s' k => s'.checkElem (s.who s.cur) .write (elem k)) s.core.strip.len.toNat 0 s =
      (t, l, found) → cutAt s.core s.core.strip.len.toNat found = some (j, h) → t.fate s.cur h.cond = .stop h.cond →
    let e := s.core.moved j
    let low := l.filter fun x => x.1 < e
    (e = 0 → exec i s = .next (t.trapped h.cond.code h.tval)) ∧
    (∀ u vals, e ≠ 0 → inMemory low →
      performs (fun s' k x => s'.p0Store s.cur (s.who s.cur) x (code k)) low (t.windowRepair low) = (u, vals, none) →
      (∀ q, outside low q → u.byteAt q = t.byteAt q) ∧
      ∃ v, exec i s = .next v ∧ stoppedAt s v u.core true e h.cond.code false h.tval ∧
        (s.core.strip.floor.toNat < e → v.mem = u.mem))

/-- R166, R256, R24: a gather stops so at its lowest failing element; its batch record goes with the stop, and FQ, or bit
63 of a lead trap's value, says that it was written. -/
def Sys2Proof.Claims.ConditionsStopGathers : Prop :=
  ∀ (s s0 t : State) (d a b km : Nat) (f : Fmt) (l : List (Nat × Elem × Loc)) (found : Option (Nat × Hit))
    (miss : List (Nat × Nat)) (j : Nat) (h : Hit),
    let i := Instr.vldX d a b km f
    let n := s.core.strip.len.toNat
    let w := s.who s.cur
    let elem := indexedElem s.core a b f
    Clear i s → (s.clusterAt (clusterOf s.cur)).badSlots = [] → Tag.isIndex (s.core.tag b) = true →
    s.budgeted s.cur 4 1 = some s0 →
    checksAll (s.core.mask km) (indexedCheck w .read false elem) (indexedPages w .read elem) n 0 s0 =
      (t, l, found, miss) → cutAt s.core n found = some (j, h) → t.fate s.cur h.cond = .stop h.cond →
    let e := s.core.moved j
    let low := l.filter fun x => x.1 < e
    let first := (found.map fun x => x.1).getD e
    (e = 0 → let r := t.postBatch s.cur 1 n .lead h.cond.code first miss
      exec i s = .next (r.1.trapped h.cond.code (h.tval ||| recordMark r.2))) ∧
    (∀ u vals, e ≠ 0 → inMemory low → performs (fun s' _ x => s'.loadElem w x) low (broadcast s.cur low t) =
        (u, vals, none) →
      ∃ v, exec i s = .next v ∧ stoppedAt s v
        (writeVec d (loadTag f) (vals.map fun e => (e.1, widen f e.2)) u.core) (anyIo low) e h.cond.code
        (u.postBatch s.cur 1 n (outAt s e) h.cond.code first miss).2 h.tval)

/-- R256, R257, R260: so do scatters, scatter-adds and vector atomics, which raise the floor. -/
def Sys2Proof.Claims.ConditionsStopScatters : Prop :=
  ∀ (i : Instr) (s s0 t : State) (d a b km : Nat) (f : Fmt) (new : Nat → Nat → Nat) (back rmw : Bool)
    (l : List (Nat × Elem × Loc)) (found : Option (Nat × Hit)) (miss : List (Nat × Nat)) (j : Nat) (h : Hit),
    let n := s.core.strip.len.toNat
    let w := s.who s.cur
    let elem := indexedElem s.core a b f
    indexedForm s.core i = some (d, a, b, km, f, new, back, rmw) → Clear i s →
    (s.clusterAt (clusterOf s.cur)).badSlots = [] → Tag.isIndex (s.core.tag b) = true →
    s.budgeted s.cur 4 1 = some s0 →
    checksAll (s.core.mask km) (indexedCheck w .write rmw elem) (indexedPages w .write elem) n 0 s0 =
      (t, l, found, miss) → cutAt s.core n found = some (j, h) → t.fate s.cur h.cond = .stop h.cond →
    let e := s.core.moved j
    let low := l.filter fun x => x.1 < e
    let first := (found.map fun x => x.1).getD e
    (e = 0 → let r := t.postBatch s.cur 2 n .lead h.cond.code first miss
      exec i s = .next (r.1.trapped h.cond.code (h.tval ||| recordMark r.2))) ∧
    (∀ u olds, e ≠ 0 → inMemory low → performs (indexedAct w rmw new) low
        (if rmw then broadcast s.cur low t else (broadcast s.cur low t).windowRepair low) = (u, olds, none) →
      (∀ q, outside low q → u.byteAt q = t.byteAt q) ∧
      ∃ v, exec i s = .next v ∧ stoppedAt s v
        (if back then u.core.setElems d (olds.map fun e => (e.1, .ofNat 32 e.2)) else u.core) true e h.cond.code
        (u.postBatch s.cur 2 n (outAt s e) h.cond.code first miss).2 h.tval)

/-- R166, R313: in a demand domain with a page missing the record is of the kind and core, with the outcome, cause, lowest
failing element, pc and length, and the elements and pages missing, each in ascending order once; else there is none. -/
def Sys2Proof.Claims.BatchRecords : Prop :=
  ∀ (s : State) (core kind n : Nat) (out : StopOut) (cause j : Nat) (miss : List (Nat × Nat)),
    let c := s.coreAt core
    (miss = [] ∨ s.demand core = false → s.postBatch core kind n out cause j miss = (s, false)) ∧
    (miss ≠ [] → s.demand core = true → ∃ es ps : List Nat,
      s.postBatch core kind n out cause j miss = s.postFault ⟨kind, cause, (match out with
        | .short => 1
        | .lead => 2
        | .tail => 3), core, c.ident.asid.toNat, c.ident.regid.toNat, j, c.pc, n, es, ps⟩ ∧
      List.Pairwise (· < ·) es ∧ List.Pairwise (· < ·) ps ∧
      (∀ k, k ∈ es ↔ ∃ p, (k, p) ∈ miss) ∧ (∀ p, p ∈ ps ↔ ∃ k, (k, p) ∈ miss))

/-- R167, R191, R255, R24: vld.sm and vst.sm stop at the first position their stream cannot deliver, or the cut; the
stream moves to the stop. -/
def Sys2Proof.Claims.ConditionsStopStreams : Prop :=
  ∀ (d a km j : Nat) (s : State) (h : Hit),
    let c := s.core
    let st := c.stream a
    let n := c.strip.len.toNat
    let loc := s.consume s.cur a km st (s.takes s.cur a 0 d)
    let e := c.moved j
    let low := loc.elems.filter fun x => x.1 < e
    let stops (i : Instr) (raises : Bool) (u : State) (c1 : Core) : Prop :=
      ∃ v, exec i s = .next v ∧ (v.core.stream a).pos = st.pos + e ∧
        stoppedAt s v c1 raises e h.cond.code (streamRecord u a st h j (outAt s e)).2 h.tval
    let leads (i : Instr) : Prop := e = 0 → exec i s =
      .next ((streamRecord loc.s a st h j .lead).1.trapped h.cond.code h.tval)
    (s.clusterAt (clusterOf s.cur)).badSlots = [] → cutAt c n loc.found = some (j, h) →
    loc.s.fate s.cur h.cond = .stop h.cond →
    (Clear (.vldSm d a km) s → st.state = .read → leads (.vldSm d a km) ∧
      ∀ u vals, e ≠ 0 → (∀ x ∈ low, ∀ r, x.2 = some r → ∃ runs io w, r.loc = .mem runs io w) →
        performs (streamRead s.cur) low loc.s = (u, vals, none) →
        stops (.vldSm d a km) (anyIoReady low) u (writeVec d (loadTag st.desc.fmt)
          (vals.filterMap fun e => e.2.map fun x => (e.1, st.desc.slot x)) u.core)) ∧
    (Clear (.vstSm d a km) s → st.state = .write → storeAccepts st.desc.fmt (c.tag d) = true → leads (.vstSm d a km) ∧
      ∀ u vals, e ≠ 0 → (∀ x ∈ low, ∀ r, x.2 = some r → (∃ runs io w, r.loc = .mem runs io w) ∧
          ∀ sl, r.scale = some sl → ∃ runs io w, sl = .mem runs io w) →
        writeRun (s.who s.cur) st.desc (fun k => slotVal (c.tag d) (c.elem d k))
          (fun k => narrow st.desc.fmt (c.tag d) (c.elem d k)) low loc.s = (u, vals, none) →
        stops (.vstSm d a km) true u u.core)

/-- R32, R106: a reduction stops at the start of the row that holds the offending element, or at the cut, with the rows
below combined. -/
def Sys2Proof.Claims.ReductionsStop : Prop :=
  ∀ (i : Instr) (s : State) (op : RedOp) (d a km j : Nat) (t : Tag) (h : Hit), reduction i = some (op, d, a, km) →
    Clear i s → (s.clusterAt (clusterOf s.cur)).badSlots = [] → redTag op (s.core.tag a) = some t → s.core.tag d = t →
    let c := s.core
    let n := c.strip.len.toNat
    let rows := (min n ((c.preempt.bind fun p => p.bound).getD n) + 31) / 32
    let r := c.reduce (c.tag a) (redOp op c.ftz c.vrm t) a km n rows 0 (c.elem d 0) 0
    cutAt c n r.2.2 = some (j, h) →
    let e := c.moved j
    (∀ m x, r.2.2 = some (m, x) → m % 32 = 0) ∧
    (e = 0 → exec i s = .next (s.trapped h.cond.code h.tval)) ∧
    (e ≠ 0 → ∃ u, exec i s = .next u ∧
      stoppedAt s u (((c.setElem d 0 r.1).setTag d t).raise r.2.1) false e h.cond.code false h.tval)

/-- R16: a vector instruction in a strip of length 0, legal on its core, retires and changes no register, memory or
flag. -/
def Sys2Proof.Claims.EmptyStripsRetire : Prop :=
  ∀ (i : Instr) (s : State), reachesLanes (firstWord i) = true → s.core.strip.len = 0 → s.serviceHeld s.cur = false →
    s.core.resume = none → s.decodeCause s.cur i = none → s.core.rider = none →
    exec i s = .next (s.retires i s.core)

/-- R221: m.op and m.opc in a K-strip of length 0 retire and consume nothing. -/
def Sys2Proof.Claims.EmptyKStripsRetire : Prop :=
  ∀ (d a b pp : Nat) (s : State), s.core.strip.len = 0 →
    (Clear (.mOp d a b pp) s → exec (.mOp d a b pp) s = .next (s.retires (.mOp d a b pp) s.core)) ∧
    (Clear (.mOpc d a b pp) s → exec (.mOpc d a b pp) s = .next (s.retires (.mOpc d a b pp) s.core))

/-- Where the vector instructions of a strip stop (Regrants has the cut of a re-grant, ProductsShorten the shortening by
K): the claims FlagsStopElements, PreemptsCut, ConditionsStopLoads, ConditionsStopStores, ConditionsStopGathers,
ConditionsStopScatters, BatchRecords, ConditionsStopStreams, ReductionsStop, EmptyStripsRetire, EmptyKStripsRetire. -/
def Obligations.StopsAndEmptyStrips : Prop :=
  Sys2Proof.Claims.FlagsStopElements ∧ Sys2Proof.Claims.PreemptsCut ∧ Sys2Proof.Claims.ConditionsStopLoads ∧
  Sys2Proof.Claims.ConditionsStopStores ∧ Sys2Proof.Claims.ConditionsStopGathers ∧
  Sys2Proof.Claims.ConditionsStopScatters ∧ Sys2Proof.Claims.BatchRecords ∧ Sys2Proof.Claims.ConditionsStopStreams ∧
  Sys2Proof.Claims.ReductionsStop ∧ Sys2Proof.Claims.EmptyStripsRetire ∧ Sys2Proof.Claims.EmptyKStripsRetire

/-- R253, R254, R252, R270, R27: a unit or strided store whose tag its format allows and whose selected elements are all
located in memory and writable writes them in ascending order, raises the floor to the length, and leaves every byte of
memory outside those elements as the translations left it and every register as it was; the lines it wrote leave the
core's own L1D. -/
def Obligations.VectorStores : Prop :=
  ∀ (i : Instr) (s t u : State) (km : Nat) (elem : Nat → Elem) (code : Nat → Nat)
    (l : List (Nat × Elem × Loc)) (vals : List (Nat × Unit)),
    storeStripForm s.core i = some (km, elem, code) → Clear i s → WholeStrip s →
    checks (s.core.mask km) (fun s' k => s'.checkElem (s.who s.cur) .write (elem k)) s.core.strip.len.toNat 0 s =
      (t, l, none) → inMemory l →
    performs (fun s' k x => s'.p0Store s.cur (s.who s.cur) x (code k)) l (t.windowRepair l) = (u, vals, none) →
    exec i s = .next (u.retires i (floored u.core true s.core.strip.len.toNat)) ∧
    { u.core with l1d := [] } = { s.core with l1d := [] } ∧ (∀ q, outside l q → u.byteAt q = t.byteAt q) ∧
    (∀ e ∈ l, ∀ r ∈ e.2.2.runs, ∀ x ∈ u.core.l1d, r.1 + r.2 ≤ x.key * 64 ∨ x.key * 64 + 64 ≤ r.1)

/-- R166, R163, R144: a gather whose tags are allowed, that its region's budget lets run, and whose selected elements
are all located in memory and readable puts them, widened, into its destination. -/
def Sys2Proof.Claims.Gathers : Prop :=
  ∀ (s s0 t u : State) (d a b km : Nat) (f : Fmt) (l : List (Nat × Elem × Loc)) (vals : List (Nat × Nat)),
    let i := Instr.vldX d a b km f
    let n := s.core.strip.len.toNat
    Clear i s → WholeStrip s → Tag.isIndex (s.core.tag b) = true → s.budgeted s.cur 4 1 = some s0 →
    let w := s.who s.cur
    let elem := indexedElem s.core a b f
    checksAll (s.core.mask km) (indexedCheck w .read false elem) (indexedPages w .read elem) n 0 s0 =
      (t, l, none, []) → inMemory l →
    performs (fun s' _ x => s'.loadElem w x) l (broadcast s.cur l t) = (u, vals, none) →
    exec i s = .next (u.retires i (floored (writeVec d (loadTag f) (vals.map fun e => (e.1, widen f e.2)) u.core)
      (anyIo l) n))

/-- R256, R257, R260, R27, R248: a scatter, a scatter-add or a vector atomic whose tags are allowed, that its region's
budget lets run, and whose selected elements are all located in memory, off I/O pages for the last two, performs them
in ascending order and raises the floor; a vector atomic puts the old codes into d; every byte outside those elements
stays. -/
def Sys2Proof.Claims.ScattersAndVectorAtomics : Prop :=
  ∀ (i : Instr) (s s0 t u : State) (d a b km : Nat) (f : Fmt) (new : Nat → Nat → Nat) (back rmw : Bool)
    (l : List (Nat × Elem × Loc)) (olds : List (Nat × Nat)),
    let n := s.core.strip.len.toNat
    let w := s.who s.cur
    indexedForm s.core i = some (d, a, b, km, f, new, back, rmw) → Clear i s → WholeStrip s →
    Tag.isIndex (s.core.tag b) = true → s.budgeted s.cur 4 1 = some s0 →
    let elem := indexedElem s.core a b f
    checksAll (s.core.mask km) (indexedCheck w .write rmw elem) (indexedPages w .write elem) n 0 s0 =
      (t, l, none, []) → inMemory l →
    performs (indexedAct w rmw new) l
      (if rmw then broadcast s.cur l t else (broadcast s.cur l t).windowRepair l) = (u, olds, none) →
    exec i s = .next (u.retires i (floored (if back then u.core.setElems d (olds.map fun e => (e.1, .ofNat 32 e.2))
      else u.core) true n)) ∧
    (∀ q, outside l q → u.byteAt q = t.byteAt q)

/-- Gathers, scatters and vector atomics: the claims Gathers, ScattersAndVectorAtomics. -/
def Obligations.IndexedAccesses : Prop :=
  Sys2Proof.Claims.Gathers ∧ Sys2Proof.Claims.ScattersAndVectorAtomics

/-- R184, R185, R316: s.rel unbinds a stream, which then holds no translation, s.skip moves a bound one on by x[a] but not past its end, s.pos answers its
position. -/
def Sys2Proof.Claims.StreamPositions : Prop :=
  ∀ (d a : Nat) (s : State),
    (Clear (.sRel d) s →
      let others := s.tlb.filter fun t => !decide (t.holder = 20000 + 16 * s.cur + d)
      exec (.sRel d) s = .next (State.retires { s with tlb := others } (.sRel d) (s.core.setStream d
        { s.core.stream d with state := .unbound, pos := 0, noticed := [], ahead := [] }))) ∧
    (Clear (.sSkip d a) s → (s.core.stream d).state ≠ .unbound →
      ∃ t, exec (.sSkip d a) s = .next t ∧ t.core.x = s.core.x ∧ t.core.pc = s.core.pc + 4 ∧ t.mem = s.mem ∧
        (t.core.stream d).pos = min ((s.core.stream d).pos + (s.x a).toNat) (s.core.stream d).desc.length ∧
        (∀ k, k ≠ d → t.core.stream k = s.core.stream k)) ∧
    (Clear (.sPos d a) s → exec (.sPos d a) s =
      .next (s.retires (.sPos d a) (s.core.setX d (.ofNat 64 (s.core.stream a).pos))))

/-- R182, R179: s.bind of an aligned descriptor that is legal and not masked binds the stream at position 0, for reading
or writing as the descriptor says. -/
def Sys2Proof.Claims.StreamBind : Prop :=
  ∀ (d a : Nat) (s t : State) (b : List Byte), Clear (.sBind d a) s → (s.x a).toNat % 64 = 0 →
    s.loadBlock s.cur (s.x a).toNat 8 = (t, .ok b) → bindCause (t.masked s.cur) b = .inl none →
    ∃ u, exec (.sBind d a) s = .next u ∧ u.core.x = s.core.x ∧ u.core.pc = s.core.pc + 4 ∧ u.mem = t.mem ∧
      (u.core.stream d).state = (if bitOf (natIn b 16 4) 4 then .write else .read) ∧
      (u.core.stream d).desc = descOf b ∧ (u.core.stream d).pos = 0 ∧ (u.core.stream d).addr = s.x a

/-- R186, R181, R60: an s.skip of an unbound stream, a vld.sm of one not bound for reading and a vst.sm of one not bound
for writing are illegal: a lead trap with cause 10 and the word as its value; a vst.sm of a register whose tag the
stream's format does not take is one with cause tag (9). -/
def Sys2Proof.Claims.UnboundStreamsTrap : Prop :=
  ∀ (d a km : Nat) (s : State),
    (Clear (.sSkip d a) s → (s.core.stream d).state = .unbound →
      exec (.sSkip d a) s = .next (s.trapped 10 (firstWord (.sSkip d a)))) ∧
    (Clear (.vldSm d a km) s → (s.core.stream a).state ≠ .read →
      exec (.vldSm d a km) s = .next (s.trapped 10 (firstWord (.vldSm d a km)))) ∧
    (Clear (.vstSm d a km) s → (s.core.stream a).state ≠ .write →
      exec (.vstSm d a km) s = .next (s.trapped 10 (firstWord (.vstSm d a km)))) ∧
    (Clear (.vstSm d a km) s → (s.core.stream a).state = .write →
      storeAccepts (s.core.stream a).desc.fmt (s.core.tag d) = false →
      exec (.vstSm d a km) s = .next (s.trapped 9 (firstWord (.vstSm d a km))))

/-- Operand tags and stream bindings that an instruction does not take: the claims TagTraps, UnboundStreamsTrap. -/
def Obligations.TagAndStreamTraps : Prop :=
  Sys2Proof.Claims.TagTraps ∧ Sys2Proof.Claims.UnboundStreamsTrap

/-- R167, R187: vld.sm over a strip whose elements the stream has, in memory and readable, puts the selected ones into
d and moves the stream on by the length. -/
def Sys2Proof.Claims.StreamLoads : Prop :=
  ∀ (d a km : Nat) (s u : State) (vals : List (Nat × Option (Nat × Nat))),
    let i := Instr.vldSm d a km
    let c := s.core
    let st := c.stream a
    let n := c.strip.len.toNat
    let loc := s.consume s.cur a km st (s.takes s.cur a 0 d)
    Clear i s → WholeStrip s → st.state = .read → loc.found = none →
    performs (streamRead s.cur) loc.elems loc.s = (u, vals, none) →
    (∀ e ∈ loc.elems, ∀ r, e.2 = some r → ∃ runs io w, r.loc = .mem runs io w) →
    ∃ v, exec i s = .next v ∧ v.core.pc = c.pc + 4 ∧ v.core.x = c.x ∧
      v.core.vec = (writeVec d (loadTag st.desc.fmt)
        (vals.filterMap fun e => e.2.map fun x => (e.1, st.desc.slot x)) u.core).vec ∧
      (v.core.stream a).pos = st.pos + n

/-- R255, R418, R187, R268: vst.sm over a strip the stream has room for, in memory and writable, writes the selected
elements of d and moves the stream on by the length; no register but the strip's floor changes; what streams of related
classes have read ahead is read again. -/
def Sys2Proof.Claims.StreamStores : Prop :=
  ∀ (d a km : Nat) (s u : State) (vals : List (Nat × Unit)),
    let i := Instr.vstSm d a km
    let c := s.core
    let st := c.stream a
    let n := c.strip.len.toNat
    let loc := s.consume s.cur a km st (s.takes s.cur a 0 d)
    Clear i s → WholeStrip s → st.state = .write → storeAccepts st.desc.fmt (c.tag d) = true → loc.found = none →
    writeRun (s.who s.cur) st.desc (fun k => slotVal (c.tag d) (c.elem d k))
      (fun k => narrow st.desc.fmt (c.tag d) (c.elem d k)) loc.elems loc.s = (u, vals, none) →
    (∀ e ∈ loc.elems, ∀ r, e.2 = some r → (∃ runs io w, r.loc = .mem runs io w) ∧
      ∀ sl, r.scale = some sl → ∃ runs io w, sl = .mem runs io w) →
    ∃ v, exec i s = .next v ∧ v.core.pc = c.pc + 4 ∧ v.core.x = c.x ∧ v.core.vec = c.vec ∧ v.mem = u.mem ∧
      (v.core.stream a).pos = st.pos + n ∧
      ∀ e ∈ v.core.streams, (e.2.desc.cls = st.desc.cls ∨ e.2.desc.cls = 0 ∨ st.desc.cls = 0) → e.2.ahead = []

/-- Vld.sm and vst.sm: the claims StreamLoads, StreamStores. -/
def Obligations.StreamTransfers : Prop :=
  Sys2Proof.Claims.StreamLoads ∧ Sys2Proof.Claims.StreamStores

/-! ## Tiles and engine commands -/

namespace Sys2Proof.Claims

/-- R215: k-steps per cycle of a matrix format code. -/
def tileRate (code : Nat) : Nat := [1, 2, 2, 2, 4, 2, 4, 6].getD code 0

/-- R215, R216: a configuration word with no reserved bit, no illegal format and equal rates of A and B. -/
def goodCfg (v : Nat) : Bool :=
  let a := v / 2 ^ 16 % 16
  let b := v / 2 ^ 20 % 16
  let c := v / 2 ^ 24 % 16
  decide (v < 2 ^ 28) && decide (v / 2 ^ 6 % 4 = 0) && decide (v / 2 ^ 14 % 4 = 0) &&
  decide (a < 8) && decide (b < 8) && decide (c < 5) && decide (tileRate a = tileRate b)

/-- R218, R105: the value of the accumulator element of row r and column c after at most n K-groups of eight k-steps. -/
def grouped (r c : Nat) : Nat → List KStep → Half → Half
  | 0, _, v => v
  | _, [], v => v
  | n + 1, k :: ks, v => grouped r c n ((k :: ks).drop 8) (groupElem v (((k :: ks).take 8).map fun x =>
      (x.a.getD r (.fin false 0 0), x.b.getD c (.fin false 0 0)))).1

/-- R218: the accumulator elements that an instruction of predicate field pp updates. -/
def tileCells (c : Core) (w pp : Nat) : Cells :=
  cellsAt (selected pp (c.xreg (2 * pp)) (cfgRows w)) (selected pp (c.xreg (2 * pp + 1)) (cfgCols w))

/-- The k-steps that stream elements give, or whose A column is given by f. -/
def stepRead (w : Who) (fs : List Feed) (f : Option (Nat → List Val)) (s : State) (k : Nat) (x : List (List Ready)) :
    State × Except Hit KStep :=
  match readFeeds w fs x s with
  | (s, .error h) => (s, .error h)
  | (s, .ok vs) => match f with
    | some a => (s, .ok (KStep.mk (a k) (vs.headD [])))
    | none => (s, .ok (KStep.mk (vs.headD []) (vs.getD 1 [])))

/-- R220: the column that m.opc takes at k-step k of accumulator a. -/
def chained (s : State) (a k : Nat) : List Val :=
  (List.range (cfgRows s.tile.cfg.toNat)).map fun r => chainVal (match matFmt (cfgC s.tile.cfg.toNat) with
    | some m => m.fmt
    | none => .bf16) (s.tile.accAt a r ((s.core.strip.kpos.toNat + k) % 64))

/-- R218, R220: accumulator, predicate field, feeds, A columns and rate of the dense products whose streams and formats
are allowed. -/
def denseForm (s : State) : Instr → Option (Nat × Nat × List Feed × Option (Nat → List Val) × Nat)
  | .mOp d a b pp =>
    let w := s.tile.cfg.toNat
    if (s.core.stream a).feeds (matFmt (cfgA w)) && (s.core.stream b).feeds (matFmt (cfgB w)) then
      some (d, pp, [⟨a, s.core.stream a, cfgRows w⟩, ⟨b, s.core.stream b, cfgCols w⟩], none, tileRate (cfgB w)) else none
  | .mOpc d a b pp =>
    let w := s.tile.cfg.toNat
    if a ≠ d ∧ cfgC w < 5 ∧ tileRate (cfgC w) = tileRate (cfgB w) ∧
        (s.core.stream b).feeds (matFmt (cfgB w)) = true then
      some (d, pp, [⟨b, s.core.stream b, cfgCols w⟩], some (chained s a), tileRate (cfgC w)) else none
  | _ => none

end Sys2Proof.Claims

/-- R216, R215: m.cfg of a word with a legal layout, with no feature masked, makes it the cluster's configuration; of any
other word it is illegal. -/
def Sys2Proof.Claims.TileConfiguration : Prop :=
  ∀ (a : Nat) (s : State), Clear (.mCfg a) s → (∀ f, s.masked s.cur f = false) →
    (goodCfg (s.x a).toNat = true → exec (.mCfg a) s = .next ((s.setClusterAt (clusterOf s.cur)
      { s.tile with cfg := (s.x a).setWidth 32 }).retires (.mCfg a) s.core)) ∧
    (goodCfg (s.x a).toNat = false → exec (.mCfg a) s = .next (s.trapped 10 (firstWord (.mCfg a))))

/-- R222, R214: m.zero makes every element of its accumulator +0 and leaves the others; the floor rises to the length.
-/
def Sys2Proof.Claims.TileZero : Prop :=
  ∀ (d : Nat) (s : State), Clear (.mZero d) s → d < 8 →
    ∃ t, exec (.mZero d) s = .next t ∧ t.core.x = s.core.x ∧ t.core.pc = s.core.pc + 4 ∧ t.mem = s.mem ∧
      t.core.strip = (floored s.core true s.core.strip.len.toNat).strip ∧
      (∀ a r c, r < 64 → c < 64 → t.tile.accAt a r c = if a = d then 0 else s.tile.accAt a r c)

/-- R234, R232, R229, R230: m.inv drops the pattern-cache entries its range overlaps and no other; m.prep of an address
that is no multiple of 64 does nothing, of another it looks the tile up; each retires. -/
def Sys2Proof.Claims.TilePatterns : Prop :=
  ∀ (a b : Nat) (s : State),
    (Clear (.mInv a b) s →
      let lo := (s.x a).toNat
      let n := min (s.x b).toNat (2 ^ 64 - lo)
      ∃ t, exec (.mInv a b) s = .next t ∧ t.core.x = s.core.x ∧ t.core.pc = s.core.pc + 4 ∧ t.mem = s.mem ∧
        t.tile.acc = s.tile.acc ∧
        t.tile.patterns = s.tile.patterns.filter fun p => !decide (n ≠ 0 ∧ lo < p.addr + p.size ∧ p.addr < lo + n)) ∧
    (Clear (.mPrep a) s → (s.x a).toNat % 64 ≠ 0 → exec (.mPrep a) s = .next (s.retires (.mPrep a) s.core)) ∧
    (Clear (.mPrep a) s → (s.x a).toNat % 64 = 0 → ∀ t f, s.lookup s.cur (s.x a).toNat = (t, f) →
      exec (.mPrep a) s = .next (t.retires (.mPrep a) t.core))

/-- R218, R105: K-groups update each selected element of the accumulator by one exact sum a group, and no other. -/
def Sys2Proof.Claims.TileGroups : Prop :=
  ∀ (d n : Nat) (cells : Cells) (ks : List KStep) (cl : Cluster) (fl : Flags), cells.Nodup →
    (∀ e ∈ cells, e.1 < 64 ∧ e.2 < 64) → ∀ a r c, r < 64 → c < 64 →
      (updateGroups d cells n ks (cl, fl)).1.accAt a r c =
        if a = d ∧ (r, c) ∈ cells then grouped r c n ks (cl.accAt a r c) else cl.accAt a r c

/-- R218, R220, R221: m.op and m.opc over a strip of n k-steps whose stream elements are there and readable, that their
region's budget lets run, update the selected elements by those k-steps in K-groups, move their streams on and raise
the floor. -/
def Sys2Proof.Claims.DenseProducts : Prop :=
  ∀ (i : Instr) (s s1 t u : State) (d pp rate : Nat) (fs : List Feed) (f : Option (Nat → List Val))
    (l : List (Nat × List (List Ready))) (vals : List (Nat × KStep)),
    let n := s.core.strip.len.toNat
    denseForm s i = some (d, pp, fs, f, rate) → Clear i s → n ≠ 0 → s.core.preempt = none →
    s.tile.badAcc = [] → s.tile.softAcc = [] →
    s.budgeted s.cur 0 ((n + rate - 1) / rate) = some s1 → checkSteps (s1.who s.cur) 0 fs n 0 s1 = (t, l, none) →
    performs (stepRead (s1.who s.cur) fs f) l t = (u, vals, none) →
    let v := ((u.stepsRead s.cur n fs l).accumulate s.cur d (tileCells s.core s.tile.cfg.toNat pp)
      (vals.map fun e => e.2) fs).matBusy s.cur ((n + rate - 1) / rate) n
    exec i s = .next (v.retires i (floored v.core true n))

/-- R33, R35, R218: on a K-strip of granule 8 m.op and m.opc stop at a multiple of 8 k-steps: at the first k-step whose
elements meet a condition, or a pending pre-emption's K-group, moved down: a lead trap at 0, else as R24 gives of the
K-strip, with the K-groups below accumulated and no part of another. -/
def Sys2Proof.Claims.ProductsShorten : Prop :=
  ∀ (i : Instr) (s s1 t : State) (d pp rate j : Nat) (fs : List Feed) (f : Option (Nat → List Val))
    (l : List (Nat × List (List Ready))) (found : Option (Nat × FeedHit)) (h : Hit),
    let n := s.core.strip.len.toNat
    denseForm s i = some (d, pp, fs, f, rate) → Clear i s → n ≠ 0 → s.core.strip.gran = 8 → s.core.ident.hidx = 8 →
    s.tile.badAcc = [] → s.tile.softAcc = [] →
    s.budgeted s.cur 0 ((n + rate - 1) / rate) = some s1 → checkSteps (s1.who s.cur) 0 fs n 0 s1 = (t, l, found) →
    cutAt s.core n (found.map fun x => (x.1, x.2.1)) = some (j, h) → t.fate s.cur h.cond = .stop h.cond →
    let e := 8 * (j / 8)
    let first := (found.map fun x => x.1).getD e
    (e = 0 → exec i s = .next ((feedPost s.cur found t .lead h.cond.code first).1.trapped h.cond.code h.tval)) ∧
    (∀ u vals, e ≠ 0 → performs (stepRead (s1.who s.cur) fs f) (l.filter fun x => x.1 < e) t = (u, vals, none) →
      let r := feedPost s.cur found u (outAt s e) h.cond.code first
      let v := ((r.1.stepsRead s.cur e fs l).accumulate s.cur d (tileCells s.core s.tile.cfg.toNat pp)
        (vals.map fun e => e.2) fs).matBusy s.cur ((e + rate - 1) / rate) e
      ∃ w, exec i s = .next w ∧ stoppedAt s w v.core true e h.cond.code r.2 h.tval ∧ w.tile.acc = v.tile.acc)

/-- R229, R228, R346: m.ops of an aligned tile that the pattern cache holds, whose values and whose stream's elements are
there and readable, updates the selected elements by the 64 k-steps of the tile's rows with the stream, moves the stream
on and raises the floor; its matrix cycles are charged to its region. -/
def Sys2Proof.Claims.SparseProducts : Prop :=
  ∀ (d a b pp : Nat) (s s1 s2 s3 t u : State) (p : Pattern) (bytes : List Byte) (l : List (Nat × List (List Ready)))
    (vals : List (Nat × KStep)),
    let i := Instr.mOps d a b pp
    let va := (s.x a).toNat
    let w := s.tile.cfg.toNat
    let fs : List Feed := [⟨b, s3.core.stream b, cfgCols w⟩]
    Clear i s → (s.core.stream b).feedsAny = true → va % 64 = 0 → s.opsHeld s.cur = false →
    s.lookup s.cur va = (s1, .hit p) →
    (s2 = let s1 := if s.core.wait = .compile then s1 else s1.countCluster (clusterOf s.cur) 0 1
      match s1.launchOf s.cur, s1.partOf s.cur with
      | some r, some q => s1.charge q r.regid 0 p.cycles
      | _, _ => s1) →
    s2.readTile (s2.who s.cur) 129 ((va + 576) % 2 ^ 64) (Fmt.arrayBytes p.fmt p.nnz) = (s3, .ok bytes) →
    s3.tile.badAcc = [] → s3.tile.softAcc = [] →
    checkSteps (s3.who s.cur) 0 fs 64 0 s3 = (t, l, none) →
    performs (stepRead (s3.who s.cur) fs (some fun k =>
      (List.range (cfgRows w)).map fun r => p.value (rowStarts p.rows 0) bytes r k)) l t = (u, vals, none) →
    let v := ((u.stepsRead s.cur 64 fs l).accumulate s.cur d (tileCells s.core w pp) (vals.map fun e => e.2) fs).matBusy
      s.cur p.cycles p.cycles
    exec i s = .next (v.retires i (floored v.core true s.core.strip.len.toNat))

/-- M.op, m.opc and m.ops: the claims TileGroups, DenseProducts, ProductsShorten, SparseProducts. -/
def Obligations.TileProducts : Prop :=
  Sys2Proof.Claims.TileGroups ∧ Sys2Proof.Claims.DenseProducts ∧ Sys2Proof.Claims.ProductsShorten ∧
  Sys2Proof.Claims.SparseProducts

/-- R222, R223, R268: m.ld and m.st move all R by C elements, in row-major order, between an accumulator and a stream that
has them in memory, m.st by one rounding in RNE, and move the stream on; after m.st, what streams of related classes have
read ahead is read again. -/
def Sys2Proof.Claims.TileTransfers : Prop :=
  ∀ (d a : Nat) (s t u : State) (l : List (Nat × Option Ready)),
    let w := s.tile.cfg.toNat
    let st := s.core.stream a
    let total := cfgRows w * cfgCols w
    let n := s.core.strip.len.toNat
    s.tileElems s.cur a st 0 total = ⟨t, l, none⟩ → tileFmt st.desc.fmt = true →
    (∀ vals, Clear (.mLd d a) s → st.state = .read →
      performs (fun s' _ (o : Option Ready) => match o with
        | none => (s', .ok 0)
        | some r => match s'.readStream (s'.who s.cur) r with
          | (s'', .error h) => (s'', .error h)
          | (s'', .ok x) => (s'', .ok (st.desc.slot x))) l t = (u, vals, none) →
      let v := ((u.readBy s.cur a st.desc (l.filterMap fun x => if x.1 < total then x.2 else none)).setClusterAt
        (clusterOf s.cur) (vals.foldl (fun cl e => cl.fillAcc d (e.1 / cfgCols w) (e.1 % cfgCols w) e.2) u.tile)).moveStream
        s.cur a (st.pos + total)
      exec (.mLd d a) s = .next (v.retires (.mLd d a) (floored v.core true n))) ∧
    (∀ vals, Clear (.mSt d a) s → st.state = .write → s.tile.badAcc = [] → s.tile.softAcc = [] →
      writeRun (s.who s.cur) st.desc (fun k => slotVal .fp32 (s.tile.accAt d (k / cfgCols w) (k % cfgCols w)))
        (fun k => drainCode st.desc.fmt (s.tile.accAt d (k / cfgCols w) (k % cfgCols w))) l t = (u, vals, none) →
      let v := u.moveStream s.cur a (st.pos + total)
      exec (.mSt d a) s = .next (v.retires (.mSt d a) (floored (unread (fun t =>
        t.desc.cls == st.desc.cls || t.desc.cls == 0 || st.desc.cls == 0) v.core) true n)))

/-- R225: v.tr takes element i of a strip from row x[b] + i / 64 and column i mod 64 of an accumulator, v.tc from column
x[b] + i / 64 and row i mod 64; outside the accumulator it takes 0; the destination's tag is FP32. -/
def Sys2Proof.Claims.TileSlices : Prop :=
  ∀ (d a b km : Nat) (s : State),
    let ks := (List.range s.core.strip.len.toNat).filter (s.core.mask km)
    let o := (s.x b).toNat
    let cell (r c : Nat) : Half := if r < 64 ∧ c < 64 then s.tile.accAt a r c else 0
    WholeStrip s → s.tile.badAcc = [] → s.tile.softAcc = [] →
    (Clear (.vTr d a b km) s → exec (.vTr d a b km) s = .next (s.retires (.vTr d a b km)
      (writeVec d .fp32 (ks.map fun k => (k, cell (o + k / 64) (k % 64))) s.core))) ∧
    (Clear (.vTc d a b km) s → exec (.vTc d a b km) s = .next (s.retires (.vTc d a b km)
      (writeVec d .fp32 (ks.map fun k => (k, cell (k % 64) (o + k / 64))) s.core)))

/-- M.ld, m.st, v.tr and v.tc: the claims TileTransfers, TileSlices. -/
def Obligations.TileMoves : Prop :=
  Sys2Proof.Claims.TileTransfers ∧ Sys2Proof.Claims.TileSlices

namespace Sys2Proof.Claims

/-- R306 to R308: kind, destination and block register of the e commands. -/
def commandForm : Instr → Option (CmdKind × Nat × Nat)
  | .eCpy d a => some (.cpy, d, a)
  | .eWsl d a => some (.wsl, d, a)
  | .ePut d a => some (.put, d, a)
  | .eGet d a => some (.get, d, a)
  | .eRed d a => some (.red, d, a)
  | _ => none

/-- R298, R306: the queue entry that a command of the core whose turn it is becomes. -/
def entryOf (s : State) (k : CmdKind) (addr : Word) (b : Block) : Cmd where
  kind := k
  core := s.cur
  part := (s.partOf s.cur).getD 16
  regid := s.core.ident.regid.toNat
  asid := s.core.ident.asid.toNat
  ticket := s.core.ticket
  addr := addr
  block := b
  order := s.hub.accepted
  started := false
  prog := 0
  awaited := []

/-- R309: the commands of a core in its cluster's queue, when all have tickets later than a value. -/
def later? (s : State) (n : Nat) (t : Half) : Option Nat :=
  let mine := (s.clusterAt (clusterOf n)).cmds.filter fun m => decide (m.core = n)
  if mine.all fun m => decide (2 ^ 31 ≤ (t - m.ticket).toNat) then some mine.length else none

end Sys2Proof.Claims

/-- R298, R306, R299: an e command of an aligned block that is legal and not masked, with a free queue entry, joins its
cluster's queue, last in the order of acceptance, gives its ticket to x[d] and retires; the core's next ticket is one
more. -/
def Sys2Proof.Claims.CommandsAccepted : Prop :=
  ∀ (i : Instr) (s t : State) (k : CmdKind) (d a : Nat) (bs : List Byte), commandForm i = some (k, d, a) → Clear i s →
    (s.x a).toNat % 64 = 0 → s.loadBlock s.cur (s.x a).toNat 24 = (t, .ok bs) → (blockOf bs).illegal k bs = false →
    (blockOf bs).maskedBy k (t.masked s.cur) = false → t.tile.cmds.length < 32 →
    ∃ u, exec i s = .next u ∧ u.tile.cmds = t.tile.cmds ++ [entryOf t k (s.x a) (blockOf bs)] ∧
      (∀ r, u.x r = if r = d ∧ d ≠ 0 then t.core.ticket.setWidth 64 else t.x r) ∧ u.core.ticket = t.core.ticket + 1 ∧
      u.core.pc = t.core.pc + 4 ∧ u.mem = t.mem ∧ u.hub.accepted = t.hub.accepted + 1

/-- R309, R272: e.wait with no command of its core up to the ticket x[a] in the queue puts the number of the others
into x[d] and is an acquire; so does the row that ends a wait. -/
def Sys2Proof.Claims.CommandsAwaited : Prop :=
  ∀ (d a k : Nat) (s t : State) (n : Nat),
    (Clear (.eWait d a) s → later? s s.cur ((s.x a).setWidth 32) = some k →
      exec (.eWait d a) s = .next (s.retires (.eWait d a) ((acquired s.core).setX d (.ofNat 64 k)))) ∧
    ((s.coreAt n).wait = .engine → s.fetch n = (t, .ok (.eWait d a)) → (t.coreAt n).rider = none →
      later? t n (((t.coreAt n).xreg a).setWidth 32) = some k →
      exec (.eWaitDone n) s = .next (t.setCoreAt n
        (((acquired (t.coreAt n)).setX d (.ofNat 64 k)).retired ((t.coreAt n).pc + 4))))

/-- The e instructions: the claims CommandsAccepted, CommandsAwaited. -/
def Obligations.EngineInstructions : Prop :=
  Sys2Proof.Claims.CommandsAccepted ∧ Sys2Proof.Claims.CommandsAwaited

/-- R299, R301, R346, R387: a command that no earlier command of its crew blocks, in the queue or saved with a context,
whose pop has a token and whose budget is not spent, starts: its pop takes a token; one that started stays as it is, and so
does one of a stopped partition. -/
def Sys2Proof.Claims.CommandsStart : Prop :=
  ∀ (s : State) (c k : Nat) (m : Cmd), (s.clusterAt c).cmds[k]? = some m →
    (m.started = true → exec (.engineCommandStart c k) s = .next s) ∧
    (m.started = false → clusterOf m.core = c → (∀ x ∈ (s.clusterAt c).cmds.take k, Cmd.blockedBy m x = false) →
      (∀ r, s.regionAt m.part m.regid = some r → ∀ c ∈ r.saved, c.crew = (s.coreAt m.core).ident.crew.toNat →
        ∀ x ∈ c.cmds, x.order < m.order → Cmd.blockedBy m x = false) → (s.partAt m.part).stopped = false →
      (m.block.waitt = true → 0 < s.fifoCount m.core 16) → s.budgetLeft m.part m.regid (Cmd.charge m).1 = true →
      ∃ t, exec (.engineCommandStart c k) s = .next t ∧ (t.clusterAt c).cmds[k]? = some { m with started := true } ∧
        t.fifoCount m.core 16 = s.fifoCount m.core 16 - (if m.block.waitt then 1 else 0) ∧ t.mem = s.mem ∧
        t.cores = s.cores) ∧
    ((s.partAt m.part).stopped = true → exec (.engineCommandStart c k) s = .next s)

/-- R301, R302, R304, R387: a started copy that performs all its elements writes its STATUS, the count with DONE and no
cause, and leaves the queue; one that has not started stays, and so does one of a stopped partition. -/
def Sys2Proof.Claims.CommandsComplete : Prop :=
  ∀ (s : State) (c k : Nat) (m : Cmd), (s.clusterAt c).cmds[k]? = some m →
    (m.started = false → exec (.engineCommandComplete c k) s = .next s) ∧
    ((s.partAt m.part).stopped = true → exec (.engineCommandComplete c k) s = .next s) ∧
    (∀ l t u, (s.partAt m.part).stopped = false → m.started = true → m.prog = 0 → CmdKind.fabric m.kind = false → m.block.push = false →
      m.block.layout = some l → copyFrom m l l.length 0 s = (t, none) →
      t.writeStatus m (l.length * 2 ^ 32 + 2 ^ 31) = (u, none) →
      ∃ v, exec (.engineCommandComplete c k) s = .next v ∧ (v.clusterAt c).cmds = (u.clusterAt c).cmds.eraseIdx k ∧
        v.mem = u.mem ∧ v.cores = u.cores)

/-- The rows of a command's start and completion: the claims CommandsStart, CommandsComplete. -/
def Obligations.EngineQueue : Prop :=
  Sys2Proof.Claims.CommandsStart ∧ Sys2Proof.Claims.CommandsComplete

/-! ## The rows of the table that no word carries -/

/-- R51, R362, R366: an emulated word takes a lead trap with cause 11, an illegal one with cause 10; the word is the
value. -/
def Sys2Proof.Claims.TrappingWords : Prop :=
  ∀ (w : Nat) (s : State), s.serviceHeld s.cur = false → s.core.resume = none → s.core.rider = none →
    exec (.emulate w) s = .next (s.trapped 11 w) ∧ exec (.illegalWord w) s = .next (s.trapped 10 w)

namespace Sys2Proof.Claims

/-- R41: the major of an instruction. -/
def major (i : Instr) : Nat := firstWord i / 2 ^ 26

/-- R47: an instruction that reaches the lanes has one of these majors: v, vr, k, vld, vst, vam, q, q.axpy, qld. -/
def laneMajor (m : Nat) : Bool := (decide (0x10 ≤ m) && decide (m ≤ 0x29)) || m == 0x2B || m == 0x2E

/-- R47: the majors that run on a kind of core: H, T and B of its table. -/
def placedOn (m : Nat) : Kind → Bool
  | .hart => decide (m ≠ 0x2C)
  | .treadle => decide (m ≤ 0x0F) || m == 0x2A || m == 0x2C || m == 0x2D || decide (0x30 ≤ m)
  | .hub => (decide (m ≤ 0x0D) && m != 0x08) || m == 0x0F || decide (0x30 ≤ m)

/-- The memory format of an instruction of the VM format. -/
def vmFormat : Instr → Option Fmt
  | .vldUn _ _ _ f | .vldSd _ _ _ _ f | .vldX _ _ _ _ f | .vstUn _ _ _ f | .vstSd _ _ _ _ f | .vstX _ _ _ _ f
  | .vstXa _ _ _ _ f => some f
  | _ => none

/-- The interval instructions. -/
def isInterval (i : Instr) : Bool := major i == 0x2B || major i == 0x2E || major i == 0x1F || major i == 0x28

/-- R52: an instruction belongs to a feature. That of a fabric command is checked with its block (R306). -/
def belongs (i : Instr) : Nat → Bool
  | 0 => isInterval i
  | 1 => major i == 0x2C || (match i with | .vTr .. | .vTc .. => true | _ => false)
  | 2 => (match i with | .mOps .. | .mPrep .. => true | _ => false)
  | 3 => vmFormat i == some .t8 || vmFormat i == some .t6
  | 4 => vmFormat i == some .e2m1 || vmFormat i == some .e8m0 || (match i with
    | .lnShuttle _ _ _ _ _ e0 e1 e2 e3 _ => e0 == .mx || e1 == .mx || e2 == .mx || e3 == .mx
    | _ => false)
  | 6 => (match i with | .zWsopen .. | .zWsclose .. => true | _ => false)
  | 7 => (match i with
    | .fAdd _ _ _ fm _ | .fSub _ _ _ fm _ | .fMul _ _ _ fm _ | .fFma _ _ _ fm _ | .fDiv _ _ _ fm _
    | .fSqrt _ _ fm _ | .fMin _ _ _ fm _ | .fMax _ _ _ fm _ | .fCmp _ _ _ fm _ | .fClass _ _ fm _ => fm == .f64
    | .fCvt _ _ dk sk _ => dk == .f64 || sk == .f64
    | _ => false)
  | _ => false

/-- R43: a stream that an instruction names on a treadle and that no treadle has. -/
def noSuchStream (i : Instr) : Bool := match i with
  | .sBind d _ | .sRel d | .sSkip d _ => decide (7 < d)
  | .sPos _ a => decide (7 < a)
  | _ => false

/-- R47, R50, R341: an instruction is where it may not be executed. -/
def misplaced (i : Instr) (s : State) : Bool :=
  !placedOn (major i) s.kind || (match i with
    | .zRet | .zHres .. | .zHstop .. | .zInva .. | .zInvs .. | .zInvp | .zWsopen .. | .zWsclose .. =>
      s.kind != .hub || s.core.level == .u
    | .yBar => s.kind == .hub
    | .zSpawn .. | .zKill .. => s.kind == .hub && s.core.level == .u
    | .vTr .. | .vTc .. => !s.crewHasTreadle s.cur
    | _ => false)

/-- R14: a grant of 0 bars the instructions that reach the lanes and, on a hart, those of a strip. -/
def needsGrant (i : Instr) (s : State) : Bool := laneMajor (major i) || (s.kind == .hart && major i == 0x08)

/-- R53, R217: an instruction that a cleared tile enable bars in a strip of a length. -/
def needsTile (i : Instr) (len : Nat) : Bool := match i with
  | .mOp .. | .mOpc .. | .vTr .. | .vTc .. => decide (len ≠ 0)
  | i => major i == 0x2C

/-- An instruction of a word, at a core on which nothing of it has been done and no rider waits for a carrier. -/
structure AtDecode (i : Instr) (s : State) : Prop where
  word : encodeWords i ≠ []
  formed : WellFormed i = true
  instruction : ∀ w, i ≠ .emulate w ∧ i ≠ .illegalWord w
  service : s.serviceHeld s.cur = false
  fresh : s.core.resume = none
  alone : s.core.rider = none

/-- R53: no check passes judgement before the feature masks (checks 1 and 2), before the place (check 3), before the
vector owner (checks 4 and 5). -/
def lawful (i : Instr) (s : State) : Prop := ¬ (s.kind = .treadle ∧ noSuchStream i = true)
def unmasked (i : Instr) (s : State) : Prop := lawful i s ∧ ∀ k, belongs i k = true → s.masked s.cur k = false
def inPlace (i : Instr) (s : State) : Prop :=
  unmasked i s ∧ misplaced i s = false ∧ (needsGrant i s = true → s.core.ident.lanes ≠ 0)

/-- A lead trap with the instruction's first word as its value (R366). -/
def trapsWith (cause : Nat) (i : Instr) (s : State) : Prop := exec i s = .next (s.trapped cause (firstWord i))

end Sys2Proof.Claims

/-- R43, R52, R53, R47, R50, R14: checks 1 and 3 to 5: a stream that a treadle does not have is illegal (10); else a
feature masked for the partition is 12; else a place where the instruction may not be executed is illegal; else a grant
of 0 is, for what reaches the lanes and on a hart for what touches vl, whatever the strip length. -/
def Sys2Proof.Claims.EarlyChecks : Prop :=
  ∀ (i : Instr) (s : State), AtDecode i s →
    (¬ lawful i s → trapsWith 10 i s) ∧
    (∀ k, lawful i s → belongs i k = true → s.masked s.cur k = true → trapsWith 12 i s) ∧
    (unmasked i s → misplaced i s = true → trapsWith 10 i s) ∧
    (unmasked i s → misplaced i s = false → needsGrant i s = true → s.core.ident.lanes = 0 → trapsWith 10 i s)

/-- R53, R217, R380, R401: checks 6 and 7, in a strip that is not empty for what reaches the lanes: another vector owner
is 14; else a cleared tile enable is 13; else a register the instruction reads that cannot be corrected is counted and
reported, and 15 (DESIGN CHOICE, log 16: after check 7 and before check 8). -/
def Sys2Proof.Claims.LateChecks : Prop :=
  ∀ (i : Instr) (s : State), AtDecode i s → inPlace i s →
    let reaches := laneMajor (major i)
    let foreign := reaches = true ∧ s.core.win.ctx ≠ s.core.win.vown
    let off := needsTile i s.core.strip.len.toNat = true ∧ (s.clusterAt (clusterOf s.cur)).enable = false
    (reaches = true → s.core.strip.len ≠ 0) →
    (foreign → trapsWith 14 i s) ∧ (¬ foreign → off → trapsWith 13 i s) ∧
    (∀ r ∈ readsOf s.kind i, ¬ foreign → ¬ off → r ≠ .x 0 → r ∈ s.core.badRegs →
      exec i s = .next ((s.detectReg s.cur).trapped 15 (firstWord i)))

/-- R380, R26, R363: an instruction of the lanes that resumes with another vector owner in the window takes a lead trap
with cause 14 and PROG 0; its progress stays. -/
def Sys2Proof.Claims.ResumedOwner : Prop :=
  ∀ (i : Instr) (s : State) (is : Issue), WellFormed i = true → encodeWords i ≠ [] → s.serviceHeld s.cur = false →
    s.core.resume = some is → inPlace i s → laneMajor (major i) = true → s.core.win.ctx ≠ s.core.win.vown →
    exec i s = .next (if is.start = 0 then s.trapped 14 (firstWord i)
      else (s.setCore s.core.stopsLead).trapCluster s.cur .lead 14 (firstWord i) 0)

/-- The traps at decode and their order: the claims EarlyChecks, LateChecks, ResumedOwner. -/
def Obligations.DecodeTraps : Prop :=
  Sys2Proof.Claims.EarlyChecks ∧ Sys2Proof.Claims.LateChecks ∧ Sys2Proof.Claims.ResumedOwner

/-- The instructions and words whose effect is a trap: the claims CallsAndBreakpoints, TrappingWords. -/
def Obligations.CallsAndTrappingWords : Prop :=
  Sys2Proof.Claims.CallsAndBreakpoints ∧ Sys2Proof.Claims.TrappingWords

/-- R261, R272: a waiting core's next read of its word, when it has reached x[b], ends y.wait. -/
def Sys2Proof.Claims.WordReread : Prop :=
  ∀ (n d a b v : Nat) (s t u : State), (s.coreAt n).wait = .word → s.fetch n = (t, .ok (.yWait d a b)) →
    t.loadDirect n ((t.coreAt n).xreg a).toNat = (u, .ok v) → ((t.coreAt n).xreg b).toNat ≤ v →
    (u.coreAt n).rider = none →
    exec (.waitReread n) s = .next (u.setCoreAt n (((acquired (u.coreAt n)).setX d (.ofNat 64 v)).retired
      ((u.coreAt n).pc + 4)))

/-- R291, R272, R275, R292: a waiting pop takes its token once one is there, once, and is an acquire; a waiting push adds its
token once there is room. -/
def Sys2Proof.Claims.TokensResume : Prop :=
  ∀ (n id : Nat) (r : Rider) (s : State),
    ((s.coreAt n).wait = .pop → (s.coreAt n).rider = some r → r.pop = some id → r.popped = false → id < 32 →
      0 < s.fifoCount n id →
      ∃ t, exec (.tokenPopResume n) s = .next t ∧ t.fifoCount n id = s.fifoCount n id - 1 ∧
        t.coreAt n = { acquired (s.coreAt n) with wait := .none, rider := some { r with popped := true } }) ∧
    ((s.coreAt n).push = some id → s.halted n = false → id < 32 → s.fifoCount n id < 15 →
      ∃ t, exec (.tokenPushResume n) s = .next t ∧ t.fifoCount n id = s.fifoCount n id + 1 ∧
        t.coreAt n = { s.coreAt n with push := none, wait := .none })

/-- R294, R295, R272: the rows that release a full barrier and that end a core whose commands have completed. -/
def Sys2Proof.Claims.BarrierAndEndRows : Prop :=
  ∀ (n : Nat) (s : State),
    ((s.coreAt n).wait = .barrier → s.barrierFull n = true →
      ∃ t, exec (.barrierRelease n) s = .next t ∧ ∀ m ∈ s.crewmates n, (t.coreAt m).pc = (s.coreAt m).pc + 4 ∧
        (t.coreAt m).arrived = false ∧ (t.coreAt m).l1d = [] ∧ (∀ e ∈ (t.coreAt m).streams, e.2.ahead = []) ∧
        (t.coreAt m).x = (s.coreAt m).x) ∧
    ((s.coreAt n).wait = .ending → s.drained n = true → (s.coreAt n).rider = none →
      exec (.endComplete n) s = .next (s.endCore n) ∧ ((s.endCore n).coreAt n).run = .absent)

/-- R288, R289: a stalled dispatch goes on with the held instruction its core has come to; a reply writes its register
and frees its slot. -/
def Sys2Proof.Claims.QueuesGoOn : Prop :=
  ∀ (n : Nat) (s : State),
    (∀ h hs, (s.coreAt n).wait = .dispatch → (s.coreAt n).held = h :: hs → h.pc = (s.coreAt n).pc →
      (s.coreAt n).resume = none →
      exec (.dispatchResume n) s = .next (s.setCoreAt n
        { s.coreAt n with wait := .none, held := hs, resume := some h.issue })) ∧
    (∀ r rs, s.halted n = false → (s.coreAt n).replies = r :: rs → .reply ∉ (s.coreAt n).badRegs →
      exec (.replyWrite n) s = .next (s.setCoreAt n { (s.coreAt n).setX r.reg r.value with replies := rs }))

/-- R281, R330: a hub hart waiting in z.invp goes on once no command that has started may use what it dropped. -/
def Sys2Proof.Claims.InvalidationEnds : Prop :=
  ∀ (h p : Nat) (s t : State), (s.coreAt (7200 + h)).wait = .inval → s.fetch (7200 + h) = (t, .ok .zInvp) →
    t.partOf (7200 + h) = some p → (∀ e ∈ t.clusters, ∀ m ∈ e.2.cmds, m.part = p → m.started = false) →
    (t.coreAt (7200 + h)).rider = none →
    ∃ u, exec (.invalidationAck h) s = .next u ∧ (u.coreAt (7200 + h)).pc = (t.coreAt (7200 + h)).pc + 4 ∧
      (u.coreAt (7200 + h)).wait = .none ∧ (u.coreAt (7200 + h)).l1d = [] ∧ u.mem = t.mem ∧
      u.tlb = t.tlb.filter fun e => !(decide (e.part = p) && holderCovered t p e.holder)

/-- The rows that end a core's wait: the claims WordReread, TokensResume, BarrierAndEndRows, QueuesGoOn,
InvalidationEnds. -/
def Obligations.WaitingRows : Prop :=
  Sys2Proof.Claims.WordReread ∧ Sys2Proof.Claims.TokensResume ∧ Sys2Proof.Claims.BarrierAndEndRows ∧
  Sys2Proof.Claims.QueuesGoOn ∧ Sys2Proof.Claims.InvalidationEnds

/-- R188, R189, R190, R387: translation ahead of a bound stream whose next page is not present, in a demand domain, marks the
page noticed, once; read-ahead buffers the next element, which stays unconsumed; for a core of a stopped partition neither
does anything (R387). -/
def Sys2Proof.Claims.StreamsAhead : Prop :=
  ∀ (n sr : Nat) (s t : State),
    let st := (s.coreAt n).stream sr
    (s.halted n = true →
      exec (.streamTranslateAhead n sr) s = .next s ∧ exec (.streamReadAhead n sr) s = .next s) ∧
    (∀ e page, s.halted n = false → st.state ≠ .unbound → st.desc.scratch = false →
      st.desc.pagesFrom (st.desc.length - st.pos) st.pos 3 [] = [(e, page)] →
      locateBlock s ((s.who n).forStream sr) (if st.state = .write then .write else .read) page 1 =
        (t, .error .notPresent) →
      t.demand n = true → page ∉ st.noticed →
      ∃ u, exec (.streamTranslateAhead n sr) s = .next u ∧
        (u.coreAt n).stream sr = { (t.coreAt n).stream sr with noticed := page :: ((t.coreAt n).stream sr).noticed } ∧
        (u.coreAt n).pc = (t.coreAt n).pc ∧ (u.coreAt n).x = (t.coreAt n).x) ∧
    (∀ r u v, s.halted n = false → st.state = .read → s.checkStream ((s.who n).forStream sr) sr st (st.pos + st.ahead.length) = (t, .ok r) →
      r.isIo = false → r.held = none → t.readStream ((s.who n).forStream sr) r = (u, .ok v) →
      exec (.streamReadAhead n sr) s = .next (u.setCoreAt n ((u.coreAt n).updStream sr fun x => { x with
        ahead := x.ahead ++ [⟨st.pos + st.ahead.length, v.1, v.2, readyRuns [r]⟩] })))

/-- The s instructions and the rows ahead of a stream's consumption: the claims StreamPositions, StreamBind,
StreamsAhead. -/
def Obligations.StreamRegistersAndReadAhead : Prop :=
  Sys2Proof.Claims.StreamPositions ∧ Sys2Proof.Claims.StreamBind ∧ Sys2Proof.Claims.StreamsAhead

/-- R228, R229, R232: at a compile's end its entry is the most recently used of at most 128, in the place of an older
one
of its key, unless an invalidation has reached it. -/
def Sys2Proof.Claims.CompileEnds : Prop :=
  ∀ (c k : Nat) (e : Compile) (s : State), (s.clusterAt c).compiles[k]? = some e →
    ∃ t, exec (.patternCompileDone c k) s = .next t ∧ (t.clusterAt c).compiles = (s.clusterAt c).compiles.eraseIdx k ∧
      t.cores = s.cores ∧ t.mem = s.mem ∧
      (t.clusterAt c).patterns = if e.discarded then (s.clusterAt c).patterns else
        (e.entry :: (s.clusterAt c).patterns.filter fun q => !decide (q.part = e.entry.part ∧ q.asid = e.entry.asid ∧
          q.addr = e.entry.addr ∧ q.gen = e.entry.gen)).take 128

/-- M.cfg, m.zero, m.inv, m.prep and the end of a compile: the claims TileConfiguration, TileZero, TilePatterns,
CompileEnds. -/
def Obligations.TileState : Prop :=
  Sys2Proof.Claims.TileConfiguration ∧ Sys2Proof.Claims.TileZero ∧ Sys2Proof.Claims.TilePatterns ∧
  Sys2Proof.Claims.CompileEnds

/-- R376, R369, R328, R55: a running hub hart that waits for no invalidation takes the interrupt that is due: the registers
of its level receive the code with bit 63 set, the pc, which is the rider's where a rider waits for its carrier, and 0; PIE
takes IE, IE becomes 0, PLV the level before, BUSY 1; the pc is at the handler. -/
def Sys2Proof.Claims.InterruptEntry : Prop :=
  ∀ (h code : Nat) (l : Level) (s : State),
    let n := 7200 + h
    let c := s.coreAt n
    c.run = .running → c.wait ≠ .inval → s.interrupt n = some (code, l) →
    ∃ t, exec (.interruptTake h) s = .next t ∧ (code, l) ∈ [(1, Level.s), (2, Level.s), (3, Level.h)] ∧
      let e := t.coreAt n
      (regsOf e l).cause = .ofNat 64 (2 ^ 63 + code) ∧ (regsOf e l).epc = (match c.rider, c.resume with
        | some r, none => r.pc
        | _, _ => c.pc) ∧ (regsOf e l).tval = 0 ∧
      e.level = l ∧ e.pc = (regsOf c l).vec ∧ e.x = c.x ∧
      (regsOf e l).stat.getLsbD 0 = false ∧ (regsOf e l).stat.getLsbD 1 = (regsOf c l).stat.getLsbD 0 ∧
      (regsOf e l).stat.getLsbD 7 = true ∧ (regsOf e l).stat.toNat / 16 % 4 = levelCode c.level ∧ t.mem = s.mem

/-- Taking a trap or an interrupt on a hub hart: the claims HubTrapRegisters, TrapWithEveryLevelBusy, InterruptEntry. -/
def Obligations.HubTrapEntry : Prop :=
  Sys2Proof.Claims.HubTrapRegisters ∧ Sys2Proof.Claims.TrapWithEveryLevelBusy ∧ Sys2Proof.Claims.InterruptEntry

/-! ### Record queues and completion words -/

namespace Sys2Proof.Claims

/-- R310: a record queue of a partition as its control block has it: the block's address, the range of LOG2N and the bytes
of an entry. -/
structure RingOf where
  queue : Queue
  block : Part → Nat
  least : Nat
  most : Nat
  entry : Nat

def faultRing : RingOf := ⟨.fault, fun q => q.fqcb.toNat, 6, 16, 128⟩
def trapRing : RingOf := ⟨.trap, fun q => q.tqcb.toNat, 13, 16, 16⟩
def cairnRing : RingOf := ⟨.cairn, fun q => q.cacb.toNat, 8, 20, 32⟩

/-- R310: entries of a ring, PROD and LOST, in a control block at a key. -/
def ringSize (s : State) (kc : Nat) : Nat := 2 ^ s.natAt (kc + 8) 4
def prodOf (s : State) (kc : Nat) : Nat := s.natAt (kc + 16) 8
def lostOf (s : State) (kc : Nat) : Nat := s.natAt (kc + 32) 8

/-- R311: the ring has no room. -/
def ringFull (s : State) (kc : Nat) : Prop :=
  (s.natAt (kc + 16) 8 + 2 ^ 64 - s.natAt (kc + 24) 8) % 2 ^ 64 = ringSize s kc

/-- R312: the block is usable. -/
def blockUsable (s : State) (g : RingOf) (kc : Nat) : Prop :=
  g.least ≤ s.natAt (kc + 8) 4 ∧ s.natAt (kc + 8) 4 ≤ g.most ∧ s.natAt kc 8 % 4096 = 0 ∧ s.natAt (kc + 12) 4 = 0 ∧
  s.natAt (kc + 40) 24 = 0

/-- The block of a partition's queue lies in memory at a key, aligned, with nothing wrong in memory. -/
structure BlockAt (s : State) (p : Nat) (g : RingOf) (kc : Nat) : Prop where
  clean : s.errorFree
  aligned : g.block (s.partAt p) % 64 = 0
  block : tableKey (s.partAt p) (g.block (s.partAt p)) = some kc
  prod : tableKey (s.partAt p) (g.block (s.partAt p) + 16) = some (kc + 16)
  lost : tableKey (s.partAt p) (g.block (s.partAt p) + 32) = some (kc + 32)

/-- The next entry of a ring lies in memory at a key, clear of the block. -/
structure EntryAt (s : State) (p : Nat) (g : RingOf) (kc ke : Nat) : Prop where
  entry : tableKey (s.partAt p) (s.natAt kc 8 + prodOf s kc % ringSize s kc * g.entry) = some ke
  clear : ke + g.entry ≤ kc ∨ kc + 64 ≤ ke

/-- R311: t is s with an entry written and PROD one more, and nothing else of memory changed, but for LOST where a cairn
overwrites its oldest entry. -/
def entryPut (s t : State) (g : RingOf) (kc ke : Nat) (bytes : List Byte) : Prop :=
  t.bytesAt ke g.entry = bytes ∧ prodOf t kc = (prodOf s kc + 1) % 2 ^ 64 ∧
  (lostOf t kc = if g.queue = .cairn ∧ ringSize s kc ≤ prodOf s kc then (lostOf s kc + 1) % 2 ^ 64 else lostOf s kc) ∧
  ∀ k, (k < ke ∨ ke + g.entry ≤ k) → (k < kc + 16 ∨ kc + 24 ≤ k) → (k < kc + 32 ∨ kc + 40 ≤ k) → t.byteAt k = s.byteAt k

/-- R311, R312: t is s with LOST one more and nothing else of memory changed. -/
def entryLost (s t : State) (kc : Nat) : Prop :=
  lostOf t kc = (lostOf s kc + 1) % 2 ^ 64 ∧ ∀ k, (k < kc + 32 ∨ kc + 40 ≤ k) → t.byteAt k = s.byteAt k

/-- R311, R312: what a posting of an entry comes to. -/
def posted (s t : State) (p : Nat) (g : RingOf) (kc : Nat) (bytes : List Byte) : Prop :=
  (∀ ke, blockUsable s g kc → (g.queue = .cairn ∨ ¬ ringFull s kc) → EntryAt s p g kc ke → entryPut s t g kc ke bytes) ∧
  (¬ blockUsable s g kc ∨ (g.queue ≠ .cairn ∧ ringFull s kc) → entryLost s t kc)

/-- Bits lo to lo + n - 1 of a word, as a number. -/
def wordBits (w : Word) (lo n : Nat) : Nat := w.toNat / 2 ^ lo % 2 ^ n

end Sys2Proof.Claims

/-- R311, R312, R314, R362: a lead trap of a cluster core of a partition, but for cause 12, posts a trap-queue entry:
HART, CAUSE, KIND 1, zero bytes and REGID; with the ring full or its block unusable LOST grows and nothing is written.
That rings and control blocks lie at partition-physical addresses is the model's choice (log 29). -/
def Sys2Proof.Claims.TrapEntries : Prop :=
  ∀ (s : State) (n cause tval p kc : Nat), kindOf n ≠ .hub → s.partOf n = some p → cause ≠ 12 →
    BlockAt s p trapRing kc →
    posted s (s.takeTrap n cause tval) p trapRing kc
      (leBytes 8 (s.hartid n) ++ leBytes 1 cause ++ leBytes 1 1 ++ leBytes 2 0 ++ leBytes 4 (s.coreAt n).ident.regid.toNat)

/-- R313: the fields of a fault record, by offset and size. -/
def Sys2Proof.Claims.FaultRecordFields : Prop :=
  ∀ (r : FaultRec) (seq time : Nat),
    let b := r.bytes seq time
    let field (off size : Nat) : Nat := leNat ((b.drop off).take size)
    let mbase := if r.kind = 1 ∨ r.kind = 2 then 32 * (r.j / 32) else 0
    b.length = 128 ∧ field 0 1 = r.kind % 256 ∧ field 1 1 = r.cause % 256 ∧
    (r.out < 8 → field 2 1 % 8 = min 6 r.pages.length ∧ field 2 1 / 8 % 8 = r.out ∧
      ((field 2 1).testBit 6 = true ↔ ∃ i ∈ r.missing, mbase + 256 ≤ i) ∧
      ((field 2 1).testBit 7 = true ↔ 6 < r.pages.length)) ∧
    field 3 1 = r.core % 9 ∧ field 4 2 = r.core / 9 % 2 ^ 16 ∧ field 6 2 = r.asid % 2 ^ 16 ∧
    field 8 4 = r.regid % 2 ^ 32 ∧ field 12 2 = r.j % 2 ^ 16 ∧ field 14 2 = mbase % 2 ^ 16 ∧ field 16 8 = r.pc.toNat ∧
    field 24 8 = seq % 2 ^ 64 ∧ field 32 8 = time % 2 ^ 64 ∧ field 40 8 = r.info % 2 ^ 64 ∧
    (∀ i < 256, (field 48 32).testBit i = decide (mbase + i ∈ r.missing)) ∧
    (∀ i < 6, field (80 + 8 * i) 8 = r.pages.getD i 0 % 2 ^ 64)

/-- R311, R312, R313: a fault record of a core of a partition takes the partition's next record number, written or not, and
the time, and is posted; the posting answers whether it was written. -/
def Sys2Proof.Claims.FaultRecords : Prop :=
  ∀ (s : State) (r : FaultRec) (p kc : Nat), s.partOf r.core = some p → BlockAt s p faultRing kc →
    let t := s.postFault r
    posted s t.1 p faultRing kc (r.bytes (s.partAt p).faultSeq s.now.2) ∧
    (t.1.partAt p).faultSeq = (s.partAt p).faultSeq + 1 ∧
    (∀ ke, blockUsable s faultRing kc → ¬ ringFull s kc → EntryAt s p faultRing kc ke → t.2 = true) ∧
    (¬ blockUsable s faultRing kc ∨ ringFull s kc → t.2 = false)

/-- R311, R312, R315: a cairn entry takes the partition's next entry number, written or not, and the time, and is posted:
SEQ, TIME, REGID, EVENT, CODE, CLUSTER and ARG. -/
def Sys2Proof.Claims.CairnEntries : Prop :=
  ∀ (s : State) (p kc regid event code cluster arg : Nat), BlockAt s p cairnRing kc →
    let t := s.cairn p regid event code cluster arg
    posted s t p cairnRing kc (leBytes 8 (s.partAt p).cairnSeq ++ leBytes 8 s.now.2 ++ leBytes 4 regid ++
      leBytes 1 event ++ leBytes 1 code ++ leBytes 2 cluster ++ leBytes 8 arg) ∧
    (t.partAt p).cairnSeq = (s.partAt p).cairnSeq + 1

/-- R295, R296: a core's end ORs its SH and arithmetic flags into the completion value and adds one to ENDED; when ENDED
reaches the launch's cores, DONE becomes 1 and STATUS 0; a termination sets DONE, STATUS and KCODE; the rest of the value
stays. -/
def Sys2Proof.Claims.CompletionValues : Prop :=
  ∀ (w : Word) (stat : Half) (cores status kcode : Nat),
    let e := wordEnded w stat cores
    let t := wordTerminated w status kcode
    let ended := (wordBits w 16 16 + 1) % 2 ^ 16
    let last := ended = cores % 2 ^ 16
    (∀ k < 6, e.getLsbD k = (w.getLsbD k || stat.getLsbD k)) ∧ e.getLsbD 8 = (w.getLsbD 8 || stat.getLsbD 8) ∧
    wordBits e 6 2 = wordBits w 6 2 ∧ wordBits e 9 7 = wordBits w 9 7 ∧ wordBits e 16 16 = ended ∧
    wordBits e 32 16 = wordBits w 32 16 ∧ wordBits e 56 7 = wordBits w 56 7 ∧
    (last → e.getLsbD 63 = true ∧ wordBits e 48 8 = 0) ∧
    (¬ last → e.getLsbD 63 = w.getLsbD 63 ∧ wordBits e 48 8 = wordBits w 48 8) ∧
    t.getLsbD 63 = true ∧ wordBits t 48 8 = status % 2 ^ 8 ∧ wordBits t 32 16 = kcode % 2 ^ 16 ∧
    wordBits t 0 32 = wordBits w 0 32 ∧ wordBits t 56 7 = wordBits w 56 7

/-- R297: the held completion value is written whole to the launch's completion word, as a write at level S in the launch's
ASID; where that write meets a condition, nothing is written there and the cairn receives an entry with EVENT 9, the
condition's code and the value. -/
def Sys2Proof.Claims.CompletionWordWritten : Prop :=
  ∀ (s t : State) (p : Nat) (r : Region),
    let w : Who := ⟨7200, some p, r.rcb.asid, .s, some r.rcb.wsmask, .device⟩
    (∀ k io ws, s.errorFree → s.lag = none → locate s w .write r.rcb.cword.toNat 8 8 = (t, .ok (.mem [(k, 8)] io ws)) →
      (s.writeWord p r).bytesAt k 8 = leBytes 8 r.word.toNat ∧
      ∀ q, q < k ∨ k + 8 ≤ q → (s.writeWord p r).byteAt q = t.byteAt q) ∧
    (∀ c, locate s w .write r.rcb.cword.toNat 8 8 = (t, .error c) →
      s.writeWord p r = t.cairn p r.regid 9 c.code 0x3FF r.word.toNat)

/-- The record queues and the completion word: the claims TrapEntries, FaultRecordFields, FaultRecords, CairnEntries,
CompletionValues, CompletionWordWritten. -/
def Obligations.RecordQueues : Prop :=
  Sys2Proof.Claims.TrapEntries ∧ Sys2Proof.Claims.FaultRecordFields ∧ Sys2Proof.Claims.FaultRecords ∧
  Sys2Proof.Claims.CairnEntries ∧ Sys2Proof.Claims.CompletionValues ∧ Sys2Proof.Claims.CompletionWordWritten

/-! ### Windows -/

namespace Sys2Proof.Claims

/-- R367: a core whose window is busy with a command. -/
def doing (c : Core) (k : Nat) : Prop := c.win.cmdstat = 1 ∧ c.win.cmd = k

/-- R367: the state once a command's effect is done with status 0, the core otherwise changed by f (the end of the
command sets CMDSTAT). -/
def doneZero (s : State) (n : Nat) (f : Core → Core) : State :=
  s.setCoreAt n { f (s.coreAt n) with win := { (f (s.coreAt n)).win with cmd := 8 } }

end Sys2Proof.Claims

/-- R365, R367: a write to a field of a window reaches a stopped core's register or pc, a running core's not at all; a
command starts on a stopped core and ends at once with status 2 on a running one, and so does a vector command on a
treadle, with nothing else changed; one written while another is in progress is ignored. -/
def Sys2Proof.Claims.WindowWrites : Prop :=
  ∀ (n r : Nat) (v : Word) (s : State), n < 7200 → r < 32 →
    let c := s.coreAt n
    (c.win.kind ≠ .running → exec (.windowFieldWrite n (8 * r) v) s = .next (s.setCoreAt n (c.setX r v))) ∧
    (c.win.kind = .running → exec (.windowFieldWrite n (8 * r) v) s = .next s) ∧
    (c.win.kind ≠ .running → v.toNat % 4 = 0 →
      ∃ t, exec (.windowFieldWrite n 0x100 v) s = .next t ∧ (t.coreAt n).windowPc = v ∧ (t.coreAt n).x = c.x) ∧
    (c.win.cmdstat ≠ 1 → 1 ≤ v.toNat → v.toNat ≤ 7 → (kindOf n ≠ .treadle ∨ 4 ≤ v.toNat) →
      ∃ t, exec (.windowFieldWrite n 0x170 v) s = .next t ∧
        (t.coreAt n).win.cmdstat = (if c.win.kind = .running then 2 else 1) ∧ t.mem = s.mem) ∧
    (c.win.cmdstat ≠ 1 → 1 ≤ v.toNat → v.toNat ≤ 3 → kindOf n = .treadle →
      exec (.windowFieldWrite n 0x170 v) s = .next (s.setCoreAt n { c with win := { c.win with cmdstat := 2 } })) ∧
    (c.win.cmdstat = 1 → exec (.windowFieldWrite n 0x170 v) s = .next s)

/-- R367, R381, R145, R217, R387: the effects of the window commands on a stopped core of a partition that is not stopped,
its slots and cells sound: VSAVE writes its area, VLOAD reads one
back, VCLEAR zeroes the vector state; TSAVE and TLOAD write and read the tile's area, TENABLE enables it with its
initial state, TDISABLE disables it. -/
def Sys2Proof.Claims.WindowEffects : Prop :=
  ∀ (n : Nat) (s : State), s.halted n = false → (s.clusterAt (clusterOf n)).badSlots = [] →
    let c := s.coreAt n
    let q := s.areaPart n
    (∀ t, doing c 1 → kindOf n = .hart → c.win.varea.toNat % 64 = 0 → c.held = [] →
      s.writeParts q c.win.varea.toNat (c.areaParts c.vlmax s.free) = (t, true) →
      ∃ u, exec (.vsave n) s = .next u ∧ u.mem = t.mem ∧
        u.coreAt n = { t.coreAt n with held := [], win := { (t.coreAt n).win with vown := 0, cmd := 8 } }) ∧
    (∀ s1 t head b key, doing c 2 → kindOf n = .hart → c.win.varea.toNat % 64 = 0 →
      s.physRead q c.win.varea.toNat 2048 = (s1, .ok head) → natIn head 0 4 ≤ c.vlmax →
      s1.physRead q c.win.varea.toNat (2048 + 387 * natIn head 0 4) = (t, .ok b) → areaOk b 0 = true →
      tableKey q c.win.varea.toNat = some key →
      ((t.hub.areas.find? fun e => e.1 == key).map fun e => e.2) = some [] →
      exec (.vload n) s = .next (doneZero t n fun c => { c with
        vec := areaVec (natIn head 0 4) b, held := [], win := { c.win with vown := c.win.ctx } })) ∧
    (doing c 3 → kindOf n = .hart → c.held = [] →
      exec (.vclear n) s = .next (doneZero s n fun c => { c with
        vec := Vec.reset, win := { c.win with vown := c.win.ctx } })) ∧
    (s.tileQueued n = false → s.crewHasTreadle n = true →
      (∀ t, doing c 4 → (s.clusterAt (clusterOf n)).enable = true → c.win.tarea.toNat % 64 = 0 →
        (s.clusterAt (clusterOf n)).badAcc = [] → (s.clusterAt (clusterOf n)).softAcc = [] →
        s.physWrite q c.win.tarea.toNat (s.clusterAt (clusterOf n)).tileBytes = (t, .ok ()) →
        exec (.tsave n) s = .next (doneZero t n id)) ∧
      (∀ t b, doing c 5 → c.win.tarea.toNat % 64 = 0 → s.physRead q c.win.tarea.toNat 131104 = (t, .ok b) →
        ∃ u, exec (.tload n) s = .next u ∧ (u.clusterAt (clusterOf n)).enable = true ∧
          (u.clusterAt (clusterOf n)).cfg = .ofNat 32 (natIn b 131072 4) ∧
          (∀ a i j, a < 8 → i < 64 → j < 64 → (u.clusterAt (clusterOf n)).accAt a i j =
            .ofNat 32 (natIn b (4 * (4096 * a + 64 * i + j)) 4)) ∧ u.mem = t.mem) ∧
      (doing c 6 → ∃ u, exec (.tenable n) s = .next u ∧ (u.clusterAt (clusterOf n)).enable = true ∧
        (u.clusterAt (clusterOf n)).cfg = 0x3F3F ∧ (∀ a i j, (u.clusterAt (clusterOf n)).accAt a i j = 0)) ∧
      (doing c 7 → ∃ u, exec (.tdisable n) s = .next u ∧ (u.clusterAt (clusterOf n)).enable = false)) ∧
    (c.win.cmdstat = 1 → 8 ≤ c.win.cmd → exec (.windowCommandDone n) s =
      .next (s.setCoreAt n { c with win := { c.win with cmd := 0, cmdstat := c.win.cmd - 8 } }))

/-- The rows of a trap window: the claims WindowWrites, WindowEffects. -/
def Obligations.TrapWindows : Prop :=
  Sys2Proof.Claims.WindowWrites ∧ Sys2Proof.Claims.WindowEffects

/-! ### The surveyor -/

/-- R224, R292: a core is no treadle that has come to an m.ld, m.st or m.ops, held or fetched, of which it would perform a
part first; one whose push waits performs none. -/
def Sys2Proof.Claims.inPlaceWhole (n : Nat) (s : State) : Prop :=
  kindOf n = .treadle → (s.coreAt n).push = none →
    ∀ t i lim, s.upcoming n = .run t i → (shortBody i lim).isNone = true

/-- R34, R35, R38, R377: a pre-emption request: a running core below its length is to shorten at the next row boundary
above its floor; one whose boundary is not below its length, and whose floor is 0, is to switch at its next length
instruction; one past such a boundary is switched out. A core that has not come to its switch by the bound is switched
out, its context saved whole and its slot empty; what a treadle performs first of an m.ld, m.st or m.ops, which is stopped
in place, is not stated here. -/
def Sys2Proof.Claims.Preemption : Prop :=
  ∀ (n f p : Nat) (r : Region) (s : State), s.launchOf n = some r → s.partOf n = some p → s.hub.power.trip = false →
    (s.partAt p).stopped = false →
    let c := s.coreAt n
    let b := if kindOf n = .treadle then 8 * (c.strip.floor.toNat / 8 + 1) else 32 * (c.strip.floor.toNat / 32 + 1)
    let s1 := if r.phase = .placed then s.updRegionAt p r.regid fun x => { x with phase := .vacating f } else s
    (c.run = .running → Wait.yields c.wait = false → (kindOf n = .hart → c.ident.lanes ≠ 0) →
      (b < c.strip.len.toNat → exec (.preemptRequest n f) s =
        .next (s1.setCoreAt n { c with preempt := some ⟨some b, f⟩ })) ∧
      (c.strip.len.toNat ≤ b → c.strip.floor.toNat = 0 → exec (.preemptRequest n f) s =
        .next (s1.setCoreAt n { c with preempt := some ⟨none, f⟩ })) ∧
      (c.strip.len.toNat ≤ b → c.strip.floor.toNat ≠ 0 → inPlaceWhole n s →
        exec (.preemptRequest n f) s = .next (s1.switchOut n true))) ∧
    (c.preempt ≠ none → c.rider = none → c.replies = [] → (c.run = .running → inPlaceWhole n s) →
      ∃ t, exec (.preemptFallback n) s = .next t ∧ (t.coreAt n).run = .absent ∧
      ∃ r', t.regionAt p r.regid = some r' ∧ ∃ v ∈ r'.saved, v.crew = c.ident.crew.toNat ∧ v.hidx = c.ident.hidx ∧
        v.core.x = c.x ∧ v.core.pc = c.pc ∧ v.core.strip = c.strip ∧ v.core.modes = c.modes ∧ v.core.vec = c.vec)

/-- R36, R351: a re-grant request: a hart whose strip fits the new grant takes it at its next length instruction; one
whose floor is below it is shortened to it first, with cause 7; else its launch is pre-empted. A raise that is still
open is taken in the same way. -/
def Sys2Proof.Claims.Regrants : Prop :=
  ∀ (n g base f p : Nat) (r : Region) (s : State), s.launchOf n = some r → s.partOf n = some p → kindOf n = .hart →
    (s.partAt p).stopped = false →
    let c := s.coreAt n
    (c.run ≠ .absent → c.ident.lanes ≠ 0 →
      (c.strip.len.toNat ≤ 16 * g → exec (.regrantRequest n g base f) s =
        .next (s.setCoreAt n { c with regrant := some ⟨g, base⟩ })) ∧
      (16 * g < c.strip.len.toNat → c.strip.floor.toNat < 16 * g → ∃ t, exec (.regrantRequest n g base f) s = .next t ∧
        (t.coreAt n).strip.len = .ofNat 32 (16 * g) ∧ (t.coreAt n).strip.ff = .ofNat 32 (16 * g) ∧
        (t.coreAt n).strip.fs = 7 ∧ (t.coreAt n).strip.floor = c.strip.floor ∧ (t.coreAt n).modes.stat.getLsbD 8 = true ∧
        (t.coreAt n).regrant = some ⟨g, base⟩ ∧ (t.coreAt n).pc = c.pc ∧ (t.coreAt n).x = c.x ∧
        (t.coreAt n).vec = c.vec) ∧
      (16 * g ≤ c.strip.floor.toNat → 16 * g < c.strip.len.toNat →
        exec (.regrantRequest n g base f) s = .next (s.vacateLaunch p r f))) ∧
    (s.raiseOpen p n = some (g, base) → exec (.laneRegrantRaise n g base) s =
      .next (s.setCoreAt n { c with regrant := some ⟨g, base⟩ }))

/-- R347, R348, R350, R382, R387: the surveyor's round over an online partition that is not stopped or held, with one
launch ready that fits, places it on the clusters chosen, or ends it where its saved tile state cannot be read; on a
partition that is stopped, held or not online it places nothing. -/
def Sys2Proof.Claims.Placement : Prop :=
  ∀ (p : Nat) (r : Region) (s : State),
    let q := s.partAt p
    let cs := (s.hub.clusterAtt.filter fun e => decide (e.2.part = p) && decide (e.2.state ≠ 0)).map fun e => e.1
    let s0 := cs.foldl (fun s c => s.reclamp p c) s
    (∀ w, q.stopped = false → q.recov.hold = false → q.state = 2 → readySet q.regions = [r] →
      s0.fitsWithout p r [] = some w →
      (r.tileLost = false → ∃ t r', exec (.placement p) s = .next t ∧ t.regionAt p r.regid = some r' ∧
        r'.phase = .placed ∧ r'.clusters = (w.map fun e => e.1) ∧ r'.started = true) ∧
      (r.tileLost = true → ∃ t, exec (.placement p) s = .next t ∧ t.regionAt p r.regid = none)) ∧
    (q.stopped = true ∨ q.recov.hold = true ∨ q.state ≠ 2 →
      ∃ t, exec (.placement p) s = .next t ∧ t.partAt p = q ∧ t.mem = s.mem ∧ t.agenda = s.agenda)

/-- The rows of pre-emption, re-grants and placement: the claims Preemption, Regrants, Placement. -/
def Obligations.SurveyorRows : Prop :=
  Sys2Proof.Claims.Preemption ∧ Sys2Proof.Claims.Regrants ∧ Sys2Proof.Claims.Placement

/-- R345, R346: a budget period's start sets every budget counter of every region to 0 at the next multiple of 64,000
ns; then the fault services that a spent budget held are charged, each one unit of BFLT, as far as the budget goes, a core
of a launch that has budget left goes on, and nothing else of a core changes. -/
def Sys2Proof.Claims.BudgetPeriods : Prop :=
  ∀ (s : State), ∃ t, exec .budgetPeriodStart s = .next t ∧
    t.hub.clock.time = (s.hub.clock.time / 64000 + 1) * 64000 ∧ t.mem = s.mem ∧
    (∀ n, { t.coreAt n with services := (s.coreAt n).services } = s.coreAt n ∧
      (t.coreAt n).services ≤ (s.coreAt n).services) ∧
    (∀ n p r, s.partOf n = some p → s.launchOf n = some r → t.budgetLeft p r.regid 3 = true →
      (t.coreAt n).services = 0 ∧ t.serviceHeld n = false) ∧
    (∀ p, ∀ r ∈ (t.partAt p).regions, ∃ k, r.used = [0, 0, 0, k, 0]) ∧
    ((∀ n, (s.coreAt n).services = 0) →
      (∀ p, ∀ r ∈ (s.partAt p).regions, ∀ c ∈ r.saved, c.core.services = 0) →
      ∀ p, ∀ r ∈ (t.partAt p).regions, r.used = [0, 0, 0, 0, 0])

/-- R242: a die's refresh is busy from its start to its end, and after it the next of 16 banks has its turn. -/
def Sys2Proof.Claims.RefreshTurns : Prop :=
  ∀ (die : Nat) (s : State),
    let r := s.refreshAt die
    (∃ t, exec (.refreshStart die) s = .next t ∧ t.refreshAt die = ⟨true, r.bank⟩ ∧ t.mem = s.mem) ∧
    (r.busy = true → ∃ t, exec (.refreshEnd die) s = .next t ∧ t.refreshAt die = ⟨false, (r.bank + 1) % 16⟩ ∧
      t.mem = s.mem)

/-- R352, R387: a gang's slice: before its start the launches in the way are displaced, beside those it has displaced
before, and asked to leave, and its clusters wait for its crews; at its start it is live, and each of its crews that does
not wait is on its cluster, or its launch has ended; a crew that waits, or that starts after the slice's start, is late; at
its end, of a partition that is not stopped, it is over, its launches are asked to leave, none is displaced for it any more,
and the next slice is one later; one that has ended without starting is passed over. A gang is known as long as it has a
launch. That clusters wait for their crews from GANG_PREEMPT on is the model's choice (log 30). -/
def Sys2Proof.Claims.GangSlices : Prop :=
  ∀ (p g : Nat) (low : Region) (rs : List Region) (s s1 : State), gangRegions (s.partAt p) g = low :: rs →
    let k := s.gangAt p g low
    let seats := s.gangSeats p k (low :: rs)
    let at0 := low.rcb.gstart + k.slice * low.rcb.gper
    let out := (displaceable (s.partAt p) g (topPrio (low :: rs))).filter fun r =>
      r.clusters.any (seats.map fun w => w.cluster).contains
    (k.live = false → 0 < low.rcb.gper → s.hub.clock.time < at0 + low.rcb.glen) ∧
    (s.surveyorIdle p = false → k.live = false →
      s.advanceTo (at0 - out.foldl (fun m r => max m (classBound r.rcb.lclass)) 0) = some s1 →
      ∃ t, exec (.gangPreempt p g) s = .next t ∧ (t.partAt p).gangs.find? (fun x => x.gang == k.gang) =
        some { k with seats := seats, waiting := seats
                      displaced := k.displaced ++ (out.map fun r => r.regid).filter fun i => !k.displaced.contains i } ∧
        ∀ r ∈ out, r.phase = .placed →
          (∃ r', t.regionAt p r.regid = some r' ∧ r'.phase = .vacating low.regid) ∧
          ∀ n ∈ s.coresOf p r.regid, Turn.event (.preemptRequest n low.regid) ∈ t.agenda) ∧
    (s.surveyorIdle p = false → k.live = false → s.advanceTo at0 = some s1 →
      ∃ t, exec (.gangSliceStart p g) s = .next t ∧ (gangRegions (t.partAt p) g = [] ∨
        ∃ k', (t.partAt p).gangs.find? (fun x => x.gang == k.gang) = some k' ∧
        k'.live = true ∧ k'.slice = k.slice ∧ k'.late = decide (at0 < s1.hub.clock.time) ∧
        (∀ w ∈ k'.waiting, w ∈ seats) ∧
        ∀ w ∈ seats, w ∉ k'.waiting → t.regionAt p w.regid = none ∨ ∃ r', t.regionAt p w.regid = some r' ∧
          r'.phase = .placed ∧ w.crew ∉ r'.fresh ∧ ∀ v ∈ r'.saved, v.crew ≠ w.crew)) ∧
    (∀ l w r s2, k.live = true → k.waiting.filter (fun x => x.crew == w.crew) = l ++ w :: r →
      (∀ x ∈ l, s.startGangCrew p x = none) → s.startGangCrew p w = some s2 →
      ∃ t, exec (.gangLateStart p g w.crew) s = .next t ∧ (gangRegions (t.partAt p) g = [] ∨
        ∃ k', (t.partAt p).gangs.find? (fun x => x.gang == k.gang) = some k' ∧ k'.late = true ∧ w ∉ k'.waiting)) ∧
    ((s.partAt p).stopped = true → exec (.gangSliceEnd p g) s = .next s) ∧
    (k.live = true → (s.partAt p).stopped = false → s.advanceTo (at0 + low.rcb.glen) = some s1 →
      ∃ t k', exec (.gangSliceEnd p g) s = .next t ∧ (t.partAt p).gangs.find? (fun x => x.gang == k.gang) = some k' ∧
        k'.live = false ∧ k'.slice = k.slice + 1 ∧ k'.waiting = [] ∧ k'.displaced = [] ∧
        ∀ r ∈ low :: rs, r.phase = .placed → ∃ r', t.regionAt p r.regid = some r' ∧ r'.phase = .vacating low.regid)

/-- The rows of budget periods, refresh and gang slices: the claims BudgetPeriods, RefreshTurns, GangSlices. -/
def Obligations.PeriodsAndGangs : Prop :=
  Sys2Proof.Claims.BudgetPeriods ∧ Sys2Proof.Claims.RefreshTurns ∧ Sys2Proof.Claims.GangSlices

/-! ### Resources, recovery, boot, the world outside -/

/-- R339, R340, R338: a draining cluster with no core placed, and a draining hub hart no online cluster names, go
offline; the scrub of an offline resource makes it unassigned and leaves zeros in its registers and memory, and its TLBs
empty. -/
def Sys2Proof.Claims.ResourcesDrainAndScrub : Prop :=
  ∀ (k : Nat) (s : State),
    ((s.attachAt (.cluster k)).state = 3 → s.clusterEmpty k = true →
      ∃ t, exec (.resourceDrained (.cluster k)) s = .next t ∧ (t.attachAt (.cluster k)).state = 1 ∧ t.mem = s.mem) ∧
    ((s.attachAt (.hubHart k)).state = 3 → s.hubNamed k = false →
      ∃ t, exec (.resourceDrained (.hubHart k)) s = .next t ∧ (t.attachAt (.hubHart k)).state = 1 ∧
        (t.coreAt (7200 + k)).run = .absent) ∧
    ((s.attachAt (.cluster k)).state = 1 → k < 800 →
      ∃ t, exec (.firmwareScrub (.cluster k)) s = .next t ∧ (t.attachAt (.cluster k)).state = 0 ∧
        t.clusterAt k = Cluster.scrubbed ∧ (∀ o, o < 3145728 → t.byteAt (scratchKey k o) = 0) ∧
        (∀ i, i < 9 → t.coreAt (9 * k + i) = Core.scrubbed) ∧
        ∀ e ∈ t.tlb, e.holder ≠ 10000 + k ∧ ∀ i, i < 9 → e.holder ≠ 9 * k + i ∧
          ∀ j, j < 16 → e.holder ≠ 20000 + 16 * (9 * k + i) + j) ∧
    ((s.attachAt (.hubHart k)).state = 1 →
      ∃ t, exec (.firmwareScrub (.hubHart k)) s = .next t ∧ (t.attachAt (.hubHart k)).state = 0 ∧
        t.coreAt (7200 + k) = Core.scrubbed ∧ (∀ e ∈ t.tlb, e.holder ≠ 7200 + k) ∧ t.mem = s.mem) ∧
    ((s.attachAt (.channel k)).state = 1 → k < 48 →
      ∃ t, exec (.firmwareScrub (.channel k)) s = .next t ∧ (t.attachAt (.channel k)).state = 0 ∧
        (∀ o, o < 6442450944 → t.byteAt (k * 6442450944 + o) = 0))

/-- R339, R338, R357, R6: a write of ROOT of a plat entry that is not online sets it at H; at S, and of an entry that is
online, it is ignored; a write of a register outside the plat is no plat write. SEL of the budget window, written by a
register write or by its row, is the region whose counters it shows; a write of the window's other fields, or of the power
status register, is ignored. -/
def Sys2Proof.Claims.DeviceWrites : Prop :=
  ∀ (p size : Nat) (level : Level) (part : Option Nat) (v : Word) (s : State), p < 16 →
    ((s.partAt p).state ≠ 2 → ∃ t, exec (.platWrite .h part (0xF000000100000 + 512 * p + 8) 8 v) s = .next t ∧
      (t.partAt p).root = v ∧ (t.partAt p).state = (s.partAt p).state ∧ t.mem = s.mem) ∧
    ((s.partAt p).state = 2 → exec (.platWrite .h part (0xF000000100000 + 512 * p + 8) 8 v) s = .next s) ∧
    (exec (.platWrite .s part (0xF000000100000 + 512 * p + 8) 8 v) s = .next s) ∧
    (exec (.platWrite .h part 0xF000001501000 8 v) s = .next s) ∧
    (∃ t, exec (.deviceRegisterWrite .s (some p) (0xF000001480000 + 64 * p) 8 v) s = .next t ∧
      (t.partAt p).snap.sel = v ∧ exec (.budgetSnapshot p v) s = .next t) ∧
    (exec (.deviceRegisterWrite level part (0xF000001480000 + 64 * p + 8) size v) s = .next s) ∧
    (exec (.deviceRegisterWrite level part 0xF000001502004 size v) s = .next s)

/-- Draining, scrubbing, and writes of the plat and the budget window: the claims ResourcesDrainAndScrub, DeviceWrites.
-/
def Obligations.ResourceRows : Prop :=
  Sys2Proof.Claims.ResourcesDrainAndScrub ∧ Sys2Proof.Claims.DeviceWrites

/-- R398, R399, R347: HOLD leaves no launch placed; QUIET comes with HOLD once every context is saved; a save leaves its
status and, with status 0, an image of the regions; a restore brings back the regions of the image whose bytes stand at IMG,
one that this package has saved (known by its bytes: DEDUCED, log 21) or that another has (DESIGN CHOICE, log 21: a free
function of the bytes says what it holds), its launches ready, none behind those to come; a command's end shows its
status. -/
def Sys2Proof.Claims.RecoveryCommands : Prop :=
  ∀ (p : Nat) (s : State),
    let r := (s.partAt p).recov
    (∃ t, exec (.recoveryHold p true) s = .next t ∧ (t.partAt p).recov = { r with hold := true } ∧ t.mem = s.mem ∧
      (∀ x ∈ (t.partAt p).regions, x.phase ≠ .placed)) ∧
    (∃ t, exec (.recoveryHold p false) s = .next t ∧ (t.partAt p).recov = { r with hold := false, quiet := false } ∧
      t.mem = s.mem) ∧
    (r.hold = true → s.busyRegions p = false →
      ∃ t, exec (.recoveryQuiet p) s = .next t ∧ (t.partAt p).recov = { r with quiet := true }) ∧
    (∀ t k, r.stat = 1 → r.cmd = 1 → s.saveImage p = (t, k) → ∃ u, exec (.recoverySave p) s = .next u ∧ u.mem = t.mem ∧
      (u.partAt p).recov.cmd = 8 + k ∧ (k = 0 → ∃ im, u.hub.images.head? = some im ∧
        (u.partAt p).recov.size = im.size ∧ im.regions = (s.partAt p).regions)) ∧
    (∀ t, r.stat = 1 → r.cmd = 2 → s.restoreImage p = (t, 0) → ∃ u im, exec (.recoveryRestore p) s = .next u ∧
      ((im ∈ s.hub.images ∧ s.imageAt (s.partAt p) r.img.toNat im = true) ∨
        ((∀ x ∈ s.hub.images, s.imageAt (s.partAt p) r.img.toNat x = false) ∧ im.sound = true ∧
          ∃ t1 t2 head bs, s.physRead (s.partAt p) r.img.toNat 64 = (t1, .ok head) ∧
            t1.physRead (s.partAt p) r.img.toNat (Config.foreignSize head) = (t2, .ok bs) ∧
            Config.foreignImage bs = some im)) ∧
      (u.partAt p).regions.map (fun x => x.regid) = (im.regions.map fun x => x.regid) ∧
      ∀ x ∈ (u.partAt p).regions, x.rcb.launch = true → x.phase = .ready ∧ x.order ≤ (u.partAt p).readySeq) ∧
    (r.stat = 1 → 8 ≤ r.cmd → ∃ t, exec (.recoveryCommandDone p) s = .next t ∧
      (t.partAt p).recov = { r with cmd := 0, stat := r.cmd % 8 })

/-- R388, R390, R391, R387, R397: a host access within a VF's device memory reads or writes it; any other is an
unsupported request; a VF's reset stops its partition and is reported; a PF's empties the mailbox and is reported. A
write to the PF's BAR0 changes nothing, and a read of its mirror shows the hub counter block (DESIGN CHOICE, log 13: where
the mirror lies is free, and the number 16 stands for the PF). -/
def Sys2Proof.Claims.HostAccess : Prop :=
  ∀ (vf off size : Nat) (v : Word) (s : State), vf ≠ 16 →
    (∀ p t, s.partOfVf vf = some p → off + size ≤ (s.partAt p).nch * 6442450944 →
      s.physWrite (s.partAt p) off (leBytes size v.toNat) = (t, .ok ()) →
      exec (.hostWrite vf off size v) s = .next t) ∧
    (∀ p t bs, s.partOfVf vf = some p → off + size ≤ (s.partAt p).nch * 6442450944 →
      s.physRead (s.partAt p) off size = (t, .ok bs) →
      exec (.hostRead vf off size) s = .next { t with hostAns := t.hostAns ++ [.data vf off size (leNat bs)] }) ∧
    ((∀ p, s.partOfVf vf = some p → (s.partAt p).nch * 6442450944 < off + size) →
      exec (.hostRead vf off size) s = .next { s with hostAns := s.hostAns ++ [.unsupported vf off] } ∧
      exec (.hostWrite vf off size v) s = .next { s with hostAns := s.hostAns ++ [.unsupported vf off] }) ∧
    (∀ p, s.partOfVf vf = some p → ∃ t, exec (.vfFlr vf) s = .next t ∧ (t.partAt p).stopped = true ∧ t.mem = s.mem ∧
      t.hub.mailbox = s.hub.mailbox ++ [.partitionStop p, .flr (some vf)]) ∧
    (s.partOfVf vf = none → ∃ t, exec (.vfFlr vf) s = .next t ∧ t.parts = s.parts ∧ t.cores = s.cores ∧
      t.hub.mailbox = s.hub.mailbox ++ [.flr (some vf)]) ∧
    (∃ t, exec .pfFlr s = .next t ∧ t.hub.mailbox = [.flr none] ∧ t.cores = s.cores ∧ t.mem = s.mem) ∧
    (off + size ≤ 16777216 → exec (.hostWrite 16 off size v) s = .next s) ∧
    (16777216 < off + size → exec (.hostRead 16 off size) s =
      .next { s with hostAns := s.hostAns ++ [.unsupported 16 off] }) ∧
    (∀ q, q < 16 → off = Config.mirrorBase + 0x800 + 32 * q → exec (.hostRead 16 off 8) s = .next
      { s with hostAns := s.hostAns ++ [.data 16 off 8 (s.hub.ports.get Port.reset q).rawb.toNat] })

/-- R404 to R406, R340: a package reset keeps LPDDR-6 and the weight stores, leaves every other byte zero and every other
core without a program, and, where firmware runs, clusters and hub harts scrubbed; in recovery an accepted image runs,
another is reported; an attestation with leaves left is reported with the measurements and a fresh leaf; the minimum
version never falls. That a reset without firmware leaves other bytes 0, that images stay known through it, and that the
recovery image is stored as slot A are the model's choices (logs 7, 21, 15). -/
def Sys2Proof.Claims.Boot : Prop :=
  ∀ (s : State),
    (∃ t, exec .packageReset s = .next t ∧
      (∀ k, t.byteAt k = if 2 ^ 48 ≤ k ∧ k < 3 * 2 ^ 48 then s.byteAt k else 0) ∧
      (∀ n, n ≠ 7200 → (t.coreAt n).run = .absent) ∧ (t.coreAt 7200).run = .running ∧ (∀ p, t.partAt p = Part.free) ∧
      t.tlb = [] ∧ t.hub.images = s.hub.images ∧ t.hub.firmware.minVersion = s.hub.firmware.minVersion ∧
      (t.hub.firmware.running ≠ none → (∀ c, c < 800 → t.clusterAt c = Cluster.scrubbed) ∧
        ∀ n, n < 7232 → n ≠ 7200 → t.coreAt n = Core.scrubbed)) ∧
    (∀ i, s.hub.firmware.recovery = false → exec (.recoveryImageLoad i) s = .next s) ∧
    (∀ i, s.hub.firmware.recovery = true → ∃ t, exec (.recoveryImageLoad i) s = .next t ∧
      if s.hub.firmware.accepts i then t.hub.firmware.running = some i ∧ t.hub.firmware.slotA = i ∧
        t.hub.mailbox = s.hub.mailbox ++ [.imageAccepted i]
      else t.hub.firmware = s.hub.firmware ∧ t.hub.mailbox = s.hub.mailbox ++ [.imageRefused i]) ∧
    (∀ nonce, s.hub.firmware.lowerLeaf < 1024 → ∃ t vs pl e l, exec (.attestationRequest nonce) s = .next t ∧
      t.hub.firmware.lowerLeaf = s.hub.firmware.lowerLeaf + 1 ∧
      t.hub.mailbox = s.hub.mailbox ++ [.attestation nonce s.hub.firmware.meas vs pl e l] ∧ t.mem = s.mem) ∧
    (∀ v, s.hub.firmware.running ≠ none → ∃ t, exec (.securityVersionRaise v) s = .next t ∧
      t.hub.firmware.minVersion = max s.hub.firmware.minVersion v)

/-- The recovery block's rows, package reset, boot, attestation and versions: the claims RecoveryCommands, Boot. -/
def Obligations.RecoveryAndBoot : Prop :=
  Sys2Proof.Claims.RecoveryCommands ∧ Sys2Proof.Claims.Boot

/-- R393, R396, R358: a flit resent 16 times in a row brings its port down, which is reported; retraining brings it up;
a time message shows its offset, and locks within its bound. -/
def Sys2Proof.Claims.PortsAndTime : Prop :=
  ∀ (p : Nat) (s : State),
    let v := s.hub.ports.get Port.reset p
    (v.down = false → ∃ t, exec (.flitResend p) s = .next t ∧ t.hub.ports.get Port.reset p =
        (if v.resends + 1 < 16 then { v with resends := v.resends + 1 } else { v with resends := 0, down := true }) ∧
      t.hub.mailbox = s.hub.mailbox ++ (if v.resends + 1 < 16 then [] else [.portDown p])) ∧
    (∃ t, exec (.loomPortRetrain p) s = .next t ∧
      t.hub.ports.get Port.reset p = { v with resends := 0, down := false }) ∧
    (∀ offs eth, ∃ t, exec (.timeMessage offs eth) s = .next t ∧ t.hub.clock.offs = offs ∧ t.hub.clock.src = eth ∧
      t.hub.clock.lock = (s.hub.clock.lock || decide (offs.toInt.natAbs ≤ if eth then 1000 else 100)))

/-- R408, R409, R410, R359: a power cap of 800 to 2,400 W is taken; the duty falls, to no less than 4, above the cap or
105 °C, and rises, to no more than 8, otherwise; a trip, at 115 °C or more, stops issue and is reported, and ends below
100 °C with a duty of 4 to 8; a health update gives a die's block its values and its time. -/
def Sys2Proof.Claims.PowerAndHealth : Prop :=
  ∀ (s : State),
    let w := s.hub.power
    (∀ n, 800 ≤ n → n ≤ 2400 → exec (.powerCapSet n) s =
      .next { s with hub := { s.hub with power := { w with pl := n } } }) ∧
    (∀ watts celsius, w.trip = false → 4 ≤ w.duty → w.duty ≤ 8 → celsius < 115 →
      ∃ t, exec (.throttleAdjust watts celsius) s = .next t ∧ t.hub.power.trip = false ∧
      t.hub.power.pwr = watts ∧ t.hub.power.tj = celsius ∧ 4 ≤ t.hub.power.duty ∧ t.hub.power.duty ≤ 8 ∧
      (w.pl < watts ∨ 105 < celsius → w.duty ≠ 4 → t.hub.power.duty < w.duty) ∧
      (watts ≤ w.pl → celsius ≤ 105 → w.duty ≠ 8 → w.duty < t.hub.power.duty)) ∧
    (∀ watts celsius, w.trip = false → 115 ≤ celsius → ∃ t, exec (.throttleAdjust watts celsius) s = .next t ∧
      t.hub.power.trip = true ∧ t.hub.power.duty = 0 ∧ t.hub.power.tj = celsius ∧
      t.hub.mailbox = s.hub.mailbox ++ [.trip]) ∧
    (w.trip = false → ∃ t, exec .thermalTrip s = .next t ∧ t.hub.power.trip = true ∧ t.hub.power.duty = 0 ∧
      t.hub.power.trips = w.trips + 1 ∧ t.hub.mailbox = s.hub.mailbox ++ [.trip] ∧ t.cores = s.cores) ∧
    (w.trip = true → w.tj < 100 → ∃ t, exec .tripEnd s = .next t ∧ t.hub.power.trip = false ∧ 4 ≤ t.hub.power.duty ∧
      t.hub.power.duty ≤ 8 ∧ t.mem = s.mem) ∧
    (100 ≤ w.tj → exec .tripEnd s = .next s) ∧
    (∀ die drift margin eye0 eye1 eol, ∃ t, exec (.healthUpdate die drift margin eye0 eye1 eol) s = .next t ∧
      let v := t.hub.health.get Health.reset die
      v.drift = drift ∧ v.margin = margin ∧ v.eye0 = eye0 ∧ v.eye1 = eye1 ∧ v.eol = eol ∧
      v.updated = .ofNat 64 t.hub.clock.time ∧ v.wscorr = (s.hub.health.get Health.reset die).wscorr)

/-- Ports, time messages, power, trips and health: the claims PortsAndTime, PowerAndHealth. -/
def Obligations.PortsPowerAndHealth : Prop :=
  Sys2Proof.Claims.PortsAndTime ∧ Sys2Proof.Claims.PowerAndHealth

/-- R308, R394: a peer's command to a region that is there of a partition that is not stopped performs its elements and answers with their count, and a get
with their values; to one that is not there it answers none and permission. The answer of a get leaves by no loom port of
the domain where the peer is outside it. -/
def Sys2Proof.Claims.PeerCommands : Prop :=
  ∀ (q : FabricReq) (s : State), (q.kind ≠ .get ∨ Config.peerInDomain q.peer = false) →
    (s.partAt q.part).stopped = false →
    (s.regionAt q.part q.regid = none →
      exec (.fabricRequestReceive q) s = .next { s with fabOut := s.fabOut ++ [.answer 0 2 []] }) ∧
    (∀ r t l, s.regionAt q.part q.regid = some r →
      peerElems q ⟨7200, some q.part, r.rcb.fasid, .u, some r.rcb.wsmask, .device⟩ q.count 0 s = (t, l, none) →
      exec (.fabricRequestReceive q) s = .next { t with
        fabOut := t.fabOut ++ [.answer q.count 0 (if q.kind = .get then l else [])] })

/-- The host's and a peer's accesses: the claims HostAccess, PeerCommands. -/
def Obligations.HostAndPeerAccess : Prop :=
  Sys2Proof.Claims.HostAccess ∧ Sys2Proof.Claims.PeerCommands

/-! ## Invariants -/

/-- Memory stays in its canonical form (keys rise, and no listed byte is what an unlisted one reads as) through every
step, from every state in which it is so. -/
def Obligations.MemoryStaysCanonical : Prop :=
  ∀ (s t : State), s.canonical → step s = .next t → t.canonical

namespace Sys2Proof.Claims

/-- R15, R110: a core's strip lengths stand in order, the floor at or below the length and that at or below the length
granted; a core of a cluster (a number below 7200) is at level U. -/
def coreInOrder (n : Nat) (c : Core) : Prop :=
  c.strip.floor.toNat ≤ c.strip.len.toNat ∧ c.strip.len.toNat ≤ c.strip.granted.toNat ∧ (n < 7200 → c.level = .u)

/-- The same of every core the machine holds: those on the package, those saved in a partition's region table, and those
in the images it knows. -/
def coresInOrder (s : State) : Prop :=
  (∀ e ∈ s.cores, coreInOrder e.1 e.2) ∧
  (∀ e ∈ s.parts, ∀ r ∈ e.2.regions, ∀ c ∈ r.saved, coreInOrder 0 c.core) ∧
  ∀ m ∈ s.hub.images, ∀ r ∈ m.regions, ∀ c ∈ r.saved, coreInOrder 0 c.core

/-- R27, R214: the instructions that may raise the floor: the stores, scatters and atomics of a strip and its loads (those
from an I/O page), and the tile instructions that write an accumulator or memory. -/
def mayRaiseFloor (i : Instr) : Bool := match i with
  | .vldUn .. | .vldSd .. | .vldX .. | .vldSm .. | .qldUn .. | .qldSd .. | .vstUn .. | .vstSd .. | .vstX .. | .vstXa ..
  | .vstSm .. | .vstQun .. | .vstQsd .. | .vamAdd .. | .vamMin .. | .vamMax .. | .vamAnd .. | .vamOr .. | .vamXor ..
  | .vamSwap .. | .mZero .. | .mOp .. | .mOpc .. | .mOps .. | .mLd .. | .mSt .. => true
  | _ => false

end Sys2Proof.Claims

/-- R15, R110: in every core that State.reset, any step from a state in which it is so, and so any run from reset, leaves
or saves, vfl ≤ vl ≤ vg (kfl ≤ kl ≤ kg on a treadle), and the cores of clusters are at level U. -/
def Obligations.StripLengthsHold : Prop :=
  coresInOrder State.reset ∧ ∀ (s t : State), coresInOrder s → step s = .next t → coresInOrder t

/-- R15, R27, R130: what an instruction of a running core does to its strip, when the core is still there after it: an
instruction that starts no strip and releases none leaves the granted length, never raises the length and never lowers the
floor, and raises the floor only if it is one of R27 and R214; ln.set and ln.shuttle leave all three or start a strip with
the length granted and floor 0. -/
def Sys2Proof.Claims.StripRules : Prop :=
  ∀ (i : Instr) (s t : State), encodeWords i ≠ [] → s.core.run = .running → (s.cur < 7200 → s.core.level = .u) →
    exec i s = .next t → t.core.run ≠ .absent →
    let c := s.core.strip
    let e := t.core.strip
    match i with
    | .lnSet .. | .lnShuttle .. =>
      (e.len = c.len ∧ e.granted = c.granted ∧ e.floor = c.floor) ∨ (e.len = e.granted ∧ e.floor = 0)
    | .lnRel => (e.len = c.len ∧ e.granted = c.granted ∧ e.floor = c.floor) ∨ (e.len = 0 ∧ e.granted = 0 ∧ e.floor = 0)
    | _ => e.granted = c.granted ∧ e.len.toNat ≤ c.len.toNat ∧ c.floor.toNat ≤ e.floor.toNat ∧
      (e.floor ≠ c.floor → mayRaiseFloor i = true)

/-- R6, R369, R373: an instruction of a running hub hart raises its level only by taking an exception: the level's status
then has BUSY 1 and the level before in PLV, its epc the instruction's address, and the pc is its handler. -/
def Sys2Proof.Claims.LevelRisesByTrap : Prop :=
  ∀ (i : Instr) (s t : State), encodeWords i ≠ [] → s.core.run = .running → s.core.rider = none →
    (s.cur < 7200 → s.core.level = .u) → exec i s = .next t → t.core.run ≠ .absent →
    levelCode s.core.level < levelCode t.core.level →
    let r := regsOf t.core t.core.level
    r.stat.getLsbD 7 = true ∧ r.stat.toNat / 16 % 4 = levelCode s.core.level ∧ r.epc = s.core.pc ∧ t.core.pc = r.vec

/-- What no instruction does to a strip, and no instruction but by a trap to a level: the claims StripRules,
LevelRisesByTrap. -/
def Obligations.StripAndLevelRules : Prop :=
  Sys2Proof.Claims.StripRules ∧ Sys2Proof.Claims.LevelRisesByTrap
end

