-- ==== Sys2Proof/Laws/Tbl.lean ====
section
/-!
SUPPORT. Laws/Tbl.lean: reading after writing, and the canonical form, of sparse tables.
-/

namespace Sys2Proof.Machine

variable {α : Type}

theorem Tbl.get_del_same (dflt : α) (t : Tbl α) (k : Nat) : (t.del k).get dflt k = dflt := by
  induction t with
  | nil => rfl
  | cons e t ih =>
    obtain ⟨k', v⟩ := e
    simp only [Tbl.del]
    split
    · exact ih
    · rename_i h
      simp [Tbl.get, h, ih]

theorem Tbl.get_del_other (dflt : α) (t : Tbl α) {k k' : Nat} (h : k' ≠ k) :
    (t.del k).get dflt k' = t.get dflt k' := by
  induction t with
  | nil => rfl
  | cons e t ih =>
    obtain ⟨k'', v⟩ := e
    simp only [Tbl.del]
    split
    · rename_i h2
      subst h2
      simp [Tbl.get, h, ih]
    · simp [Tbl.get, ih]

theorem Tbl.get_ins_same (dflt : α) (t : Tbl α) (k : Nat) (v : α) (h : ∀ e ∈ t, e.1 ≠ k) :
    (t.ins k v).get dflt k = v := by
  induction t with
  | nil => simp [Tbl.ins, Tbl.get]
  | cons e t ih =>
    obtain ⟨k', v'⟩ := e
    have hk : k ≠ k' := fun hc => h (k', v') (List.mem_cons_self ..) hc.symm
    simp only [Tbl.ins]
    split
    · simp [Tbl.get]
    · simp [Tbl.get, hk, ih (fun e he => h e (List.mem_cons_of_mem _ he))]

theorem Tbl.get_ins_other (dflt : α) (t : Tbl α) {k k' : Nat} (v : α) (h : k' ≠ k) :
    (t.ins k v).get dflt k' = t.get dflt k' := by
  induction t with
  | nil => simp [Tbl.ins, Tbl.get, h]
  | cons e t ih =>
    obtain ⟨k'', v''⟩ := e
    simp only [Tbl.ins]
    split
    · simp [Tbl.get, h]
    · simp [Tbl.get, ih]

theorem Tbl.mem_del {t : Tbl α} {k : Nat} {e : Nat × α} (h : e ∈ t.del k) : e.1 ≠ k ∧ e ∈ t := by
  induction t with
  | nil => simp [Tbl.del] at h
  | cons e' t ih =>
    obtain ⟨k', v⟩ := e'
    simp only [Tbl.del] at h
    split at h
    · exact ⟨(ih h).1, List.mem_cons_of_mem _ (ih h).2⟩
    · rename_i hk
      rcases List.mem_cons.1 h with rfl | h
      · exact ⟨fun hc => hk hc.symm, List.mem_cons_self ..⟩
      · exact ⟨(ih h).1, List.mem_cons_of_mem _ (ih h).2⟩

@[simp] theorem Tbl.get_put_same (dflt : α) (t : Tbl α) (k : Nat) (v : α) : (t.put k v).get dflt k = v :=
  Tbl.get_ins_same dflt _ k v fun _ he => (Tbl.mem_del he).1

theorem Tbl.get_put_other (dflt : α) (t : Tbl α) {k k' : Nat} (v : α) (h : k' ≠ k) :
    (t.put k v).get dflt k' = t.get dflt k' := by
  rw [Tbl.put, Tbl.get_ins_other dflt _ v h, Tbl.get_del_other dflt t h]

@[simp] theorem Tbl.get_set_same [DecidableEq α] (dflt : α) (t : Tbl α) (k : Nat) (v : α) :
    (t.set dflt k v).get dflt k = v := by
  unfold Tbl.set
  split
  · rename_i h
    rw [Tbl.get_del_same, h]
  · simp

theorem Tbl.get_set_other [DecidableEq α] (dflt : α) (t : Tbl α) {k k' : Nat} (v : α) (h : k' ≠ k) :
    (t.set dflt k v).get dflt k' = t.get dflt k' := by
  unfold Tbl.set
  split
  · exact Tbl.get_del_other dflt t h
  · exact Tbl.get_put_other dflt t v h

theorem Tbl.get_set [DecidableEq α] (dflt : α) (t : Tbl α) (k k' : Nat) (v : α) :
    (t.set dflt k v).get dflt k' = if k' = k then v else t.get dflt k' := by
  split
  · rename_i h
    rw [h, Tbl.get_set_same]
  · rename_i h
    exact Tbl.get_set_other dflt t v h

/-- A key below every key of a well-formed table may head it. -/
theorem Tbl.wf_cons [DecidableEq α] (dflt : α) (k : Nat) (v : α) (t : Tbl α) :
    Tbl.wf dflt ((k, v) :: t) = true ↔ v ≠ dflt ∧ (∀ e ∈ t, k < e.1) ∧ Tbl.wf dflt t = true := by
  induction t generalizing k v with
  | nil => simp [Tbl.wf]
  | cons e t ih =>
    obtain ⟨k', v'⟩ := e
    simp only [Tbl.wf, Bool.and_eq_true, decide_eq_true_eq]
    constructor
    · rintro ⟨⟨h1, h2⟩, h3⟩
      refine ⟨h1, ?_, h3⟩
      intro e he
      rcases List.mem_cons.1 he with rfl | he
      · exact h2
      · exact Nat.lt_trans h2 (((ih k' v').1 h3).2.1 e he)
    · rintro ⟨h1, h2, h3⟩
      exact ⟨⟨h1, h2 (k', v') (List.mem_cons_self ..)⟩, h3⟩

theorem Tbl.wf_del [DecidableEq α] (dflt : α) (t : Tbl α) (k : Nat) (h : Tbl.wf dflt t = true) :
    Tbl.wf dflt (t.del k) = true := by
  induction t with
  | nil => exact h
  | cons e t ih =>
    obtain ⟨k', v⟩ := e
    obtain ⟨h1, h2, h3⟩ := (Tbl.wf_cons dflt k' v t).1 h
    simp only [Tbl.del]
    split
    · exact ih h3
    · exact (Tbl.wf_cons dflt k' v _).2 ⟨h1, fun e he => h2 e (Tbl.mem_del he).2, ih h3⟩

theorem Tbl.mem_ins {t : Tbl α} {k : Nat} {v : α} {e : Nat × α} (h : e ∈ t.ins k v) : e = (k, v) ∨ e ∈ t := by
  induction t with
  | nil => exact Or.inl (List.mem_singleton.1 h)
  | cons e' t ih =>
    obtain ⟨k', v'⟩ := e'
    simp only [Tbl.ins] at h
    split at h
    · rcases List.mem_cons.1 h with rfl | h
      · exact Or.inl rfl
      · exact Or.inr h
    · rcases List.mem_cons.1 h with rfl | h
      · exact Or.inr (List.mem_cons_self ..)
      · exact (ih h).imp id (List.mem_cons_of_mem _)

theorem Tbl.wf_ins [DecidableEq α] (dflt : α) (t : Tbl α) (k : Nat) (v : α) (hv : v ≠ dflt)
    (hk : ∀ e ∈ t, e.1 ≠ k) (h : Tbl.wf dflt t = true) : Tbl.wf dflt (t.ins k v) = true := by
  induction t with
  | nil => simp [Tbl.ins, Tbl.wf, hv]
  | cons e t ih =>
    obtain ⟨k', v'⟩ := e
    obtain ⟨h1, h2, h3⟩ := (Tbl.wf_cons dflt k' v' t).1 h
    simp only [Tbl.ins]
    split
    · rename_i hlt
      refine (Tbl.wf_cons dflt k v _).2 ⟨hv, ?_, h⟩
      intro e he
      rcases List.mem_cons.1 he with rfl | he
      · exact hlt
      · exact Nat.lt_trans hlt (h2 e he)
    · rename_i hlt
      have hne : k' ≠ k := hk (k', v') (List.mem_cons_self ..)
      refine (Tbl.wf_cons dflt k' v' _).2 ⟨h1, ?_, ih (fun e he => hk e (List.mem_cons_of_mem _ he)) h3⟩
      intro e he
      rcases Tbl.mem_ins he with rfl | he
      · simp only []
        omega
      · exact h2 e he

/-- Writing keeps the canonical form. -/
theorem Tbl.wf_set [DecidableEq α] (dflt : α) (t : Tbl α) (k : Nat) (v : α) (h : Tbl.wf dflt t = true) :
    Tbl.wf dflt (t.set dflt k v) = true := by
  unfold Tbl.set
  split
  · exact Tbl.wf_del dflt t k h
  · rename_i hv
    exact Tbl.wf_ins dflt _ k v hv (fun _ he => (Tbl.mem_del he).1) (Tbl.wf_del dflt t k h)

theorem Tbl.wf_setRange [DecidableEq α] (dflt : α) (t : Tbl α) (k : Nat) (vs : List α)
    (h : Tbl.wf dflt t = true) : Tbl.wf dflt (t.setRange dflt k vs) = true := by
  induction vs generalizing t k with
  | nil => exact h
  | cons v vs ih => exact ih _ _ (Tbl.wf_set dflt t k v h)

theorem Tbl.wf_clear [DecidableEq α] (dflt : α) (t : Tbl α) (lo hi : Nat) (h : Tbl.wf dflt t = true) :
    Tbl.wf dflt (t.clear lo hi) = true := by
  induction t with
  | nil => exact h
  | cons e t ih =>
    obtain ⟨k, v⟩ := e
    obtain ⟨h1, h2, h3⟩ := (Tbl.wf_cons dflt k v t).1 h
    by_cases hp : (decide (k < lo) || decide (hi ≤ k)) = true
    · simp only [Tbl.clear, List.filter_cons, hp, if_true]
      exact (Tbl.wf_cons dflt k v _).2 ⟨h1, fun e he => h2 e (List.mem_filter.1 he).1, ih h3⟩
    · simp only [Tbl.clear, List.filter_cons, hp]
      exact ih h3

theorem Tbl.get_setRange_other [DecidableEq α] (dflt : α) (t : Tbl α) (k k' : Nat) (vs : List α)
    (h : k' < k ∨ k + vs.length ≤ k') : (t.setRange dflt k vs).get dflt k' = t.get dflt k' := by
  induction vs generalizing t k with
  | nil => rfl
  | cons v vs ih =>
    simp only [List.length_cons] at h
    rw [Tbl.setRange, ih _ _ (by omega), Tbl.get_set_other dflt t v (by omega)]

theorem Tbl.del_del (t : Tbl α) (k : Nat) : (t.del k).del k = t.del k := by
  induction t with
  | nil => rfl
  | cons e t ih =>
    obtain ⟨k', v⟩ := e
    simp only [Tbl.del]
    split
    · exact ih
    · rename_i h
      simp [Tbl.del, h, ih]

theorem Tbl.del_ins (t : Tbl α) (k : Nat) (v : α) : (t.ins k v).del k = t.del k := by
  induction t with
  | nil => simp [Tbl.ins, Tbl.del]
  | cons e t ih =>
    obtain ⟨k', v'⟩ := e
    simp only [Tbl.ins]
    split
    · simp [Tbl.del]
    · simp only [Tbl.del, ih]

/-- The second of two values put at one key stands. -/
@[simp] theorem Tbl.put_put (t : Tbl α) (k : Nat) (v w : α) : (t.put k v).put k w = t.put k w := by
  simp only [Tbl.put, Tbl.del_ins, Tbl.del_del]

/-- Consecutive keys read back what was written to them. -/
theorem Tbl.get_setRange [DecidableEq α] (dflt : α) (t : Tbl α) (k i : Nat) (vs : List α) (h : i < vs.length) :
    (t.setRange dflt k vs).get dflt (k + i) = vs[i] := by
  induction vs generalizing t k i with
  | nil => exact absurd h (Nat.not_lt_zero _)
  | cons v vs ih =>
    cases i with
    | zero => rw [Tbl.setRange, Tbl.get_setRange_other dflt _ _ _ vs (Or.inl (by omega))]; simp
    | succ i =>
      have h' : i < vs.length := by simpa using h
      rw [Tbl.setRange, show k + (i + 1) = k + 1 + i by omega, ih _ _ i h']
      rfl

theorem Tbl.wf_filter [DecidableEq α] (dflt : α) (t : Tbl α) (p : Nat × α → Bool) (h : Tbl.wf dflt t = true) :
    Tbl.wf dflt (t.filter p) = true := by
  induction t with
  | nil => exact h
  | cons e t ih =>
    obtain ⟨k, v⟩ := e
    obtain ⟨h1, h2, h3⟩ := (Tbl.wf_cons dflt k v t).1 h
    rw [List.filter_cons]
    split
    · exact (Tbl.wf_cons dflt k v _).2 ⟨h1, fun e he => h2 e (List.mem_filter.1 he).1, ih h3⟩
    · exact ih h3

theorem Tbl.getRange_length (dflt : α) (t : Tbl α) (k n : Nat) : (t.getRange dflt k n).length = n := by
  induction n generalizing k with
  | zero => rfl
  | succ n ih => simp [Tbl.getRange, ih]

/-- A range written reads back whole. -/
theorem Tbl.getRange_setRange [DecidableEq α] (dflt : α) (t : Tbl α) (k : Nat) (vs : List α) :
    (t.setRange dflt k vs).getRange dflt k vs.length = vs := by
  induction vs generalizing t k with
  | nil => rfl
  | cons v vs ih =>
    have h := Tbl.get_setRange dflt t k 0 (v :: vs) (by simp)
    simp only [Nat.add_zero, List.getElem_cons_zero] at h
    rw [List.length_cons, Tbl.getRange, h, Tbl.setRange, ih]

end Sys2Proof.Machine
end

