-- ==== Sys2Proof/Laws/State.lean ====
section
/-!
SUPPORT. Laws/State.lean: what each update of the state leaves alone, field by field.
-/

namespace Sys2Proof.Machine

variable (s : State)

@[simp] theorem State.setCoreAt_cur (n : Nat) (c : Core) : (s.setCoreAt n c).cur = s.cur := rfl
@[simp] theorem State.setCoreAt_agenda (n : Nat) (c : Core) : (s.setCoreAt n c).agenda = s.agenda := rfl
@[simp] theorem State.setCoreAt_free (n : Nat) (c : Core) : (s.setCoreAt n c).free = s.free := rfl
@[simp] theorem State.setCoreAt_clusters (n : Nat) (c : Core) : (s.setCoreAt n c).clusters = s.clusters := rfl
@[simp] theorem State.setCoreAt_parts (n : Nat) (c : Core) : (s.setCoreAt n c).parts = s.parts := rfl
@[simp] theorem State.setCoreAt_mem (n : Nat) (c : Core) : (s.setCoreAt n c).mem = s.mem := rfl
@[simp] theorem State.setCoreAt_hub (n : Nat) (c : Core) : (s.setCoreAt n c).hub = s.hub := rfl
@[simp] theorem State.setCoreAt_tlb (n : Nat) (c : Core) : (s.setCoreAt n c).tlb = s.tlb := rfl
@[simp] theorem State.setCoreAt_walks (n : Nat) (c : Core) : (s.setCoreAt n c).walks = s.walks := rfl
@[simp] theorem State.setCoreAt_hostOut (n : Nat) (c : Core) : (s.setCoreAt n c).hostOut = s.hostOut := rfl
@[simp] theorem State.setCoreAt_hostAns (n : Nat) (c : Core) : (s.setCoreAt n c).hostAns = s.hostAns := rfl
@[simp] theorem State.setCoreAt_fabOut (n : Nat) (c : Core) : (s.setCoreAt n c).fabOut = s.fabOut := rfl

@[simp] theorem State.updCoreAt_cur (n : Nat) (f : Core → Core) : (s.updCoreAt n f).cur = s.cur := rfl
@[simp] theorem State.updCoreAt_agenda (n : Nat) (f : Core → Core) : (s.updCoreAt n f).agenda = s.agenda := rfl
@[simp] theorem State.updCoreAt_free (n : Nat) (f : Core → Core) : (s.updCoreAt n f).free = s.free := rfl
@[simp] theorem State.updCoreAt_clusters (n : Nat) (f : Core → Core) : (s.updCoreAt n f).clusters = s.clusters := rfl
@[simp] theorem State.updCoreAt_parts (n : Nat) (f : Core → Core) : (s.updCoreAt n f).parts = s.parts := rfl
@[simp] theorem State.updCoreAt_mem (n : Nat) (f : Core → Core) : (s.updCoreAt n f).mem = s.mem := rfl
@[simp] theorem State.updCoreAt_hub (n : Nat) (f : Core → Core) : (s.updCoreAt n f).hub = s.hub := rfl
@[simp] theorem State.updCoreAt_tlb (n : Nat) (f : Core → Core) : (s.updCoreAt n f).tlb = s.tlb := rfl
@[simp] theorem State.updCoreAt_walks (n : Nat) (f : Core → Core) : (s.updCoreAt n f).walks = s.walks := rfl
@[simp] theorem State.updCoreAt_hostOut (n : Nat) (f : Core → Core) : (s.updCoreAt n f).hostOut = s.hostOut := rfl
@[simp] theorem State.updCoreAt_hostAns (n : Nat) (f : Core → Core) : (s.updCoreAt n f).hostAns = s.hostAns := rfl
@[simp] theorem State.updCoreAt_fabOut (n : Nat) (f : Core → Core) : (s.updCoreAt n f).fabOut = s.fabOut := rfl

@[simp] theorem State.setCore_cur (c : Core) : (s.setCore c).cur = s.cur := rfl
@[simp] theorem State.setCore_agenda (c : Core) : (s.setCore c).agenda = s.agenda := rfl
@[simp] theorem State.setCore_free (c : Core) : (s.setCore c).free = s.free := rfl
@[simp] theorem State.setCore_clusters (c : Core) : (s.setCore c).clusters = s.clusters := rfl
@[simp] theorem State.setCore_parts (c : Core) : (s.setCore c).parts = s.parts := rfl
@[simp] theorem State.setCore_mem (c : Core) : (s.setCore c).mem = s.mem := rfl
@[simp] theorem State.setCore_hub (c : Core) : (s.setCore c).hub = s.hub := rfl
@[simp] theorem State.setCore_tlb (c : Core) : (s.setCore c).tlb = s.tlb := rfl
@[simp] theorem State.setCore_walks (c : Core) : (s.setCore c).walks = s.walks := rfl
@[simp] theorem State.setCore_hostOut (c : Core) : (s.setCore c).hostOut = s.hostOut := rfl
@[simp] theorem State.setCore_hostAns (c : Core) : (s.setCore c).hostAns = s.hostAns := rfl
@[simp] theorem State.setCore_fabOut (c : Core) : (s.setCore c).fabOut = s.fabOut := rfl

@[simp] theorem State.updCore_cur (f : Core → Core) : (s.updCore f).cur = s.cur := rfl
@[simp] theorem State.updCore_agenda (f : Core → Core) : (s.updCore f).agenda = s.agenda := rfl
@[simp] theorem State.updCore_free (f : Core → Core) : (s.updCore f).free = s.free := rfl
@[simp] theorem State.updCore_clusters (f : Core → Core) : (s.updCore f).clusters = s.clusters := rfl
@[simp] theorem State.updCore_parts (f : Core → Core) : (s.updCore f).parts = s.parts := rfl
@[simp] theorem State.updCore_mem (f : Core → Core) : (s.updCore f).mem = s.mem := rfl
@[simp] theorem State.updCore_hub (f : Core → Core) : (s.updCore f).hub = s.hub := rfl
@[simp] theorem State.updCore_tlb (f : Core → Core) : (s.updCore f).tlb = s.tlb := rfl
@[simp] theorem State.updCore_walks (f : Core → Core) : (s.updCore f).walks = s.walks := rfl
@[simp] theorem State.updCore_hostOut (f : Core → Core) : (s.updCore f).hostOut = s.hostOut := rfl
@[simp] theorem State.updCore_hostAns (f : Core → Core) : (s.updCore f).hostAns = s.hostAns := rfl
@[simp] theorem State.updCore_fabOut (f : Core → Core) : (s.updCore f).fabOut = s.fabOut := rfl

@[simp] theorem State.setX_cur (r : Nat) (v : Word) : (s.setX r v).cur = s.cur := rfl
@[simp] theorem State.setX_agenda (r : Nat) (v : Word) : (s.setX r v).agenda = s.agenda := rfl
@[simp] theorem State.setX_free (r : Nat) (v : Word) : (s.setX r v).free = s.free := rfl
@[simp] theorem State.setX_clusters (r : Nat) (v : Word) : (s.setX r v).clusters = s.clusters := rfl
@[simp] theorem State.setX_parts (r : Nat) (v : Word) : (s.setX r v).parts = s.parts := rfl
@[simp] theorem State.setX_mem (r : Nat) (v : Word) : (s.setX r v).mem = s.mem := rfl
@[simp] theorem State.setX_hub (r : Nat) (v : Word) : (s.setX r v).hub = s.hub := rfl
@[simp] theorem State.setX_tlb (r : Nat) (v : Word) : (s.setX r v).tlb = s.tlb := rfl
@[simp] theorem State.setX_walks (r : Nat) (v : Word) : (s.setX r v).walks = s.walks := rfl
@[simp] theorem State.setX_hostOut (r : Nat) (v : Word) : (s.setX r v).hostOut = s.hostOut := rfl
@[simp] theorem State.setX_hostAns (r : Nat) (v : Word) : (s.setX r v).hostAns = s.hostAns := rfl
@[simp] theorem State.setX_fabOut (r : Nat) (v : Word) : (s.setX r v).fabOut = s.fabOut := rfl

@[simp] theorem State.raise_cur (fl : Flags) : (s.raise fl).cur = s.cur := rfl
@[simp] theorem State.raise_agenda (fl : Flags) : (s.raise fl).agenda = s.agenda := rfl
@[simp] theorem State.raise_free (fl : Flags) : (s.raise fl).free = s.free := rfl
@[simp] theorem State.raise_clusters (fl : Flags) : (s.raise fl).clusters = s.clusters := rfl
@[simp] theorem State.raise_parts (fl : Flags) : (s.raise fl).parts = s.parts := rfl
@[simp] theorem State.raise_mem (fl : Flags) : (s.raise fl).mem = s.mem := rfl
@[simp] theorem State.raise_hub (fl : Flags) : (s.raise fl).hub = s.hub := rfl
@[simp] theorem State.raise_tlb (fl : Flags) : (s.raise fl).tlb = s.tlb := rfl
@[simp] theorem State.raise_walks (fl : Flags) : (s.raise fl).walks = s.walks := rfl
@[simp] theorem State.raise_hostOut (fl : Flags) : (s.raise fl).hostOut = s.hostOut := rfl
@[simp] theorem State.raise_hostAns (fl : Flags) : (s.raise fl).hostAns = s.hostAns := rfl
@[simp] theorem State.raise_fabOut (fl : Flags) : (s.raise fl).fabOut = s.fabOut := rfl

@[simp] theorem State.setClusterAt_cur (n : Nat) (c : Cluster) : (s.setClusterAt n c).cur = s.cur := rfl
@[simp] theorem State.setClusterAt_agenda (n : Nat) (c : Cluster) : (s.setClusterAt n c).agenda = s.agenda := rfl
@[simp] theorem State.setClusterAt_free (n : Nat) (c : Cluster) : (s.setClusterAt n c).free = s.free := rfl
@[simp] theorem State.setClusterAt_cores (n : Nat) (c : Cluster) : (s.setClusterAt n c).cores = s.cores := rfl
@[simp] theorem State.setClusterAt_parts (n : Nat) (c : Cluster) : (s.setClusterAt n c).parts = s.parts := rfl
@[simp] theorem State.setClusterAt_mem (n : Nat) (c : Cluster) : (s.setClusterAt n c).mem = s.mem := rfl
@[simp] theorem State.setClusterAt_hub (n : Nat) (c : Cluster) : (s.setClusterAt n c).hub = s.hub := rfl
@[simp] theorem State.setClusterAt_tlb (n : Nat) (c : Cluster) : (s.setClusterAt n c).tlb = s.tlb := rfl
@[simp] theorem State.setClusterAt_walks (n : Nat) (c : Cluster) : (s.setClusterAt n c).walks = s.walks := rfl
@[simp] theorem State.setClusterAt_hostOut (n : Nat) (c : Cluster) : (s.setClusterAt n c).hostOut = s.hostOut := rfl
@[simp] theorem State.setClusterAt_hostAns (n : Nat) (c : Cluster) : (s.setClusterAt n c).hostAns = s.hostAns := rfl
@[simp] theorem State.setClusterAt_fabOut (n : Nat) (c : Cluster) : (s.setClusterAt n c).fabOut = s.fabOut := rfl

@[simp] theorem State.updClusterAt_cur (n : Nat) (f : Cluster → Cluster) : (s.updClusterAt n f).cur = s.cur := rfl
@[simp] theorem State.updClusterAt_agenda (n : Nat) (f : Cluster → Cluster) : (s.updClusterAt n f).agenda = s.agenda := rfl
@[simp] theorem State.updClusterAt_free (n : Nat) (f : Cluster → Cluster) : (s.updClusterAt n f).free = s.free := rfl
@[simp] theorem State.updClusterAt_cores (n : Nat) (f : Cluster → Cluster) : (s.updClusterAt n f).cores = s.cores := rfl
@[simp] theorem State.updClusterAt_parts (n : Nat) (f : Cluster → Cluster) : (s.updClusterAt n f).parts = s.parts := rfl
@[simp] theorem State.updClusterAt_mem (n : Nat) (f : Cluster → Cluster) : (s.updClusterAt n f).mem = s.mem := rfl
@[simp] theorem State.updClusterAt_hub (n : Nat) (f : Cluster → Cluster) : (s.updClusterAt n f).hub = s.hub := rfl
@[simp] theorem State.updClusterAt_tlb (n : Nat) (f : Cluster → Cluster) : (s.updClusterAt n f).tlb = s.tlb := rfl
@[simp] theorem State.updClusterAt_walks (n : Nat) (f : Cluster → Cluster) : (s.updClusterAt n f).walks = s.walks := rfl
@[simp] theorem State.updClusterAt_hostOut (n : Nat) (f : Cluster → Cluster) : (s.updClusterAt n f).hostOut = s.hostOut := rfl
@[simp] theorem State.updClusterAt_hostAns (n : Nat) (f : Cluster → Cluster) : (s.updClusterAt n f).hostAns = s.hostAns := rfl
@[simp] theorem State.updClusterAt_fabOut (n : Nat) (f : Cluster → Cluster) : (s.updClusterAt n f).fabOut = s.fabOut := rfl

@[simp] theorem State.countCluster_cur (c k n : Nat) : (s.countCluster c k n).cur = s.cur := rfl
@[simp] theorem State.countCluster_agenda (c k n : Nat) : (s.countCluster c k n).agenda = s.agenda := rfl
@[simp] theorem State.countCluster_free (c k n : Nat) : (s.countCluster c k n).free = s.free := rfl
@[simp] theorem State.countCluster_cores (c k n : Nat) : (s.countCluster c k n).cores = s.cores := rfl
@[simp] theorem State.countCluster_parts (c k n : Nat) : (s.countCluster c k n).parts = s.parts := rfl
@[simp] theorem State.countCluster_mem (c k n : Nat) : (s.countCluster c k n).mem = s.mem := rfl
@[simp] theorem State.countCluster_hub (c k n : Nat) : (s.countCluster c k n).hub = s.hub := rfl
@[simp] theorem State.countCluster_tlb (c k n : Nat) : (s.countCluster c k n).tlb = s.tlb := rfl
@[simp] theorem State.countCluster_walks (c k n : Nat) : (s.countCluster c k n).walks = s.walks := rfl
@[simp] theorem State.countCluster_hostOut (c k n : Nat) : (s.countCluster c k n).hostOut = s.hostOut := rfl
@[simp] theorem State.countCluster_hostAns (c k n : Nat) : (s.countCluster c k n).hostAns = s.hostAns := rfl
@[simp] theorem State.countCluster_fabOut (c k n : Nat) : (s.countCluster c k n).fabOut = s.fabOut := rfl

@[simp] theorem State.setPartAt_cur (p : Nat) (v : Part) : (s.setPartAt p v).cur = s.cur := rfl
@[simp] theorem State.setPartAt_agenda (p : Nat) (v : Part) : (s.setPartAt p v).agenda = s.agenda := rfl
@[simp] theorem State.setPartAt_free (p : Nat) (v : Part) : (s.setPartAt p v).free = s.free := rfl
@[simp] theorem State.setPartAt_cores (p : Nat) (v : Part) : (s.setPartAt p v).cores = s.cores := rfl
@[simp] theorem State.setPartAt_clusters (p : Nat) (v : Part) : (s.setPartAt p v).clusters = s.clusters := rfl
@[simp] theorem State.setPartAt_mem (p : Nat) (v : Part) : (s.setPartAt p v).mem = s.mem := rfl
@[simp] theorem State.setPartAt_hub (p : Nat) (v : Part) : (s.setPartAt p v).hub = s.hub := rfl
@[simp] theorem State.setPartAt_tlb (p : Nat) (v : Part) : (s.setPartAt p v).tlb = s.tlb := rfl
@[simp] theorem State.setPartAt_walks (p : Nat) (v : Part) : (s.setPartAt p v).walks = s.walks := rfl
@[simp] theorem State.setPartAt_hostOut (p : Nat) (v : Part) : (s.setPartAt p v).hostOut = s.hostOut := rfl
@[simp] theorem State.setPartAt_hostAns (p : Nat) (v : Part) : (s.setPartAt p v).hostAns = s.hostAns := rfl
@[simp] theorem State.setPartAt_fabOut (p : Nat) (v : Part) : (s.setPartAt p v).fabOut = s.fabOut := rfl

@[simp] theorem State.updPartAt_cur (p : Nat) (f : Part → Part) : (s.updPartAt p f).cur = s.cur := rfl
@[simp] theorem State.updPartAt_agenda (p : Nat) (f : Part → Part) : (s.updPartAt p f).agenda = s.agenda := rfl
@[simp] theorem State.updPartAt_free (p : Nat) (f : Part → Part) : (s.updPartAt p f).free = s.free := rfl
@[simp] theorem State.updPartAt_cores (p : Nat) (f : Part → Part) : (s.updPartAt p f).cores = s.cores := rfl
@[simp] theorem State.updPartAt_clusters (p : Nat) (f : Part → Part) : (s.updPartAt p f).clusters = s.clusters := rfl
@[simp] theorem State.updPartAt_mem (p : Nat) (f : Part → Part) : (s.updPartAt p f).mem = s.mem := rfl
@[simp] theorem State.updPartAt_hub (p : Nat) (f : Part → Part) : (s.updPartAt p f).hub = s.hub := rfl
@[simp] theorem State.updPartAt_tlb (p : Nat) (f : Part → Part) : (s.updPartAt p f).tlb = s.tlb := rfl
@[simp] theorem State.updPartAt_walks (p : Nat) (f : Part → Part) : (s.updPartAt p f).walks = s.walks := rfl
@[simp] theorem State.updPartAt_hostOut (p : Nat) (f : Part → Part) : (s.updPartAt p f).hostOut = s.hostOut := rfl
@[simp] theorem State.updPartAt_hostAns (p : Nat) (f : Part → Part) : (s.updPartAt p f).hostAns = s.hostAns := rfl
@[simp] theorem State.updPartAt_fabOut (p : Nat) (f : Part → Part) : (s.updPartAt p f).fabOut = s.fabOut := rfl

@[simp] theorem State.updRegionAt_cur (p id : Nat) (f : Region → Region) : (s.updRegionAt p id f).cur = s.cur := rfl
@[simp] theorem State.updRegionAt_agenda (p id : Nat) (f : Region → Region) : (s.updRegionAt p id f).agenda = s.agenda := rfl
@[simp] theorem State.updRegionAt_free (p id : Nat) (f : Region → Region) : (s.updRegionAt p id f).free = s.free := rfl
@[simp] theorem State.updRegionAt_cores (p id : Nat) (f : Region → Region) : (s.updRegionAt p id f).cores = s.cores := rfl
@[simp] theorem State.updRegionAt_clusters (p id : Nat) (f : Region → Region) : (s.updRegionAt p id f).clusters = s.clusters := rfl
@[simp] theorem State.updRegionAt_mem (p id : Nat) (f : Region → Region) : (s.updRegionAt p id f).mem = s.mem := rfl
@[simp] theorem State.updRegionAt_hub (p id : Nat) (f : Region → Region) : (s.updRegionAt p id f).hub = s.hub := rfl
@[simp] theorem State.updRegionAt_tlb (p id : Nat) (f : Region → Region) : (s.updRegionAt p id f).tlb = s.tlb := rfl
@[simp] theorem State.updRegionAt_walks (p id : Nat) (f : Region → Region) : (s.updRegionAt p id f).walks = s.walks := rfl
@[simp] theorem State.updRegionAt_hostOut (p id : Nat) (f : Region → Region) : (s.updRegionAt p id f).hostOut = s.hostOut := rfl
@[simp] theorem State.updRegionAt_hostAns (p id : Nat) (f : Region → Region) : (s.updRegionAt p id f).hostAns = s.hostAns := rfl
@[simp] theorem State.updRegionAt_fabOut (p id : Nat) (f : Region → Region) : (s.updRegionAt p id f).fabOut = s.fabOut := rfl

@[simp] theorem State.updHub_cur (f : Hub → Hub) : (s.updHub f).cur = s.cur := rfl
@[simp] theorem State.updHub_agenda (f : Hub → Hub) : (s.updHub f).agenda = s.agenda := rfl
@[simp] theorem State.updHub_free (f : Hub → Hub) : (s.updHub f).free = s.free := rfl
@[simp] theorem State.updHub_cores (f : Hub → Hub) : (s.updHub f).cores = s.cores := rfl
@[simp] theorem State.updHub_clusters (f : Hub → Hub) : (s.updHub f).clusters = s.clusters := rfl
@[simp] theorem State.updHub_parts (f : Hub → Hub) : (s.updHub f).parts = s.parts := rfl
@[simp] theorem State.updHub_mem (f : Hub → Hub) : (s.updHub f).mem = s.mem := rfl
@[simp] theorem State.updHub_tlb (f : Hub → Hub) : (s.updHub f).tlb = s.tlb := rfl
@[simp] theorem State.updHub_walks (f : Hub → Hub) : (s.updHub f).walks = s.walks := rfl
@[simp] theorem State.updHub_hostOut (f : Hub → Hub) : (s.updHub f).hostOut = s.hostOut := rfl
@[simp] theorem State.updHub_hostAns (f : Hub → Hub) : (s.updHub f).hostAns = s.hostAns := rfl
@[simp] theorem State.updHub_fabOut (f : Hub → Hub) : (s.updHub f).fabOut = s.fabOut := rfl

@[simp] theorem State.report_cur (r : Report) : (s.report r).cur = s.cur := rfl
@[simp] theorem State.report_agenda (r : Report) : (s.report r).agenda = s.agenda := rfl
@[simp] theorem State.report_free (r : Report) : (s.report r).free = s.free := rfl
@[simp] theorem State.report_cores (r : Report) : (s.report r).cores = s.cores := rfl
@[simp] theorem State.report_clusters (r : Report) : (s.report r).clusters = s.clusters := rfl
@[simp] theorem State.report_parts (r : Report) : (s.report r).parts = s.parts := rfl
@[simp] theorem State.report_mem (r : Report) : (s.report r).mem = s.mem := rfl
@[simp] theorem State.report_tlb (r : Report) : (s.report r).tlb = s.tlb := rfl
@[simp] theorem State.report_walks (r : Report) : (s.report r).walks = s.walks := rfl
@[simp] theorem State.report_hostOut (r : Report) : (s.report r).hostOut = s.hostOut := rfl
@[simp] theorem State.report_hostAns (r : Report) : (s.report r).hostAns = s.hostAns := rfl
@[simp] theorem State.report_fabOut (r : Report) : (s.report r).fabOut = s.fabOut := rfl

@[simp] theorem State.later_cur (i : Instr) : (s.later i).cur = s.cur := rfl
@[simp] theorem State.later_free (i : Instr) : (s.later i).free = s.free := rfl
@[simp] theorem State.later_cores (i : Instr) : (s.later i).cores = s.cores := rfl
@[simp] theorem State.later_clusters (i : Instr) : (s.later i).clusters = s.clusters := rfl
@[simp] theorem State.later_parts (i : Instr) : (s.later i).parts = s.parts := rfl
@[simp] theorem State.later_mem (i : Instr) : (s.later i).mem = s.mem := rfl
@[simp] theorem State.later_hub (i : Instr) : (s.later i).hub = s.hub := rfl
@[simp] theorem State.later_tlb (i : Instr) : (s.later i).tlb = s.tlb := rfl
@[simp] theorem State.later_walks (i : Instr) : (s.later i).walks = s.walks := rfl
@[simp] theorem State.later_hostOut (i : Instr) : (s.later i).hostOut = s.hostOut := rfl
@[simp] theorem State.later_hostAns (i : Instr) : (s.later i).hostAns = s.hostAns := rfl
@[simp] theorem State.later_fabOut (i : Instr) : (s.later i).fabOut = s.fabOut := rfl

@[simp] theorem State.used_cur : (s.used).cur = s.cur := rfl
@[simp] theorem State.used_agenda : (s.used).agenda = s.agenda := rfl
@[simp] theorem State.used_cores : (s.used).cores = s.cores := rfl
@[simp] theorem State.used_clusters : (s.used).clusters = s.clusters := rfl
@[simp] theorem State.used_parts : (s.used).parts = s.parts := rfl
@[simp] theorem State.used_mem : (s.used).mem = s.mem := rfl
@[simp] theorem State.used_hub : (s.used).hub = s.hub := rfl
@[simp] theorem State.used_tlb : (s.used).tlb = s.tlb := rfl
@[simp] theorem State.used_walks : (s.used).walks = s.walks := rfl
@[simp] theorem State.used_hostOut : (s.used).hostOut = s.hostOut := rfl
@[simp] theorem State.used_hostAns : (s.used).hostAns = s.hostAns := rfl
@[simp] theorem State.used_fabOut : (s.used).fabOut = s.fabOut := rfl

@[simp] theorem State.setBytes_cur (k : Nat) (bs : List Byte) : (s.setBytes k bs).cur = s.cur := rfl
@[simp] theorem State.setBytes_agenda (k : Nat) (bs : List Byte) : (s.setBytes k bs).agenda = s.agenda := rfl
@[simp] theorem State.setBytes_free (k : Nat) (bs : List Byte) : (s.setBytes k bs).free = s.free := rfl
@[simp] theorem State.setBytes_cores (k : Nat) (bs : List Byte) : (s.setBytes k bs).cores = s.cores := rfl
@[simp] theorem State.setBytes_clusters (k : Nat) (bs : List Byte) : (s.setBytes k bs).clusters = s.clusters := rfl
@[simp] theorem State.setBytes_parts (k : Nat) (bs : List Byte) : (s.setBytes k bs).parts = s.parts := rfl
@[simp] theorem State.setBytes_hub (k : Nat) (bs : List Byte) : (s.setBytes k bs).hub = s.hub := rfl
@[simp] theorem State.setBytes_tlb (k : Nat) (bs : List Byte) : (s.setBytes k bs).tlb = s.tlb := rfl
@[simp] theorem State.setBytes_walks (k : Nat) (bs : List Byte) : (s.setBytes k bs).walks = s.walks := rfl
@[simp] theorem State.setBytes_hostOut (k : Nat) (bs : List Byte) : (s.setBytes k bs).hostOut = s.hostOut := rfl
@[simp] theorem State.setBytes_hostAns (k : Nat) (bs : List Byte) : (s.setBytes k bs).hostAns = s.hostAns := rfl
@[simp] theorem State.setBytes_fabOut (k : Nat) (bs : List Byte) : (s.setBytes k bs).fabOut = s.fabOut := rfl

@[simp] theorem State.zeroRange_cur (k n : Nat) : (s.zeroRange k n).cur = s.cur := rfl
@[simp] theorem State.zeroRange_agenda (k n : Nat) : (s.zeroRange k n).agenda = s.agenda := rfl
@[simp] theorem State.zeroRange_free (k n : Nat) : (s.zeroRange k n).free = s.free := rfl
@[simp] theorem State.zeroRange_cores (k n : Nat) : (s.zeroRange k n).cores = s.cores := rfl
@[simp] theorem State.zeroRange_clusters (k n : Nat) : (s.zeroRange k n).clusters = s.clusters := rfl
@[simp] theorem State.zeroRange_parts (k n : Nat) : (s.zeroRange k n).parts = s.parts := rfl
@[simp] theorem State.zeroRange_hub (k n : Nat) : (s.zeroRange k n).hub = s.hub := rfl
@[simp] theorem State.zeroRange_tlb (k n : Nat) : (s.zeroRange k n).tlb = s.tlb := rfl
@[simp] theorem State.zeroRange_walks (k n : Nat) : (s.zeroRange k n).walks = s.walks := rfl
@[simp] theorem State.zeroRange_hostOut (k n : Nat) : (s.zeroRange k n).hostOut = s.hostOut := rfl
@[simp] theorem State.zeroRange_hostAns (k n : Nat) : (s.zeroRange k n).hostAns = s.hostAns := rfl
@[simp] theorem State.zeroRange_fabOut (k n : Nat) : (s.zeroRange k n).fabOut = s.fabOut := rfl

/-! ## What the updated field then holds -/

@[simp] theorem State.used_free : s.used.free = s.free + 1 := rfl
@[simp] theorem State.later_agenda (i : Instr) : (s.later i).agenda = s.agenda ++ [.event i] := rfl
@[simp] theorem State.updHub_hub (f : Hub → Hub) : (s.updHub f).hub = f s.hub := rfl
@[simp] theorem State.setBytes_mem (k : Nat) (bs : List Byte) : (s.setBytes k bs).mem = Tbl.setRange unlisted s.mem k bs := rfl
@[simp] theorem State.zeroRange_mem (k n : Nat) : (s.zeroRange k n).mem = Tbl.clear s.mem k (k + n) := rfl

/-! ## Reading one part after an update of one part -/

@[simp] theorem State.coreAt_setCoreAt_same (n : Nat) (c : Core) : (s.setCoreAt n c).coreAt n = c := Tbl.get_put_same ..
theorem State.coreAt_setCoreAt_other {m n : Nat} (c : Core) (h : m ≠ n) : (s.setCoreAt n c).coreAt m = s.coreAt m :=
  Tbl.get_put_other _ _ _ h
@[simp] theorem State.coreAt_updCoreAt_same (n : Nat) (f : Core → Core) : (s.updCoreAt n f).coreAt n = f (s.coreAt n) :=
  Tbl.get_put_same ..
theorem State.coreAt_updCoreAt_other {m n : Nat} (f : Core → Core) (h : m ≠ n) : (s.updCoreAt n f).coreAt m = s.coreAt m :=
  Tbl.get_put_other _ _ _ h
@[simp] theorem State.setCoreAt_setCoreAt (n : Nat) (c d : Core) : (s.setCoreAt n c).setCoreAt n d = s.setCoreAt n d := by
  simp only [State.setCoreAt, Tbl.put_put]
@[simp] theorem State.updCoreAt_setCoreAt (n : Nat) (c : Core) (f : Core → Core) : (s.setCoreAt n c).updCoreAt n f = s.setCoreAt n (f c) := by
  simp only [State.updCoreAt, State.coreAt_setCoreAt_same, State.setCoreAt_setCoreAt]

@[simp] theorem State.clusterAt_setClusterAt_same (n : Nat) (c : Cluster) : (s.setClusterAt n c).clusterAt n = c := Tbl.get_put_same ..
theorem State.clusterAt_setClusterAt_other {m n : Nat} (c : Cluster) (h : m ≠ n) : (s.setClusterAt n c).clusterAt m = s.clusterAt m :=
  Tbl.get_put_other _ _ _ h
@[simp] theorem State.clusterAt_updClusterAt_same (n : Nat) (f : Cluster → Cluster) : (s.updClusterAt n f).clusterAt n = f (s.clusterAt n) :=
  Tbl.get_put_same ..
theorem State.clusterAt_updClusterAt_other {m n : Nat} (f : Cluster → Cluster) (h : m ≠ n) : (s.updClusterAt n f).clusterAt m = s.clusterAt m :=
  Tbl.get_put_other _ _ _ h
@[simp] theorem State.setClusterAt_setClusterAt (n : Nat) (c d : Cluster) : (s.setClusterAt n c).setClusterAt n d = s.setClusterAt n d := by
  simp only [State.setClusterAt, Tbl.put_put]
@[simp] theorem State.updClusterAt_setClusterAt (n : Nat) (c : Cluster) (f : Cluster → Cluster) : (s.setClusterAt n c).updClusterAt n f = s.setClusterAt n (f c) := by
  simp only [State.updClusterAt, State.clusterAt_setClusterAt_same, State.setClusterAt_setClusterAt]

@[simp] theorem State.partAt_setPartAt_same (n : Nat) (c : Part) : (s.setPartAt n c).partAt n = c := Tbl.get_put_same ..
theorem State.partAt_setPartAt_other {m n : Nat} (c : Part) (h : m ≠ n) : (s.setPartAt n c).partAt m = s.partAt m :=
  Tbl.get_put_other _ _ _ h
@[simp] theorem State.partAt_updPartAt_same (n : Nat) (f : Part → Part) : (s.updPartAt n f).partAt n = f (s.partAt n) :=
  Tbl.get_put_same ..
theorem State.partAt_updPartAt_other {m n : Nat} (f : Part → Part) (h : m ≠ n) : (s.updPartAt n f).partAt m = s.partAt m :=
  Tbl.get_put_other _ _ _ h
@[simp] theorem State.setPartAt_setPartAt (n : Nat) (c d : Part) : (s.setPartAt n c).setPartAt n d = s.setPartAt n d := by
  simp only [State.setPartAt, Tbl.put_put]
@[simp] theorem State.updPartAt_setPartAt (n : Nat) (c : Part) (f : Part → Part) : (s.setPartAt n c).updPartAt n f = s.setPartAt n (f c) := by
  simp only [State.updPartAt, State.partAt_setPartAt_same, State.setPartAt_setPartAt]

@[simp] theorem State.setClusterAt_coreAt (n : Nat) (c : Cluster) (m : Nat) : (s.setClusterAt n c).coreAt m = s.coreAt m := rfl
@[simp] theorem State.updClusterAt_coreAt (n : Nat) (f : Cluster → Cluster) (m : Nat) : (s.updClusterAt n f).coreAt m = s.coreAt m := rfl
@[simp] theorem State.countCluster_coreAt (c k n : Nat) (m : Nat) : (s.countCluster c k n).coreAt m = s.coreAt m := rfl
@[simp] theorem State.setPartAt_coreAt (p : Nat) (v : Part) (m : Nat) : (s.setPartAt p v).coreAt m = s.coreAt m := rfl
@[simp] theorem State.updPartAt_coreAt (p : Nat) (f : Part → Part) (m : Nat) : (s.updPartAt p f).coreAt m = s.coreAt m := rfl
@[simp] theorem State.updRegionAt_coreAt (p id : Nat) (f : Region → Region) (m : Nat) : (s.updRegionAt p id f).coreAt m = s.coreAt m := rfl
@[simp] theorem State.updHub_coreAt (f : Hub → Hub) (m : Nat) : (s.updHub f).coreAt m = s.coreAt m := rfl
@[simp] theorem State.report_coreAt (r : Report) (m : Nat) : (s.report r).coreAt m = s.coreAt m := rfl
@[simp] theorem State.later_coreAt (i : Instr) (m : Nat) : (s.later i).coreAt m = s.coreAt m := rfl
@[simp] theorem State.used_coreAt (m : Nat) : (s.used).coreAt m = s.coreAt m := rfl
@[simp] theorem State.setBytes_coreAt (k : Nat) (bs : List Byte) (m : Nat) : (s.setBytes k bs).coreAt m = s.coreAt m := rfl
@[simp] theorem State.zeroRange_coreAt (k n : Nat) (m : Nat) : (s.zeroRange k n).coreAt m = s.coreAt m := rfl

@[simp] theorem State.setCoreAt_clusterAt (n : Nat) (c : Core) (m : Nat) : (s.setCoreAt n c).clusterAt m = s.clusterAt m := rfl
@[simp] theorem State.updCoreAt_clusterAt (n : Nat) (f : Core → Core) (m : Nat) : (s.updCoreAt n f).clusterAt m = s.clusterAt m := rfl
@[simp] theorem State.setCore_clusterAt (c : Core) (m : Nat) : (s.setCore c).clusterAt m = s.clusterAt m := rfl
@[simp] theorem State.updCore_clusterAt (f : Core → Core) (m : Nat) : (s.updCore f).clusterAt m = s.clusterAt m := rfl
@[simp] theorem State.setX_clusterAt (r : Nat) (v : Word) (m : Nat) : (s.setX r v).clusterAt m = s.clusterAt m := rfl
@[simp] theorem State.raise_clusterAt (fl : Flags) (m : Nat) : (s.raise fl).clusterAt m = s.clusterAt m := rfl
@[simp] theorem State.setPartAt_clusterAt (p : Nat) (v : Part) (m : Nat) : (s.setPartAt p v).clusterAt m = s.clusterAt m := rfl
@[simp] theorem State.updPartAt_clusterAt (p : Nat) (f : Part → Part) (m : Nat) : (s.updPartAt p f).clusterAt m = s.clusterAt m := rfl
@[simp] theorem State.updRegionAt_clusterAt (p id : Nat) (f : Region → Region) (m : Nat) : (s.updRegionAt p id f).clusterAt m = s.clusterAt m := rfl
@[simp] theorem State.updHub_clusterAt (f : Hub → Hub) (m : Nat) : (s.updHub f).clusterAt m = s.clusterAt m := rfl
@[simp] theorem State.report_clusterAt (r : Report) (m : Nat) : (s.report r).clusterAt m = s.clusterAt m := rfl
@[simp] theorem State.later_clusterAt (i : Instr) (m : Nat) : (s.later i).clusterAt m = s.clusterAt m := rfl
@[simp] theorem State.used_clusterAt (m : Nat) : (s.used).clusterAt m = s.clusterAt m := rfl
@[simp] theorem State.setBytes_clusterAt (k : Nat) (bs : List Byte) (m : Nat) : (s.setBytes k bs).clusterAt m = s.clusterAt m := rfl
@[simp] theorem State.zeroRange_clusterAt (k n : Nat) (m : Nat) : (s.zeroRange k n).clusterAt m = s.clusterAt m := rfl

@[simp] theorem State.setCoreAt_partAt (n : Nat) (c : Core) (m : Nat) : (s.setCoreAt n c).partAt m = s.partAt m := rfl
@[simp] theorem State.updCoreAt_partAt (n : Nat) (f : Core → Core) (m : Nat) : (s.updCoreAt n f).partAt m = s.partAt m := rfl
@[simp] theorem State.setCore_partAt (c : Core) (m : Nat) : (s.setCore c).partAt m = s.partAt m := rfl
@[simp] theorem State.updCore_partAt (f : Core → Core) (m : Nat) : (s.updCore f).partAt m = s.partAt m := rfl
@[simp] theorem State.setX_partAt (r : Nat) (v : Word) (m : Nat) : (s.setX r v).partAt m = s.partAt m := rfl
@[simp] theorem State.raise_partAt (fl : Flags) (m : Nat) : (s.raise fl).partAt m = s.partAt m := rfl
@[simp] theorem State.setClusterAt_partAt (n : Nat) (c : Cluster) (m : Nat) : (s.setClusterAt n c).partAt m = s.partAt m := rfl
@[simp] theorem State.updClusterAt_partAt (n : Nat) (f : Cluster → Cluster) (m : Nat) : (s.updClusterAt n f).partAt m = s.partAt m := rfl
@[simp] theorem State.countCluster_partAt (c k n : Nat) (m : Nat) : (s.countCluster c k n).partAt m = s.partAt m := rfl
@[simp] theorem State.updHub_partAt (f : Hub → Hub) (m : Nat) : (s.updHub f).partAt m = s.partAt m := rfl
@[simp] theorem State.report_partAt (r : Report) (m : Nat) : (s.report r).partAt m = s.partAt m := rfl
@[simp] theorem State.later_partAt (i : Instr) (m : Nat) : (s.later i).partAt m = s.partAt m := rfl
@[simp] theorem State.used_partAt (m : Nat) : (s.used).partAt m = s.partAt m := rfl
@[simp] theorem State.setBytes_partAt (k : Nat) (bs : List Byte) (m : Nat) : (s.setBytes k bs).partAt m = s.partAt m := rfl
@[simp] theorem State.zeroRange_partAt (k n : Nat) (m : Nat) : (s.zeroRange k n).partAt m = s.partAt m := rfl

@[simp] theorem State.updCore_core (f : Core → Core) : (s.updCore f).core = f s.core := Tbl.get_put_same ..
@[simp] theorem State.setCore_core (c : Core) : (s.setCore c).core = c := Tbl.get_put_same ..
theorem State.core_def : s.core = s.coreAt s.cur := rfl
theorem State.updCoreAt_def (n : Nat) (f : Core → Core) : s.updCoreAt n f = s.setCoreAt n (f (s.coreAt n)) := rfl
theorem State.updCore_def (f : Core → Core) : s.updCore f = s.setCoreAt s.cur (f s.core) := rfl
theorem State.setX_def (r : Nat) (v : Word) : s.setX r v = s.setCoreAt s.cur (s.core.setX r v) := rfl
theorem State.raise_def (fl : Flags) : s.raise fl = s.setCoreAt s.cur (s.core.raise fl) := rfl

/-- The launch a core runs for does not depend on more of its own core than its identity. -/
theorem State.launchOf_setCoreAt (n : Nat) (c : Core) (h : c.ident = (s.coreAt n).ident) :
    (s.setCoreAt n c).launchOf n = s.launchOf n := by
  unfold State.launchOf
  rw [State.coreAt_setCoreAt_same, h]; rfl

end Sys2Proof.Machine
end

