-- ==== Sys2Proof/Laws/Core.lean ====
section
/-!
SUPPORT. Laws/Core.lean: what each update of a core leaves alone, and reading its registers after writing them.
-/

namespace Sys2Proof.Machine

variable (c : Core)

@[simp] theorem Core.setX_run (r : Nat) (v : Word) : (c.setX r v).run = c.run := by
  unfold Core.setX; split <;> rfl
@[simp] theorem Core.setX_wait (r : Nat) (v : Word) : (c.setX r v).wait = c.wait := by
  unfold Core.setX; split <;> rfl
@[simp] theorem Core.setX_level (r : Nat) (v : Word) : (c.setX r v).level = c.level := by
  unfold Core.setX; split <;> rfl
@[simp] theorem Core.setX_pc (r : Nat) (v : Word) : (c.setX r v).pc = c.pc := by
  unfold Core.setX; split <;> rfl
@[simp] theorem Core.setX_strip (r : Nat) (v : Word) : (c.setX r v).strip = c.strip := by
  unfold Core.setX; split <;> rfl
@[simp] theorem Core.setX_modes (r : Nat) (v : Word) : (c.setX r v).modes = c.modes := by
  unfold Core.setX; split <;> rfl
@[simp] theorem Core.setX_vec (r : Nat) (v : Word) : (c.setX r v).vec = c.vec := by
  unfold Core.setX; split <;> rfl
@[simp] theorem Core.setX_streams (r : Nat) (v : Word) : (c.setX r v).streams = c.streams := by
  unfold Core.setX; split <;> rfl
@[simp] theorem Core.setX_ident (r : Nat) (v : Word) : (c.setX r v).ident = c.ident := by
  unfold Core.setX; split <;> rfl
@[simp] theorem Core.setX_instret (r : Nat) (v : Word) : (c.setX r v).instret = c.instret := by
  unfold Core.setX; split <;> rfl
@[simp] theorem Core.setX_ticket (r : Nat) (v : Word) : (c.setX r v).ticket = c.ticket := by
  unfold Core.setX; split <;> rfl
@[simp] theorem Core.setX_win (r : Nat) (v : Word) : (c.setX r v).win = c.win := by
  unfold Core.setX; split <;> rfl
@[simp] theorem Core.setX_rider (r : Nat) (v : Word) : (c.setX r v).rider = c.rider := by
  unfold Core.setX; split <;> rfl
@[simp] theorem Core.setX_push (r : Nat) (v : Word) : (c.setX r v).push = c.push := by
  unfold Core.setX; split <;> rfl
@[simp] theorem Core.setX_resume (r : Nat) (v : Word) : (c.setX r v).resume = c.resume := by
  unfold Core.setX; split <;> rfl
@[simp] theorem Core.setX_preempt (r : Nat) (v : Word) : (c.setX r v).preempt = c.preempt := by
  unfold Core.setX; split <;> rfl
@[simp] theorem Core.setX_requested (r : Nat) (v : Word) : (c.setX r v).requested = c.requested := by
  unfold Core.setX; split <;> rfl
@[simp] theorem Core.setX_regrant (r : Nat) (v : Word) : (c.setX r v).regrant = c.regrant := by
  unfold Core.setX; split <;> rfl
@[simp] theorem Core.setX_held (r : Nat) (v : Word) : (c.setX r v).held = c.held := by
  unfold Core.setX; split <;> rfl
@[simp] theorem Core.setX_replies (r : Nat) (v : Word) : (c.setX r v).replies = c.replies := by
  unfold Core.setX; split <;> rfl
@[simp] theorem Core.setX_trapS (r : Nat) (v : Word) : (c.setX r v).trapS = c.trapS := by
  unfold Core.setX; split <;> rfl
@[simp] theorem Core.setX_trapH (r : Nat) (v : Word) : (c.setX r v).trapH = c.trapH := by
  unfold Core.setX; split <;> rfl
@[simp] theorem Core.setX_trapM (r : Nat) (v : Word) : (c.setX r v).trapM = c.trapM := by
  unfold Core.setX; split <;> rfl
@[simp] theorem Core.setX_l1d (r : Nat) (v : Word) : (c.setX r v).l1d = c.l1d := by
  unfold Core.setX; split <;> rfl
@[simp] theorem Core.setX_events (r : Nat) (v : Word) : (c.setX r v).events = c.events := by
  unfold Core.setX; split <;> rfl
@[simp] theorem Core.setX_arrived (r : Nat) (v : Word) : (c.setX r v).arrived = c.arrived := by
  unfold Core.setX; split <;> rfl

@[simp] theorem Core.raise_run (fl : Flags) : (c.raise fl).run = c.run := rfl
@[simp] theorem Core.raise_wait (fl : Flags) : (c.raise fl).wait = c.wait := rfl
@[simp] theorem Core.raise_level (fl : Flags) : (c.raise fl).level = c.level := rfl
@[simp] theorem Core.raise_pc (fl : Flags) : (c.raise fl).pc = c.pc := rfl
@[simp] theorem Core.raise_x (fl : Flags) : (c.raise fl).x = c.x := rfl
@[simp] theorem Core.raise_strip (fl : Flags) : (c.raise fl).strip = c.strip := rfl
@[simp] theorem Core.raise_vec (fl : Flags) : (c.raise fl).vec = c.vec := rfl
@[simp] theorem Core.raise_streams (fl : Flags) : (c.raise fl).streams = c.streams := rfl
@[simp] theorem Core.raise_ident (fl : Flags) : (c.raise fl).ident = c.ident := rfl
@[simp] theorem Core.raise_instret (fl : Flags) : (c.raise fl).instret = c.instret := rfl
@[simp] theorem Core.raise_ticket (fl : Flags) : (c.raise fl).ticket = c.ticket := rfl
@[simp] theorem Core.raise_win (fl : Flags) : (c.raise fl).win = c.win := rfl
@[simp] theorem Core.raise_rider (fl : Flags) : (c.raise fl).rider = c.rider := rfl
@[simp] theorem Core.raise_push (fl : Flags) : (c.raise fl).push = c.push := rfl
@[simp] theorem Core.raise_resume (fl : Flags) : (c.raise fl).resume = c.resume := rfl
@[simp] theorem Core.raise_preempt (fl : Flags) : (c.raise fl).preempt = c.preempt := rfl
@[simp] theorem Core.raise_requested (fl : Flags) : (c.raise fl).requested = c.requested := rfl
@[simp] theorem Core.raise_regrant (fl : Flags) : (c.raise fl).regrant = c.regrant := rfl
@[simp] theorem Core.raise_held (fl : Flags) : (c.raise fl).held = c.held := rfl
@[simp] theorem Core.raise_replies (fl : Flags) : (c.raise fl).replies = c.replies := rfl
@[simp] theorem Core.raise_trapS (fl : Flags) : (c.raise fl).trapS = c.trapS := rfl
@[simp] theorem Core.raise_trapH (fl : Flags) : (c.raise fl).trapH = c.trapH := rfl
@[simp] theorem Core.raise_trapM (fl : Flags) : (c.raise fl).trapM = c.trapM := rfl
@[simp] theorem Core.raise_l1d (fl : Flags) : (c.raise fl).l1d = c.l1d := rfl
@[simp] theorem Core.raise_events (fl : Flags) : (c.raise fl).events = c.events := rfl
@[simp] theorem Core.raise_arrived (fl : Flags) : (c.raise fl).arrived = c.arrived := rfl
@[simp] theorem Core.raise_badRegs (fl : Flags) : (c.raise fl).badRegs = c.badRegs := rfl

@[simp] theorem Core.setElem_run (r i : Nat) (v : Half) : (c.setElem r i v).run = c.run := rfl
@[simp] theorem Core.setElem_wait (r i : Nat) (v : Half) : (c.setElem r i v).wait = c.wait := rfl
@[simp] theorem Core.setElem_level (r i : Nat) (v : Half) : (c.setElem r i v).level = c.level := rfl
@[simp] theorem Core.setElem_pc (r i : Nat) (v : Half) : (c.setElem r i v).pc = c.pc := rfl
@[simp] theorem Core.setElem_x (r i : Nat) (v : Half) : (c.setElem r i v).x = c.x := rfl
@[simp] theorem Core.setElem_strip (r i : Nat) (v : Half) : (c.setElem r i v).strip = c.strip := rfl
@[simp] theorem Core.setElem_modes (r i : Nat) (v : Half) : (c.setElem r i v).modes = c.modes := rfl
@[simp] theorem Core.setElem_streams (r i : Nat) (v : Half) : (c.setElem r i v).streams = c.streams := rfl
@[simp] theorem Core.setElem_ident (r i : Nat) (v : Half) : (c.setElem r i v).ident = c.ident := rfl
@[simp] theorem Core.setElem_instret (r i : Nat) (v : Half) : (c.setElem r i v).instret = c.instret := rfl
@[simp] theorem Core.setElem_ticket (r i : Nat) (v : Half) : (c.setElem r i v).ticket = c.ticket := rfl
@[simp] theorem Core.setElem_win (r i : Nat) (v : Half) : (c.setElem r i v).win = c.win := rfl
@[simp] theorem Core.setElem_rider (r i : Nat) (v : Half) : (c.setElem r i v).rider = c.rider := rfl
@[simp] theorem Core.setElem_push (r i : Nat) (v : Half) : (c.setElem r i v).push = c.push := rfl
@[simp] theorem Core.setElem_resume (r i : Nat) (v : Half) : (c.setElem r i v).resume = c.resume := rfl
@[simp] theorem Core.setElem_preempt (r i : Nat) (v : Half) : (c.setElem r i v).preempt = c.preempt := rfl
@[simp] theorem Core.setElem_requested (r i : Nat) (v : Half) : (c.setElem r i v).requested = c.requested := rfl
@[simp] theorem Core.setElem_regrant (r i : Nat) (v : Half) : (c.setElem r i v).regrant = c.regrant := rfl
@[simp] theorem Core.setElem_held (r i : Nat) (v : Half) : (c.setElem r i v).held = c.held := rfl
@[simp] theorem Core.setElem_replies (r i : Nat) (v : Half) : (c.setElem r i v).replies = c.replies := rfl
@[simp] theorem Core.setElem_trapS (r i : Nat) (v : Half) : (c.setElem r i v).trapS = c.trapS := rfl
@[simp] theorem Core.setElem_trapH (r i : Nat) (v : Half) : (c.setElem r i v).trapH = c.trapH := rfl
@[simp] theorem Core.setElem_trapM (r i : Nat) (v : Half) : (c.setElem r i v).trapM = c.trapM := rfl
@[simp] theorem Core.setElem_l1d (r i : Nat) (v : Half) : (c.setElem r i v).l1d = c.l1d := rfl
@[simp] theorem Core.setElem_events (r i : Nat) (v : Half) : (c.setElem r i v).events = c.events := rfl
@[simp] theorem Core.setElem_arrived (r i : Nat) (v : Half) : (c.setElem r i v).arrived = c.arrived := rfl
@[simp] theorem Core.setElem_badRegs (r i : Nat) (v : Half) : (c.setElem r i v).badRegs = c.badRegs := rfl

@[simp] theorem Core.setTag_run (r : Nat) (t : Tag) : (c.setTag r t).run = c.run := rfl
@[simp] theorem Core.setTag_wait (r : Nat) (t : Tag) : (c.setTag r t).wait = c.wait := rfl
@[simp] theorem Core.setTag_level (r : Nat) (t : Tag) : (c.setTag r t).level = c.level := rfl
@[simp] theorem Core.setTag_pc (r : Nat) (t : Tag) : (c.setTag r t).pc = c.pc := rfl
@[simp] theorem Core.setTag_x (r : Nat) (t : Tag) : (c.setTag r t).x = c.x := rfl
@[simp] theorem Core.setTag_strip (r : Nat) (t : Tag) : (c.setTag r t).strip = c.strip := rfl
@[simp] theorem Core.setTag_modes (r : Nat) (t : Tag) : (c.setTag r t).modes = c.modes := rfl
@[simp] theorem Core.setTag_streams (r : Nat) (t : Tag) : (c.setTag r t).streams = c.streams := rfl
@[simp] theorem Core.setTag_ident (r : Nat) (t : Tag) : (c.setTag r t).ident = c.ident := rfl
@[simp] theorem Core.setTag_instret (r : Nat) (t : Tag) : (c.setTag r t).instret = c.instret := rfl
@[simp] theorem Core.setTag_ticket (r : Nat) (t : Tag) : (c.setTag r t).ticket = c.ticket := rfl
@[simp] theorem Core.setTag_win (r : Nat) (t : Tag) : (c.setTag r t).win = c.win := rfl
@[simp] theorem Core.setTag_rider (r : Nat) (t : Tag) : (c.setTag r t).rider = c.rider := rfl
@[simp] theorem Core.setTag_push (r : Nat) (t : Tag) : (c.setTag r t).push = c.push := rfl
@[simp] theorem Core.setTag_resume (r : Nat) (t : Tag) : (c.setTag r t).resume = c.resume := rfl
@[simp] theorem Core.setTag_preempt (r : Nat) (t : Tag) : (c.setTag r t).preempt = c.preempt := rfl
@[simp] theorem Core.setTag_requested (r : Nat) (t : Tag) : (c.setTag r t).requested = c.requested := rfl
@[simp] theorem Core.setTag_regrant (r : Nat) (t : Tag) : (c.setTag r t).regrant = c.regrant := rfl
@[simp] theorem Core.setTag_held (r : Nat) (t : Tag) : (c.setTag r t).held = c.held := rfl
@[simp] theorem Core.setTag_replies (r : Nat) (t : Tag) : (c.setTag r t).replies = c.replies := rfl
@[simp] theorem Core.setTag_trapS (r : Nat) (t : Tag) : (c.setTag r t).trapS = c.trapS := rfl
@[simp] theorem Core.setTag_trapH (r : Nat) (t : Tag) : (c.setTag r t).trapH = c.trapH := rfl
@[simp] theorem Core.setTag_trapM (r : Nat) (t : Tag) : (c.setTag r t).trapM = c.trapM := rfl
@[simp] theorem Core.setTag_l1d (r : Nat) (t : Tag) : (c.setTag r t).l1d = c.l1d := rfl
@[simp] theorem Core.setTag_events (r : Nat) (t : Tag) : (c.setTag r t).events = c.events := rfl
@[simp] theorem Core.setTag_arrived (r : Nat) (t : Tag) : (c.setTag r t).arrived = c.arrived := rfl

@[simp] theorem Core.setMask_run (k i : Nat) (b : Bool) : (c.setMask k i b).run = c.run := rfl
@[simp] theorem Core.setMask_wait (k i : Nat) (b : Bool) : (c.setMask k i b).wait = c.wait := rfl
@[simp] theorem Core.setMask_level (k i : Nat) (b : Bool) : (c.setMask k i b).level = c.level := rfl
@[simp] theorem Core.setMask_pc (k i : Nat) (b : Bool) : (c.setMask k i b).pc = c.pc := rfl
@[simp] theorem Core.setMask_x (k i : Nat) (b : Bool) : (c.setMask k i b).x = c.x := rfl
@[simp] theorem Core.setMask_strip (k i : Nat) (b : Bool) : (c.setMask k i b).strip = c.strip := rfl
@[simp] theorem Core.setMask_modes (k i : Nat) (b : Bool) : (c.setMask k i b).modes = c.modes := rfl
@[simp] theorem Core.setMask_streams (k i : Nat) (b : Bool) : (c.setMask k i b).streams = c.streams := rfl
@[simp] theorem Core.setMask_ident (k i : Nat) (b : Bool) : (c.setMask k i b).ident = c.ident := rfl
@[simp] theorem Core.setMask_instret (k i : Nat) (b : Bool) : (c.setMask k i b).instret = c.instret := rfl
@[simp] theorem Core.setMask_ticket (k i : Nat) (b : Bool) : (c.setMask k i b).ticket = c.ticket := rfl
@[simp] theorem Core.setMask_win (k i : Nat) (b : Bool) : (c.setMask k i b).win = c.win := rfl
@[simp] theorem Core.setMask_rider (k i : Nat) (b : Bool) : (c.setMask k i b).rider = c.rider := rfl
@[simp] theorem Core.setMask_push (k i : Nat) (b : Bool) : (c.setMask k i b).push = c.push := rfl
@[simp] theorem Core.setMask_resume (k i : Nat) (b : Bool) : (c.setMask k i b).resume = c.resume := rfl
@[simp] theorem Core.setMask_preempt (k i : Nat) (b : Bool) : (c.setMask k i b).preempt = c.preempt := rfl
@[simp] theorem Core.setMask_requested (k i : Nat) (b : Bool) : (c.setMask k i b).requested = c.requested := rfl
@[simp] theorem Core.setMask_regrant (k i : Nat) (b : Bool) : (c.setMask k i b).regrant = c.regrant := rfl
@[simp] theorem Core.setMask_held (k i : Nat) (b : Bool) : (c.setMask k i b).held = c.held := rfl
@[simp] theorem Core.setMask_replies (k i : Nat) (b : Bool) : (c.setMask k i b).replies = c.replies := rfl
@[simp] theorem Core.setMask_trapS (k i : Nat) (b : Bool) : (c.setMask k i b).trapS = c.trapS := rfl
@[simp] theorem Core.setMask_trapH (k i : Nat) (b : Bool) : (c.setMask k i b).trapH = c.trapH := rfl
@[simp] theorem Core.setMask_trapM (k i : Nat) (b : Bool) : (c.setMask k i b).trapM = c.trapM := rfl
@[simp] theorem Core.setMask_l1d (k i : Nat) (b : Bool) : (c.setMask k i b).l1d = c.l1d := rfl
@[simp] theorem Core.setMask_events (k i : Nat) (b : Bool) : (c.setMask k i b).events = c.events := rfl
@[simp] theorem Core.setMask_arrived (k i : Nat) (b : Bool) : (c.setMask k i b).arrived = c.arrived := rfl
@[simp] theorem Core.setMask_badRegs (k i : Nat) (b : Bool) : (c.setMask k i b).badRegs = c.badRegs := rfl

@[simp] theorem Core.setPair_run (r i : Nat) (v : Word) : (c.setPair r i v).run = c.run := rfl
@[simp] theorem Core.setPair_wait (r i : Nat) (v : Word) : (c.setPair r i v).wait = c.wait := rfl
@[simp] theorem Core.setPair_level (r i : Nat) (v : Word) : (c.setPair r i v).level = c.level := rfl
@[simp] theorem Core.setPair_pc (r i : Nat) (v : Word) : (c.setPair r i v).pc = c.pc := rfl
@[simp] theorem Core.setPair_x (r i : Nat) (v : Word) : (c.setPair r i v).x = c.x := rfl
@[simp] theorem Core.setPair_strip (r i : Nat) (v : Word) : (c.setPair r i v).strip = c.strip := rfl
@[simp] theorem Core.setPair_modes (r i : Nat) (v : Word) : (c.setPair r i v).modes = c.modes := rfl
@[simp] theorem Core.setPair_streams (r i : Nat) (v : Word) : (c.setPair r i v).streams = c.streams := rfl
@[simp] theorem Core.setPair_ident (r i : Nat) (v : Word) : (c.setPair r i v).ident = c.ident := rfl
@[simp] theorem Core.setPair_instret (r i : Nat) (v : Word) : (c.setPair r i v).instret = c.instret := rfl
@[simp] theorem Core.setPair_ticket (r i : Nat) (v : Word) : (c.setPair r i v).ticket = c.ticket := rfl
@[simp] theorem Core.setPair_win (r i : Nat) (v : Word) : (c.setPair r i v).win = c.win := rfl
@[simp] theorem Core.setPair_rider (r i : Nat) (v : Word) : (c.setPair r i v).rider = c.rider := rfl
@[simp] theorem Core.setPair_push (r i : Nat) (v : Word) : (c.setPair r i v).push = c.push := rfl
@[simp] theorem Core.setPair_resume (r i : Nat) (v : Word) : (c.setPair r i v).resume = c.resume := rfl
@[simp] theorem Core.setPair_preempt (r i : Nat) (v : Word) : (c.setPair r i v).preempt = c.preempt := rfl
@[simp] theorem Core.setPair_requested (r i : Nat) (v : Word) : (c.setPair r i v).requested = c.requested := rfl
@[simp] theorem Core.setPair_regrant (r i : Nat) (v : Word) : (c.setPair r i v).regrant = c.regrant := rfl
@[simp] theorem Core.setPair_held (r i : Nat) (v : Word) : (c.setPair r i v).held = c.held := rfl
@[simp] theorem Core.setPair_replies (r i : Nat) (v : Word) : (c.setPair r i v).replies = c.replies := rfl
@[simp] theorem Core.setPair_trapS (r i : Nat) (v : Word) : (c.setPair r i v).trapS = c.trapS := rfl
@[simp] theorem Core.setPair_trapH (r i : Nat) (v : Word) : (c.setPair r i v).trapH = c.trapH := rfl
@[simp] theorem Core.setPair_trapM (r i : Nat) (v : Word) : (c.setPair r i v).trapM = c.trapM := rfl
@[simp] theorem Core.setPair_l1d (r i : Nat) (v : Word) : (c.setPair r i v).l1d = c.l1d := rfl
@[simp] theorem Core.setPair_events (r i : Nat) (v : Word) : (c.setPair r i v).events = c.events := rfl
@[simp] theorem Core.setPair_arrived (r i : Nat) (v : Word) : (c.setPair r i v).arrived = c.arrived := rfl
@[simp] theorem Core.setPair_badRegs (r i : Nat) (v : Word) : (c.setPair r i v).badRegs = c.badRegs := rfl

@[simp] theorem Core.setStream_run (i : Nat) (v : Stream) : (c.setStream i v).run = c.run := rfl
@[simp] theorem Core.setStream_wait (i : Nat) (v : Stream) : (c.setStream i v).wait = c.wait := rfl
@[simp] theorem Core.setStream_level (i : Nat) (v : Stream) : (c.setStream i v).level = c.level := rfl
@[simp] theorem Core.setStream_pc (i : Nat) (v : Stream) : (c.setStream i v).pc = c.pc := rfl
@[simp] theorem Core.setStream_x (i : Nat) (v : Stream) : (c.setStream i v).x = c.x := rfl
@[simp] theorem Core.setStream_strip (i : Nat) (v : Stream) : (c.setStream i v).strip = c.strip := rfl
@[simp] theorem Core.setStream_modes (i : Nat) (v : Stream) : (c.setStream i v).modes = c.modes := rfl
@[simp] theorem Core.setStream_vec (i : Nat) (v : Stream) : (c.setStream i v).vec = c.vec := rfl
@[simp] theorem Core.setStream_ident (i : Nat) (v : Stream) : (c.setStream i v).ident = c.ident := rfl
@[simp] theorem Core.setStream_instret (i : Nat) (v : Stream) : (c.setStream i v).instret = c.instret := rfl
@[simp] theorem Core.setStream_ticket (i : Nat) (v : Stream) : (c.setStream i v).ticket = c.ticket := rfl
@[simp] theorem Core.setStream_win (i : Nat) (v : Stream) : (c.setStream i v).win = c.win := rfl
@[simp] theorem Core.setStream_rider (i : Nat) (v : Stream) : (c.setStream i v).rider = c.rider := rfl
@[simp] theorem Core.setStream_push (i : Nat) (v : Stream) : (c.setStream i v).push = c.push := rfl
@[simp] theorem Core.setStream_resume (i : Nat) (v : Stream) : (c.setStream i v).resume = c.resume := rfl
@[simp] theorem Core.setStream_preempt (i : Nat) (v : Stream) : (c.setStream i v).preempt = c.preempt := rfl
@[simp] theorem Core.setStream_requested (i : Nat) (v : Stream) : (c.setStream i v).requested = c.requested := rfl
@[simp] theorem Core.setStream_regrant (i : Nat) (v : Stream) : (c.setStream i v).regrant = c.regrant := rfl
@[simp] theorem Core.setStream_held (i : Nat) (v : Stream) : (c.setStream i v).held = c.held := rfl
@[simp] theorem Core.setStream_replies (i : Nat) (v : Stream) : (c.setStream i v).replies = c.replies := rfl
@[simp] theorem Core.setStream_trapS (i : Nat) (v : Stream) : (c.setStream i v).trapS = c.trapS := rfl
@[simp] theorem Core.setStream_trapH (i : Nat) (v : Stream) : (c.setStream i v).trapH = c.trapH := rfl
@[simp] theorem Core.setStream_trapM (i : Nat) (v : Stream) : (c.setStream i v).trapM = c.trapM := rfl
@[simp] theorem Core.setStream_l1d (i : Nat) (v : Stream) : (c.setStream i v).l1d = c.l1d := rfl
@[simp] theorem Core.setStream_events (i : Nat) (v : Stream) : (c.setStream i v).events = c.events := rfl
@[simp] theorem Core.setStream_arrived (i : Nat) (v : Stream) : (c.setStream i v).arrived = c.arrived := rfl

@[simp] theorem Core.clearVec_run : (c.clearVec).run = c.run := rfl
@[simp] theorem Core.clearVec_wait : (c.clearVec).wait = c.wait := rfl
@[simp] theorem Core.clearVec_level : (c.clearVec).level = c.level := rfl
@[simp] theorem Core.clearVec_pc : (c.clearVec).pc = c.pc := rfl
@[simp] theorem Core.clearVec_x : (c.clearVec).x = c.x := rfl
@[simp] theorem Core.clearVec_strip : (c.clearVec).strip = c.strip := rfl
@[simp] theorem Core.clearVec_modes : (c.clearVec).modes = c.modes := rfl
@[simp] theorem Core.clearVec_streams : (c.clearVec).streams = c.streams := rfl
@[simp] theorem Core.clearVec_ident : (c.clearVec).ident = c.ident := rfl
@[simp] theorem Core.clearVec_instret : (c.clearVec).instret = c.instret := rfl
@[simp] theorem Core.clearVec_ticket : (c.clearVec).ticket = c.ticket := rfl
@[simp] theorem Core.clearVec_win : (c.clearVec).win = c.win := rfl
@[simp] theorem Core.clearVec_rider : (c.clearVec).rider = c.rider := rfl
@[simp] theorem Core.clearVec_push : (c.clearVec).push = c.push := rfl
@[simp] theorem Core.clearVec_resume : (c.clearVec).resume = c.resume := rfl
@[simp] theorem Core.clearVec_preempt : (c.clearVec).preempt = c.preempt := rfl
@[simp] theorem Core.clearVec_requested : (c.clearVec).requested = c.requested := rfl
@[simp] theorem Core.clearVec_regrant : (c.clearVec).regrant = c.regrant := rfl
@[simp] theorem Core.clearVec_held : (c.clearVec).held = c.held := rfl
@[simp] theorem Core.clearVec_replies : (c.clearVec).replies = c.replies := rfl
@[simp] theorem Core.clearVec_trapS : (c.clearVec).trapS = c.trapS := rfl
@[simp] theorem Core.clearVec_trapH : (c.clearVec).trapH = c.trapH := rfl
@[simp] theorem Core.clearVec_trapM : (c.clearVec).trapM = c.trapM := rfl
@[simp] theorem Core.clearVec_l1d : (c.clearVec).l1d = c.l1d := rfl
@[simp] theorem Core.clearVec_events : (c.clearVec).events = c.events := rfl
@[simp] theorem Core.clearVec_arrived : (c.clearVec).arrived = c.arrived := rfl

/-! ## Registers -/

@[simp] theorem Core.xreg_zero : c.xreg 0 = 0 := rfl
@[simp] theorem Core.setX_zero (v : Word) : c.setX 0 v = c := rfl
/-- A written register reads as written, x0 as 0, every other as before (R110). -/
theorem Core.xreg_setX (r q : Nat) (v : Word) : (c.setX r v).xreg q = if q = r ∧ r ≠ 0 then v else c.xreg q := by
  unfold Core.setX Core.xreg
  by_cases hr : r = 0 <;> by_cases hq : q = 0 <;> by_cases h : q = r <;> simp_all [Tbl.get_set]
@[simp] theorem Core.xreg_raise (fl : Flags) (q : Nat) : (c.raise fl).xreg q = c.xreg q := rfl
@[simp] theorem Core.raise_none : c.raise 0 = c := by
  simp [Core.raise]
theorem Core.elem_setElem (r i q j : Nat) (v : Half) :
    (c.setElem r i v).elem q j = if slotKey q j = slotKey r i then v else c.elem q j := Tbl.get_set ..
theorem Core.tag_setTag (r q : Nat) (t : Tag) : (c.setTag r t).tag q = if q = r then t else c.tag q := Tbl.get_set ..
theorem Core.mask_setMask (k i q j : Nat) (b : Bool) (hq : q ≠ 0) :
    (c.setMask k i b).mask q j = if slotKey q j = slotKey k i then b else c.mask q j := by
  simp [Core.mask, Core.setMask, hq, Tbl.get_set]
@[simp] theorem Core.mask_zero (i : Nat) : c.mask 0 i = true := rfl
theorem Core.pairBits_setPair (r i q j : Nat) (v : Word) :
    (c.setPair r i v).pairBits q j = if slotKey q j = slotKey r i then v else c.pairBits q j := Tbl.get_set ..
theorem Core.stream_setStream (i j : Nat) (v : Stream) :
    (c.setStream i v).stream j = if j = i then v else c.stream j := Tbl.get_set ..
@[simp] theorem Core.elem_setTag (r q j : Nat) (t : Tag) : (c.setTag r t).elem q j = c.elem q j := rfl
@[simp] theorem Core.tag_setElem (r i q : Nat) (v : Half) : (c.setElem r i v).tag q = c.tag q := rfl

/-- Two slots of one register, below the 512 of a register, are one slot only if their indexes are equal. -/
theorem slotKey_inj {r q i j : Nat} (hi : i < 512) (hj : j < 512) (h : slotKey q j = slotKey r i) : q = r ∧ j = i := by
  unfold slotKey at h; omega

end Sys2Proof.Machine
end

