-- ==== Sys2Proof/Laws/Ops.lean ====
section
/-!
SUPPORT. Laws/Ops.lean: what issuing and retiring an instruction does, once for every instruction.
-/

namespace Sys2Proof.Machine

/-- An instruction before which nothing stands has its own effect. -/
theorem gate_clear {i : Instr} {s : State} (h : Clear i s) (body : State → Done) : gate i s.cur s body = body s := by
  obtain ⟨⟨_, h1, h2, h3, h4, h5, hq⟩, h8⟩ := h
  simp only [State.core_def] at h2 h4 h8
  unfold gate
  have hp : s.popWaits s.cur = false := by simp [State.popWaits, h8]
  have hr : s.popRider s.cur = s := by simp [State.popRider, h8]
  have hz : (reachesLanes (firstWord i) && (s.coreAt s.cur).strip.len == 0) = false := by
    cases hl : reachesLanes (firstWord i) with
    | false => simp
    | true => simpa using h4 hl
  simp only [h1, h2, h3, h5, h8, hp, hq, hr, hz, Option.filter_none, Bool.false_eq_true, if_false]

/-- A value returned by an instruction that no queue held is written at once. -/
theorem State.reply_fresh {s : State} {n : Nat} (h : (s.coreAt n).resume = none) (d : Nat) (v : Word) :
    s.reply n d v = s.updCoreAt n fun c => c.setX d v := by
  simp [State.reply, h]

/-- A core with no reply waiting has none to write. -/
theorem Core.writeReplies_none {c : Core} (h : c.replies = []) : c.writeReplies = c := by
  simp [Core.writeReplies, h, Core.writeSome]

/-- Retirement without a rider changes only the core. -/
theorem retireTo_alone {s : State} {n : Nat} (h : (s.coreAt n).rider = none) (pc : Word) :
    s.retireTo n pc = s.setCoreAt n ((s.coreAt n).retired pc) := by
  unfold State.retireTo
  simp [h, State.updCoreAt_def, Core.retired]

/-- The end of an instruction that retires. -/
theorem finish_retire {i : Instr} {s : State} {n : Nat} (h : (s.coreAt n).rider = none) :
    finish i n (.retire s) = s.setCoreAt n ((s.coreAt n).retired ((s.coreAt n).pc + .ofNat 64 (lengthOf i))) :=
  retireTo_alone h _

/-- The end of an instruction that jumps. -/
theorem finish_jump {i : Instr} {s : State} {n : Nat} (pc : Word) (h : (s.coreAt n).rider = none) :
    finish i n (.jump s pc) = s.setCoreAt n ((s.coreAt n).retired pc) :=
  retireTo_alone h _

/-- Every instruction that is issued answers a next state. -/
theorem issue_next (i : Instr) (s : State) (body : State → Done) :
    issue i s body = .next (finish i s.cur (gate i s.cur s body)) := rfl

/-- An instruction before which nothing stands ends as its own effect says. -/
theorem issue_clear {i : Instr} {s : State} (h : Clear i s) (body : State → Done) :
    issue i s body = .next (finish i s.cur (body s)) := by
  rw [issue_next, gate_clear h]

/-- An instruction that only changes its core and retires. -/
theorem issue_core {i : Instr} {s : State} (h : Clear i s) (body : State → Done) (c : Core)
    (hb : body s = .retire (s.setCore c)) (hr : c.rider = none) (hp : c.pc = s.core.pc) :
    issue i s body = .next (s.retires i c) := by
  rw [issue_clear h, hb, finish_retire]
  · simp only [State.setCore, State.coreAt_setCoreAt_same, State.setCoreAt_setCoreAt, hp]
    rfl
  · simp [State.setCore, hr]

/-- An instruction that retires with nothing changed. -/
theorem issue_still {i : Instr} {s : State} (h : Clear i s) (body : State → Done) (hb : body s = .retire s) :
    issue i s body = .next (s.retires i s.core) := by
  rw [issue_clear h, hb, finish_retire h.alone]
  rfl

/-- A lead trap of an instruction without a rider, before any of its effect. -/
theorem finish_lead {i : Instr} {s : State} {n cause tval : Nat} (h : (s.coreAt n).rider = none) :
    finish i n (.lead s cause tval) =
      (s.updCoreAt n fun c => { c.stopsLead with resume := none }).takeTrap n cause tval := by
  simp [finish, State.undoRider, h]

/-- A lead trap of an instruction before which nothing stands. -/
theorem issue_lead {i : Instr} {s : State} (h : Clear i s) (body : State → Done) (cause tval : Nat)
    (hb : body s = .lead s cause tval) : issue i s body = .next (s.trapped cause tval) := by
  rw [issue_clear h, hb, finish_lead h.alone]
  rfl

/-- A scalar operation of the x, xi and xl groups. -/
theorem scalarOp_clear {i : Instr} {s : State} (h : Clear i s) (d : Nat) (f : Core → Word × Flags) :
    scalarOp i s d f = .next (s.retires i
      (if d = 0 then s.core else (s.core.setX d (f s.core).1).raise (f s.core).2)) := by
  unfold scalarOp
  by_cases hd : d = 0
  · rw [if_pos hd]
    exact issue_still h _ (by simp [hd])
  · rw [if_neg hd]
    exact issue_core h _ _ (by simp [hd, State.updCore_def, State.setCore]) (by simp [h.alone]) (by simp)

/-- A scalar floating-point operation. -/
theorem floatOp_clear {i : Instr} {s : State} (h : Clear i s) (d : Nat) (f : Core → Word × Flags) :
    floatOp i s d f = .next (s.retires i ((s.core.setX d (f s.core).1).raise (f s.core).2)) :=
  issue_core h _ _ rfl (by simp [h.alone]) (by simp)

/-- A branch. -/
theorem branch_clear {i : Instr} {s : State} (h : Clear i s) (a b : Nat) (off : BitVec 11)
    (cond : Word → Word → Bool) :
    branch i s a b off cond = .next (s.setCore (s.core.retired
      (if cond (s.x a) (s.x b) then branchTarget s.core.pc off else s.core.pc + 4))) := by
  unfold branch
  rw [issue_clear h]
  split <;> (rw [finish_jump _ h.alone]; simp_all [State.setCore, State.core_def])

end Sys2Proof.Machine
end

