-- ==== Sys2Proof/Laws/Access.lean ====
section
/-!
SUPPORT. Laws/Access.lean: what locating and reading an access leaves alone: the turn, the partitions and, of every
core, all but its L1D and counters.
-/

namespace Sys2Proof.Machine

/-- A core as it was but for its L1D and counters. -/
def Core.near (c d : Core) : Prop := ∃ l e, d = { c with l1d := l, events := e }

/-- A state with the same turn and partitions, and the same cores but for their L1D and counters. -/
def State.near (s t : State) : Prop := t.cur = s.cur ∧ t.parts = s.parts ∧ ∀ n, (s.coreAt n).near (t.coreAt n)

theorem Core.near_refl (c : Core) : c.near c := ⟨c.l1d, c.events, rfl⟩

theorem Core.near_trans {c d e : Core} (h : c.near d) (k : d.near e) : c.near e := by
  obtain ⟨l, v, rfl⟩ := h
  obtain ⟨l', v', rfl⟩ := k
  exact ⟨l', v', rfl⟩

theorem State.near_refl (s : State) : s.near s := ⟨rfl, rfl, fun _ => Core.near_refl _⟩

theorem State.near_trans {s t u : State} (h : s.near t) (k : t.near u) : s.near u :=
  ⟨k.1.trans h.1, k.2.1.trans h.2.1, fun n => Core.near_trans (h.2.2 n) (k.2.2 n)⟩

theorem State.near_of_cores {s t : State} (h1 : t.cur = s.cur) (h2 : t.parts = s.parts) (h3 : t.cores = s.cores) :
    s.near t := ⟨h1, h2, fun n => by simp only [State.coreAt, h3]; exact Core.near_refl _⟩

theorem State.near_updCoreAt {s : State} {n : Nat} {f : Core → Core} (h : (s.coreAt n).near (f (s.coreAt n))) :
    s.near (s.updCoreAt n f) := by
  refine ⟨rfl, rfl, fun m => ?_⟩
  by_cases hm : m = n
  · subst hm
    simpa [State.updCoreAt_def] using h
  · simp [State.updCoreAt_def, State.coreAt_setCoreAt_other _ _ hm, Core.near_refl]

theorem State.near_used (s : State) : s.near s.used := near_of_cores rfl rfl rfl
theorem State.near_report (s : State) (r : Report) : s.near (s.report r) := near_of_cores rfl rfl rfl
theorem State.near_updHub (s : State) (f : Hub → Hub) : s.near (s.updHub f) := near_of_cores rfl rfl rfl
theorem State.near_setBytes (s : State) (k : Nat) (bs : List Byte) : s.near (s.setBytes k bs) := near_of_cores rfl rfl rfl
theorem State.near_later (s : State) (i : Instr) : s.near (s.later i) := near_of_cores rfl rfl rfl
theorem State.near_countCluster (s : State) (c k n : Nat) : s.near (s.countCluster c k n) := near_of_cores rfl rfl rfl
theorem State.near_updClusterAt (s : State) (c : Nat) (f : Cluster → Cluster) : s.near (s.updClusterAt c f) :=
  near_of_cores rfl rfl rfl

theorem State.near_countCore (s : State) (c k n : Nat) : s.near (s.countCore c k n) := by
  unfold State.countCore
  split
  · exact near_updCoreAt ⟨_, _, rfl⟩
  · exact near_refl s

theorem State.near_foldl {f : State → α → State} (h : ∀ (s : State) a, s.near (f s a)) (l : List α) :
    ∀ s : State, s.near (l.foldl f s) := by
  induction l with
  | nil => exact near_refl
  | cons a l ih => exact fun s => near_trans (h s a) (ih _)

theorem State.near_updHealth (s : State) (d : Nat) (f : Health → Health) : s.near (s.updHealth d f) := near_updHub ..

theorem State.near_detect (s : State) (by_ : Option Nat) (k : Nat) : s.near (s.detect by_ k) := by
  refine near_trans (near_report s (.uncorrectable (s.physOf k))) ?_
  unfold State.detect
  simp only []
  split
  · exact near_countCluster ..
  · exact near_updHealth ..
  · split
    · exact near_countCluster ..
    · exact near_refl _

theorem State.near_countSoft (s : State) (k : Nat) : s.near (s.countSoft k) := by
  unfold State.countSoft
  split
  · exact near_countCluster ..
  · exact near_updHealth ..
  · exact near_refl s

theorem State.near_correct (s : State) (k n : Nat) : s.near (s.correct k n) := by
  unfold State.correct
  split
  · exact near_refl s
  · exact near_trans (near_updHub ..) (near_foldl (fun s w => near_countSoft s _) _ _)

theorem State.near_transfer (s : State) (k : Nat) : s.near (s.transfer k).1 := by
  unfold State.transfer
  split
  · exact near_refl s
  · split
    · exact near_refl s
    · simp only []
      split
      · exact near_refl s
      · exact near_trans (near_updHub s _) (near_updHealth ..)

theorem State.near_foldr {f : α → State → State} (h : ∀ (s : State) a, s.near (f a s)) (s : State) (l : List α) :
    s.near (l.foldr f s) := by
  induction l with
  | nil => exact near_refl s
  | cons a l ih => exact near_trans ih (h _ a)

theorem State.near_walkReads (s : State) (p : Part) (va : Nat) (path : List (Nat × Nat × Nat)) :
    s.near (s.walkReads p va path) := by
  unfold State.walkReads
  split
  · exact near_refl s
  · refine near_foldr (fun s e => ?_) s path
    split
    · exact near_transfer ..
    · exact near_refl s

theorem State.near_dirRead (s : State) (p : Part) (w : Who) : s.near (s.dirRead p w) := by
  unfold State.dirRead
  split
  · exact near_refl s
  · exact near_refl s
  · exact near_transfer ..

theorem State.near_fillTlb (s : State) (t : TlbEntry) : s.near (s.fillTlb t) := by
  unfold State.fillTlb
  split <;> exact near_of_cores rfl rfl rfl

theorem State.near_useLeaf (s : State) (pn : Nat) (w : Who) (k : Acc) (va e key page : Nat) (big : Bool) :
    s.near (s.useLeaf pn w k va e key page big) := by
  refine near_trans ?_ (near_foldl (fun s h => near_fillTlb s _) _ _)
  split
  · exact near_refl s
  · exact near_setBytes ..

theorem State.near_fillWalks (s : State) (pn : Nat) (w : Who) (path : List (Nat × Nat × Nat)) :
    s.near (s.fillWalks pn w path) := by
  refine near_foldl (fun s e => ?_) _ _
  simp only []
  split <;> exact near_of_cores rfl rfl rfl

theorem State.near_discardDenied (s : State) (p : Part) (pn : Nat) (w : Who) (k : Acc) (va : Nat) :
    s.near (s.discardDenied p pn w k va) := near_of_cores rfl rfl rfl

theorem near_translate (s : State) (w : Who) (k : Acc) (va : Nat) : s.near (translate s w k va).1 := by
  unfold translate
  split
  · simp only []
    split <;> exact State.near_refl s
  · simp only []
    have h0 : ∀ b : Bool, s.near (if b = true then s else s.used) := fun b => by
      split
      · exact State.near_refl s
      · exact State.near_used s
    generalize hp : (State.routes _ _ _ _ _ _ _).isEmpty = b
    split
    · exact h0 b
    · exact State.near_trans (h0 b) (State.near_trans (State.near_trans (State.near_walkReads ..) (State.near_useLeaf ..))
        (State.near_fillWalks ..))
    · rename_i pn _ _ _
      refine State.near_trans (h0 b) ?_
      generalize (if b = true then s else s.used) = t
      refine State.near_trans (State.near_trans (State.near_trans (State.near_discardDenied t (s.partAt pn) pn w k va)
        (State.near_dirRead _ (s.partAt pn) w)) (State.near_walkReads _ (s.partAt pn) va
          (walk s (s.partAt pn) w k va).path)) ?_
      split
      · split
        · exact State.near_trans (State.near_fillWalks ..) (State.near_detect ..)
        · exact State.near_fillWalks ..
      · exact State.near_trans (State.near_useLeaf ..) (State.near_fillWalks ..)

theorem near_locateBlock (s : State) (w : Who) (k : Acc) (va n : Nat) : s.near (locateBlock s w k va n).1 := by
  unfold locateBlock
  split
  · exact State.near_refl s
  · split
    · split <;> exact State.near_refl s
    · have h := near_translate s w k va
      split
      · rename_i e; rw [e] at h; exact h
      · rename_i e; rw [e] at h
        simp only []
        split
        · exact h
        · exact h
        · split <;> exact h

/-- Locating an access. -/
theorem near_locate (s : State) (w : Who) (k : Acc) (va n align : Nat) : s.near (locate s w k va n align).1 := by
  unfold locate
  split
  · exact State.near_refl s
  · simp only []
    split
    · exact near_locateBlock ..
    · exact State.near_trans (near_locateBlock ..) (near_locateBlock ..)

theorem State.near_transferRuns (runs : List (Nat × Nat)) : ∀ s : State, s.near (s.transferRuns runs).1 := by
  induction runs with
  | nil => exact near_refl
  | cons r rs ih =>
    intro s
    unfold State.transferRuns
    have h := s.near_transfer r.1
    split
    · rename_i e; rw [e] at h; exact near_trans h (ih _)
    · rename_i e; rw [e] at h; exact h

theorem State.near_readRuns (s : State) (by_ : Option Nat) (runs : List (Nat × Nat)) :
    s.near (s.readRuns by_ runs).1 := by
  unfold State.readRuns
  have h := near_transferRuns runs s
  split
  · rename_i e; rw [e] at h; exact near_trans h (near_detect ..)
  · rename_i e; rw [e] at h
    split
    · exact near_trans h (near_detect ..)
    · exact near_trans h (near_foldl (fun s r => near_correct s _ _) _ _)

/-- A read of the device registers changes nothing. -/
theorem State.regRead_same (s : State) (w : Who) (pa n : Nat) (user : Bool) : (s.regRead w pa n user).1 = s := by
  unfold State.regRead
  generalize regOf pa = r
  rcases r with _ | r
  · rfl
  · cases r <;> simp only [] <;> (repeat' split) <;> rfl

theorem State.near_hostLoad (s : State) (w : Who) (bus n : Nat) : s.near (s.hostLoad w bus n).1 := by
  unfold State.hostLoad
  simp only []
  split <;> exact near_of_cores rfl rfl rfl

theorem State.near_loadPiece (s : State) (w : Who) (c : Chunk) : s.near (s.loadPiece w c).1 := by
  unfold State.loadPiece
  cases c with
  | mem k n =>
    simp only []
    have h := s.near_readRuns w.cluster [(k, n)]
    split <;> (rename_i e; rw [e] at h; exact h)
  | host b n => exact near_hostLoad ..
  | regs pa n u => simp only [regRead_same]; exact near_refl s

theorem State.near_loadPieces (w : Who) (l : List Chunk) : ∀ s : State, s.near (s.loadPieces w l).1 := by
  induction l with
  | nil => exact near_refl
  | cons p ps ih =>
    intro s
    unfold State.loadPieces
    have h := s.near_loadPiece w p
    split
    · rename_i e; rw [e] at h; exact h
    · rename_i t v e; rw [e] at h
      have h2 := ih t
      split <;> (rename_i e2; rw [e2] at h2; exact near_trans h h2)

theorem State.near_noted (s : State) (loc : Loc) : s.near (s.noted loc) := by
  unfold State.noted
  split
  · split
    · exact near_of_cores rfl rfl rfl
    · exact near_refl s
  · exact near_refl s

/-- Reading a location. -/
theorem State.near_loadLoc (s : State) (w : Who) (loc : Loc) (n : Nat) : s.near (s.loadLoc w loc n).1 := by
  unfold State.loadLoc
  refine near_trans (near_noted s loc) ?_
  simp only []
  generalize s.noted loc = t
  split
  · rename_i runs _ _
    have h := t.near_readRuns w.cluster runs
    split <;> (rename_i e; rw [e] at h; exact h)
  · exact near_hostLoad ..
  · rw [regRead_same]; exact near_refl t
  · exact near_loadPieces ..

theorem State.near_fillLine (s : State) (n k : Nat) : s.near (s.fillLine n k) := near_updCoreAt ⟨_, _, rfl⟩

theorem State.near_dropL1d (s : State) (n : Nat) : s.near (s.dropL1d n) := near_updCoreAt ⟨_, _, rfl⟩

theorem State.near_l1dLoad (s : State) (n k size : Nat) : s.near (s.l1dLoad n k size).1 := by
  unfold State.l1dLoad
  have h := s.near_readRuns (s.who n).cluster [(k, size)]
  split
  · rename_i e; rw [e] at h; exact h
  · rename_i e; rw [e] at h
    refine near_trans h ?_
    split
    · exact near_fillLine ..
    · simp only []
      split
      · exact near_refl _
      · split
        · exact near_used _
        · exact near_trans (near_used _) (near_fillLine ..)

/-- A scalar load. -/
theorem State.near_loadScalar (s : State) (n va size : Nat) : s.near (s.loadScalar n va size).1 := by
  unfold State.loadScalar
  have h := near_locate s (s.who n) .read va size size
  simp only []
  split
  · rename_i e; rw [e] at h; exact h
  · rename_i t l e; rw [e] at h
    split
    · exact near_trans h (near_l1dLoad ..)
    · exact near_trans h (near_loadLoc ..)

theorem State.near_updateLines (s : State) (n : Nat) (runs : List (Nat × Nat)) (bs : List Byte) :
    s.near (s.updCoreAt n fun c => c.updateLines runs bs) := by
  refine near_updCoreAt ?_
  unfold Core.updateLines
  split <;> exact ⟨_, _, rfl⟩

/-- A read past the L1D. -/
theorem State.near_loadDirect (s : State) (n va : Nat) : s.near (s.loadDirect n va).1 := by
  unfold State.loadDirect
  have h := near_locate s (s.who n) .read va 8 8
  simp only []
  split
  · rename_i e; rw [e] at h; exact h
  · rename_i t l e; rw [e] at h
    have h2 := t.near_loadLoc (s.who n) l 8
    split
    · rename_i e2; rw [e2] at h2; exact near_trans h h2
    · rename_i e2; rw [e2] at h2
      exact near_trans h (near_trans h2 (near_updateLines ..))

/-- A block read by scalar loads. -/
theorem State.near_loadBlock (s : State) (n va k : Nat) : s.near (s.loadBlock n va k).1 := by
  induction k generalizing s va with
  | zero => exact near_refl s
  | succ k ih =>
    unfold State.loadBlock
    have h := s.near_loadScalar n va 8
    split
    · rename_i e; rw [e] at h; exact h
    · rename_i t v e; rw [e] at h
      have h2 := ih t ((va + 8) % 2 ^ 64)
      split
      · rename_i e2; rw [e2] at h2; exact near_trans h h2
      · rename_i e2; rw [e2] at h2; exact near_trans h h2

/-- Fetching a word, and an instruction. -/
theorem State.near_fetchWord (s : State) (n va : Nat) : s.near (s.fetchWord n va).1 := by
  unfold State.fetchWord
  have h := near_locate s (s.who n) .fetch va 4 4
  simp only []
  split
  · rename_i e; rw [e] at h; exact h
  · rename_i t l e; rw [e] at h
    exact near_trans h (near_loadLoc ..)

theorem State.near_fetchAt (s : State) (n : Nat) (pc : Word) : s.near (s.fetchAt n pc).1 := by
  unfold State.fetchAt
  have h := s.near_fetchWord n pc.toNat
  split
  · rename_i e; rw [e] at h; exact h
  · rename_i t w e; rw [e] at h
    split
    · have h2 := t.near_fetchWord n (pc + 4).toNat
      split <;> (rename_i e2; rw [e2] at h2; exact near_trans h h2)
    · exact h

theorem State.near_fetch (s : State) (n : Nat) : s.near (s.fetch n).1 := near_fetchAt ..

theorem State.near_checkElem (s : State) (w : Who) (k : Acc) (e : Elem) : s.near (s.checkElem w k e).1 := by
  unfold State.checkElem
  have h := near_locate s w k e.addr e.span e.align
  split
  · rename_i e2; rw [e2] at h; exact h
  · rename_i e2; rw [e2] at h; exact h

theorem State.near_loadElem (s : State) (w : Who) (x : Elem × Loc) : s.near (s.loadElem w x).1 := by
  unfold State.loadElem
  have h := s.near_loadLoc w x.2 x.1.span
  split
  · rename_i e2; rw [e2] at h; exact h
  · rename_i e2; rw [e2] at h; exact h

theorem State.near_p0Load (s : State) (n : Nat) (w : Who) (x : Elem × Loc) : s.near (s.p0Load n w x).1 := by
  unfold State.p0Load
  exact near_trans (near_updCoreAt ⟨_, _, rfl⟩) (near_loadElem ..)

/-- Checking the elements of a strip. -/
theorem near_checks (sel : Nat → Bool) (chk : State → Nat → State × Except Hit α) (h : ∀ s k, State.near s (chk s k).1)
    (k i : Nat) (s : State) : s.near (checks sel chk k i s).1 := by
  induction k generalizing i s with
  | zero => exact State.near_refl s
  | succ k ih =>
    unfold checks
    split
    · have h1 := h s i
      split
      · rename_i e; rw [e] at h1; exact h1
      · rename_i t a e; rw [e] at h1
        exact State.near_trans h1 (ih (i + 1) t)
    · exact ih (i + 1) s

theorem near_checksAll (sel : Nat → Bool) (chk : State → Nat → State × Except Hit α)
    (pages : State → Nat → Hit → State × List Nat) (h : ∀ s k, State.near s (chk s k).1)
    (g : ∀ s k x, State.near s (pages s k x).1) (k i : Nat) (s : State) : s.near (checksAll sel chk pages k i s).1 := by
  induction k generalizing i s with
  | zero => exact State.near_refl s
  | succ k ih =>
    unfold checksAll
    split
    · have h1 := h s i
      split
      · rename_i t a e; rw [e] at h1
        exact State.near_trans h1 (State.near_trans (g t i a) (ih (i + 1) _))
      · rename_i t a e; rw [e] at h1
        exact State.near_trans h1 (ih (i + 1) t)
    · exact ih (i + 1) s

/-- Performing elements. -/
theorem near_performs (act : State → Nat → α → State × Except Hit β) (h : ∀ s k a, State.near s (act s k a).1)
    (l : List (Nat × α)) (s : State) : s.near (performs act l s).1 := by
  induction l generalizing s with
  | nil => exact State.near_refl s
  | cons x l ih =>
    obtain ⟨k, a⟩ := x
    unfold performs
    have h1 := h s k a
    split
    · rename_i e; rw [e] at h1; exact h1
    · rename_i t b e; rw [e] at h1
      exact State.near_trans h1 (ih t)

/-! ## What is the same in near states -/

section
variable {s t : State} (h : s.near t)
include h

theorem State.near_cur : t.cur = s.cur := h.1
theorem State.near_parts : t.parts = s.parts := h.2.1

theorem State.near_coreAt (n : Nat) : ∃ l e, t.coreAt n = { s.coreAt n with l1d := l, events := e } := h.2.2 n

theorem State.near_core : ∃ l e, t.core = { s.core with l1d := l, events := e } := by
  simp only [State.core, h.1]
  exact h.2.2 _

theorem State.near_rider (n : Nat) : (t.coreAt n).rider = (s.coreAt n).rider := by
  obtain ⟨l, e, h⟩ := h.2.2 n
  rw [h]

theorem State.near_pc (n : Nat) : (t.coreAt n).pc = (s.coreAt n).pc := by
  obtain ⟨l, e, h⟩ := h.2.2 n
  rw [h]

theorem State.near_xreg (n r : Nat) : (t.coreAt n).xreg r = (s.coreAt n).xreg r := by
  obtain ⟨l, e, h⟩ := h.2.2 n
  rw [h]
  rfl

theorem State.near_strip (n : Nat) : (t.coreAt n).strip = (s.coreAt n).strip := by
  obtain ⟨l, e, h⟩ := h.2.2 n
  rw [h]

theorem State.near_preempt (n : Nat) : (t.coreAt n).preempt = (s.coreAt n).preempt := by
  obtain ⟨l, e, h⟩ := h.2.2 n
  rw [h]

theorem State.near_resume (n : Nat) : (t.coreAt n).resume = (s.coreAt n).resume := by
  obtain ⟨l, e, h⟩ := h.2.2 n
  rw [h]

end

end Sys2Proof.Machine
end

