-- ==== Sys2Proof/Laws/Elements.lean ====
section
/-!
SUPPORT. Laws/Elements.lean: what the loops over a strip do when nothing stops them.
-/

namespace Sys2Proof.Machine

/-- With no stop bit set, an element operation meets no condition. -/
theorem Core.arith_quiet {c : Core} (h : c.stopMask = 0) (r : α × Flags) : c.arith r = .ok r := by
  simp [Core.arith, h]

/-- A scan that meets no condition gives every selected element. -/
theorem scan_ok (sel : Nat → Bool) (f : Nat → α) (k i : Nat) :
    scan sel (fun j => .ok (f j)) k i = (((List.range' i k).filter sel).map fun j => (j, f j), none) := by
  induction k generalizing i with
  | zero => rfl
  | succ k ih =>
    simp only [scan, ih, List.range'_succ, List.filter_cons]
    split <;> simp

/-- Reading registers none of whose slots fails. -/
theorem State.readSlots_sound {s : State} {n : Nat} (h : (s.clusterAt (clusterOf n)).badSlots = []) (l : List Reads) :
    s.readSlots n l = (s, true) := by
  simp [State.readSlots, h]

/-- Writing registers of a cluster none of whose slots fails. -/
theorem State.rewriteSlots_sound {s : State} {n : Nat} (h : (s.clusterAt (clusterOf n)).badSlots = []) (i : Instr)
    (ks : List Nat) : s.rewriteSlots n i ks = s := by
  simp [State.rewriteSlots, h]

/-- With no pre-emption pending and no condition found, everything is performed. -/
theorem State.verdict_all {s : State} {core : Nat} (h : (s.coreAt core).preempt = none) (n : Nat) :
    s.verdict core n none = .all := by
  simp [State.verdict, Core.cut, h]

theorem filter_below {l : List (Nat × α)} {n : Nat} (h : ∀ e ∈ l, e.1 < n) : l.filter (fun e => decide (e.1 < n)) = l := by
  rw [List.filter_eq_self]
  simpa using h

theorem State.issued_fresh {s : State} {n : Nat} (h : (s.coreAt n).resume = none) (a b d : Nat) :
    s.issued n a b d = s.takes n a b d := by
  simp [State.issued, h]

theorem Core.resumes_fresh {c : Core} (h : c.resume = none) : c.resumes = false := by
  simp [Core.resumes, h]

/-- An element-wise instruction over a strip that runs whole. -/
theorem elements_whole {i : Instr} {s : State} (h1 : s.core.preempt = none)
    (h2 : (s.clusterAt (clusterOf s.cur)).badSlots = []) (h3 : s.core.stopMask = 0) (is : Issue) (h4 : is.start = 0)
    (reads : List Reads) (sel : Core → Nat → Bool) (op : Core → Nat → α × Flags)
    (write : List (Nat × α) → Core → Core) :
    elements i s is reads sel op write = .retire (s.setCore
      ((write (((List.range is.n).filter (sel s.core)).map fun k => (k, (op s.core k).1)) s.core).raise
        (((List.range is.n).filter (sel s.core)).foldl (fun fl k => fl ||| (op s.core k).2) 0))) := by
  simp only [State.core] at h1 h3
  unfold elements
  simp only [State.readSlots_sound h2, State.rewriteSlots_sound h2, h4, Nat.sub_zero, State.core]
  have hs : (fun k => (s.coreAt s.cur).arith (op (s.coreAt s.cur) k)) = fun k => .ok (op (s.coreAt s.cur) k) := by
    funext k
    exact Core.arith_quiet h3 _
  simp only [hs, scan_ok, ← List.range_eq_range', State.verdict_all h1, Verdict.pos, conclude]
  rw [filter_below]
  · simp only [List.map_map, State.updCoreAt, State.setCore, flagsOf, List.foldl_map]
    rfl
  · intro e he
    simp only [List.mem_map, List.mem_filter, List.mem_range] at he
    obtain ⟨k, ⟨hk, -⟩, rfl⟩ := he
    exact hk

/-- A register-only instruction that is never split, over a strip that runs whole. -/
theorem unsplit_whole {i : Instr} {s : State} (h1 : s.core.preempt = none)
    (h2 : (s.clusterAt (clusterOf s.cur)).badSlots = []) (is : Issue) (reads : List Reads)
    (wrote : Nat → Core → List Nat) (perform : Nat → Core → Core) :
    unsplit i s is reads wrote perform = .retire (s.setCore (perform is.n s.core)) := by
  simp only [State.core] at h1
  unfold unsplit
  simp only [State.readSlots_sound h2, State.rewriteSlots_sound h2, State.verdict_all h1, Verdict.pos, conclude,
    State.updCoreAt, State.setCore, State.core, Bool.false_eq_true, if_false]

/-- The indices of checked elements lie in the checked range. -/
theorem checks_index {sel : Nat → Bool} {chk : State → Nat → State × Except Hit α} (k i : Nat) (s : State) :
    ∀ e ∈ (checks sel chk k i s).2.1, i ≤ e.1 ∧ e.1 < i + k := by
  induction k generalizing i s with
  | zero => simp [checks]
  | succ k ih =>
    intro e he
    unfold checks at he
    split at he
    · split at he
      · simp at he
      · rename_i t a h
        simp only [List.mem_cons] at he
        rcases he with rfl | he
        · simp only []
          omega
        · have := ih (i + 1) t e he
          omega
    · have := ih (i + 1) s e he
      omega

theorem checksAll_index {sel : Nat → Bool} {chk : State → Nat → State × Except Hit α}
    {pages : State → Nat → Hit → State × List Nat} (k i : Nat) (s : State) :
    ∀ e ∈ (checksAll sel chk pages k i s).2.1, i ≤ e.1 ∧ e.1 < i + k := by
  induction k generalizing i s with
  | zero => simp [checksAll]
  | succ k ih =>
    intro e he
    unfold checksAll at he
    split at he
    · split at he
      · simp at he
      · rename_i t a h
        simp only [List.mem_cons] at he
        rcases he with rfl | he
        · simp only []
          omega
        · have := ih (i + 1) t e he
          omega
    · have := ih (i + 1) s e he
      omega

/-- A memory instruction whose elements were all located and performed. -/
theorem accesses_all {core : Nat} {is : Issue} {t u : State} {l : List (Nat × α)} {vals : List (Nat × β)}
    {perform : List (Nat × α) → State → State × List (Nat × β) × Option (Nat × Hit)}
    (h1 : (t.coreAt core).preempt = none) (h2 : ∀ e ∈ l, e.1 < is.n) (h3 : perform l t = (u, vals, none))
    (after : Nat → List (Nat × β) → State → State) (commits : List (Nat × α) → Bool) (post : Post) (mark : Nat) :
    accesses core is ⟨t, l, none⟩ perform after commits post mark =
      .retire (if is.io || commits l then (after is.n vals u).commit core is.n else after is.n vals u) := by
  unfold accesses
  simp only [State.verdict_all h1, Verdict.pos, filter_below h2, h3, conclude]

/-- An instruction that is never shortened, whose elements were all located and performed. -/
theorem wholeRun_all {core : Nat} {is : Issue} {t u : State} {l : List (Nat × α)} {vals : List (Nat × β)}
    {perform : List (Nat × α) → State → State × List (Nat × β) × Option (Nat × Hit)} (total gran : Nat)
    (h2 : ∀ e ∈ l, e.1 < total) (h3 : perform l t = (u, vals, none))
    (after : Nat → List (Nat × β) → State → State) (post : Post) :
    wholeRun core is total gran none ⟨t, l, none⟩ perform after post = .retire ((after total vals u).commit core is.n) := by
  have hv : ∀ s : State, s.wholeVerdict core gran none = .all := fun _ => rfl
  unfold wholeRun
  simp only [hv, Verdict.pos]
  rw [filter_below h2, h3]

end Sys2Proof.Machine
end

