-- ==== Sys2Proof/Laws/Memory.lean ====
section
/-!
SUPPORT. Laws/Memory.lean: every operation over memory keeps its canonical form, reset has it, and what a write of runs
of memory answers.
-/

namespace Sys2Proof.Machine

/-- Canonical memory stays canonical from s to t. -/
structure State.keeps (s t : State) : Prop where
  of : s.canonical → t.canonical

namespace State

variable {s t u : State}

theorem keeps_refl (s : State) : s.keeps s := ⟨id⟩
theorem keeps_trans (h : s.keeps t) (k : t.keeps u) : s.keeps u := ⟨fun c => k.of (h.of c)⟩

theorem keeps_of_mem (h : t.mem = s.mem) : s.keeps t := ⟨fun c => by
  unfold State.canonical at c ⊢
  rwa [h]⟩

theorem ite_keeps {p : Prop} [Decidable p] (h : s.keeps t) (k : s.keeps u) : s.keeps (if p then t else u) := by
  split
  · exact h
  · exact k

theorem ite_keeps' {p : Prop} [Decidable p] {a b : State × α} (h : s.keeps a.1) (k : s.keeps b.1) :
    s.keeps (if p then a else b).1 := by
  split
  · exact h
  · exact k

theorem canonical_reset : State.reset.canonical := rfl

/-! ## Writes of memory -/

theorem keeps_setBytes (s : State) (k : Nat) (bs : List Byte) : s.keeps (s.setBytes k bs) :=
  ⟨fun h => Tbl.wf_setRange _ _ _ _ h⟩

theorem keeps_zeroRange (s : State) (k n : Nat) : s.keeps (s.zeroRange k n) :=
  ⟨fun h => Tbl.wf_clear _ _ _ _ h⟩

theorem keeps_setRuns (runs : List (Nat × Nat)) : ∀ (s : State) (bs : List Byte), s.keeps (s.setRuns runs bs) := by
  induction runs with
  | nil => exact fun s _ => keeps_refl s
  | cons r rs ih => exact fun s bs => keeps_trans (keeps_setBytes s _ _) (ih _ _)

theorem keeps_updCoreAt (s : State) (n : Nat) (f : Core → Core) : s.keeps (s.updCoreAt n f) := keeps_of_mem rfl
theorem keeps_setCoreAt (s : State) (n : Nat) (c : Core) : s.keeps (s.setCoreAt n c) := keeps_of_mem rfl
theorem keeps_updHub (s : State) (f : Hub → Hub) : s.keeps (s.updHub f) := keeps_of_mem rfl
theorem keeps_updPartAt (s : State) (p : Nat) (f : Part → Part) : s.keeps (s.updPartAt p f) := keeps_of_mem rfl
theorem keeps_setPartAt (s : State) (p : Nat) (q : Part) : s.keeps (s.setPartAt p q) := keeps_of_mem rfl
theorem keeps_updRegionAt (s : State) (p r : Nat) (f : Region → Region) : s.keeps (s.updRegionAt p r f) :=
  keeps_of_mem rfl
theorem keeps_updClusterAt (s : State) (c : Nat) (f : Cluster → Cluster) : s.keeps (s.updClusterAt c f) :=
  keeps_of_mem rfl
theorem keeps_later (s : State) (i : Instr) : s.keeps (s.later i) := keeps_of_mem rfl
theorem keeps_report (s : State) (r : Report) : s.keeps (s.report r) := keeps_of_mem rfl
theorem keeps_used (s : State) : s.keeps s.used := keeps_of_mem rfl
theorem keeps_now (s : State) : s.keeps s.now.1 := keeps_of_mem rfl
theorem keeps_countCluster (s : State) (c k n : Nat) : s.keeps (s.countCluster c k n) := keeps_of_mem rfl
theorem keeps_setClusterAt (s : State) (c : Nat) (k : Cluster) : s.keeps (s.setClusterAt c k) := keeps_of_mem rfl

theorem keeps_countCore (s : State) (c k n : Nat) : s.keeps (s.countCore c k n) := by
  unfold State.countCore; split <;> exact keeps_of_mem rfl

theorem keeps_foldl {f : State → α → State} (h : ∀ (s : State) a, s.keeps (f s a)) (l : List α) :
    ∀ s : State, s.keeps (l.foldl f s) := by
  induction l with
  | nil => exact keeps_refl
  | cons a l ih => exact fun s => keeps_trans (h s a) (ih _)

theorem keeps_updHealth (s : State) (d : Nat) (f : Health → Health) : s.keeps (s.updHealth d f) := keeps_of_mem rfl

theorem keeps_detect (s : State) (by_ : Option Nat) (k : Nat) : s.keeps (s.detect by_ k) := by
  refine keeps_trans (keeps_report s (.uncorrectable (s.physOf k))) ?_
  unfold State.detect
  simp only []
  split
  · exact keeps_countCluster ..
  · exact keeps_updHealth ..
  · split
    · exact keeps_countCluster ..
    · exact keeps_refl _

theorem keeps_countSoft (s : State) (k : Nat) : s.keeps (s.countSoft k) := by
  unfold State.countSoft
  split
  · exact keeps_countCluster ..
  · exact keeps_updHealth ..
  · exact keeps_refl s

theorem keeps_correct (s : State) (k n : Nat) : s.keeps (s.correct k n) := by
  unfold State.correct
  split
  · exact keeps_refl s
  · exact keeps_trans (keeps_updHub ..) (keeps_foldl (fun s w => keeps_countSoft s _) _ _)

theorem keeps_correctRuns (s : State) (runs : List (Nat × Nat)) : s.keeps (s.correctRuns runs) :=
  keeps_foldl (fun s _ => keeps_correct s _ _) _ _

theorem keeps_transfer (s : State) (k : Nat) : s.keeps (s.transfer k).1 := by
  unfold State.transfer
  split
  · exact keeps_refl s
  · split
    · exact keeps_refl s
    · simp only []
      split
      · exact keeps_refl s
      · exact keeps_of_mem rfl

theorem keeps_transferRuns (runs : List (Nat × Nat)) : ∀ s : State, s.keeps (s.transferRuns runs).1 := by
  induction runs with
  | nil => exact keeps_refl
  | cons r rs ih =>
    intro s
    unfold State.transferRuns
    have h := keeps_transfer s r.1
    split
    · rename_i e; rw [e] at h; exact keeps_trans h (ih _)
    · rename_i e; rw [e] at h; exact h

theorem keeps_repair (s : State) (k n : Nat) : s.keeps (s.repair k n) := by
  unfold State.repair
  simp only []
  split <;> exact keeps_of_mem rfl

theorem keeps_repairRuns (s : State) (runs : List (Nat × Nat)) : s.keeps (s.repairRuns runs) :=
  keeps_foldl (fun s _ => keeps_repair s _ _) _ _

theorem keeps_readRuns (s : State) (by_ : Option Nat) (runs : List (Nat × Nat)) :
    s.keeps (s.readRuns by_ runs).1 := by
  unfold State.readRuns
  have h := keeps_transferRuns runs s
  split
  · rename_i e; rw [e] at h; exact keeps_trans h (keeps_detect ..)
  · rename_i e; rw [e] at h
    split
    · exact keeps_trans h (keeps_detect ..)
    · exact keeps_trans h (keeps_correctRuns ..)

theorem keeps_writeRuns (s : State) (by_ : Option Nat) (runs : List (Nat × Nat)) (bs : List Byte) :
    s.keeps (s.writeRuns by_ runs bs).1 := by
  unfold State.writeRuns
  have h := keeps_transferRuns runs s
  split
  · rename_i e; rw [e] at h; exact keeps_trans h (keeps_detect ..)
  · rename_i e; rw [e] at h
    split
    · exact keeps_trans h (keeps_detect ..)
    · exact keeps_trans h (keeps_trans (keeps_setRuns ..) (keeps_trans (keeps_repairRuns ..) (keeps_correctRuns ..)))

theorem keeps_physRead (s : State) (q : Part) (pa n : Nat) : s.keeps (s.physRead q pa n).1 := by
  unfold State.physRead
  split
  · exact keeps_refl s
  · exact keeps_readRuns ..

theorem keeps_physWrite (s : State) (q : Part) (pa : Nat) (bs : List Byte) : s.keeps (s.physWrite q pa bs).1 := by
  unfold State.physWrite
  split
  · exact keeps_refl s
  · exact keeps_writeRuns ..

/-- With no error in memory every transfer succeeds and nothing is corrected (R401). -/
theorem transferRuns_ok (h : s.errorFree) (runs : List (Nat × Nat)) : s.transferRuns runs = (s, none) := by
  induction runs with
  | nil => rfl
  | cons r rs ih => simp [State.transferRuns, State.transfer, h.2.2, ih]

theorem correctRuns_ok (h : s.hub.softWords = []) (runs : List (Nat × Nat)) : s.correctRuns runs = s := by
  unfold State.correctRuns
  induction runs with
  | nil => rfl
  | cons r rs ih =>
    have k : s.correct r.1 r.2 = s := by simp [State.correct, h]
    rw [List.foldl_cons, k, ih]

theorem repairRuns_ok (h : s.hub.badWords = [] ∧ s.hub.softWords = []) (runs : List (Nat × Nat)) :
    s.repairRuns runs = s := by
  unfold State.repairRuns
  induction runs with
  | nil => rfl
  | cons r rs ih =>
    have k : s.repair r.1 r.2 = s := by simp [State.repair, h]
    rw [List.foldl_cons, k, ih]

theorem setRuns_hub (runs : List (Nat × Nat)) : ∀ (s : State) (bs : List Byte), (s.setRuns runs bs).hub = s.hub := by
  induction runs with
  | nil => exact fun _ _ => rfl
  | cons r rs ih => exact fun s bs => ih _ _

/-- A read of runs of memory without an error. -/
theorem readRuns_ok (h : s.errorFree) (by_ : Option Nat) (runs : List (Nat × Nat)) :
    s.readRuns by_ runs = (s, .ok (s.runBytes runs)) := by
  simp [State.readRuns, transferRuns_ok h, State.badRuns, h.1, correctRuns_ok h.2.1]

/-- A write of runs of memory without an error. -/
theorem writeRuns_ok (h : s.errorFree) (by_ : Option Nat) (runs : List (Nat × Nat)) (bs : List Byte) :
    s.writeRuns by_ runs bs = (s.setRuns runs bs, .ok ()) := by
  have k : (s.setRuns runs bs).hub.badWords = [] ∧ (s.setRuns runs bs).hub.softWords = [] := by
    rw [setRuns_hub]; exact ⟨h.1, h.2.1⟩
  simp [State.writeRuns, transferRuns_ok h, State.partBad, h.1, repairRuns_ok k, correctRuns_ok k.2]

/-- A write where the partition has memory, without an error, succeeds. -/
theorem physWrite_ok {q : Part} {pa : Nat} {bs : List Byte} {runs : List (Nat × Nat)} (hb : s.errorFree)
    (h : physRuns q (bs.length / 4096 + 2) pa bs.length = some runs) :
    s.physWrite q pa bs = (s.setRuns runs bs, .ok ()) := by
  simp [State.physWrite, h, writeRuns_ok hb]

/-- A read where the partition has memory, without an error, answers the bytes. -/
theorem physRead_ok {q : Part} {pa n : Nat} {runs : List (Nat × Nat)} (hb : s.errorFree)
    (h : physRuns q (n / 4096 + 2) pa n = some runs) : s.physRead q pa n = (s, .ok (s.runBytes runs)) := by
  simp [State.physRead, h, readRuns_ok hb]

/-! ## Record queues -/

theorem keeps_lose (s : State) (p : Part) (cb : Nat) (b : List Byte) : s.keeps (s.lose p cb b) := keeps_physWrite ..

theorem keeps_post (s : State) (pn : Nat) (q : Queue) (entry : List Byte) : s.keeps (s.post pn q entry).1 := by
  unfold State.post
  simp only []
  have h := keeps_physRead s (s.partAt pn) (q.block (s.partAt pn)) 64
  split
  · rename_i e; rw [e] at h; exact h
  · rename_i t b e
    rw [e] at h
    refine keeps_trans h ?_
    split
    · exact keeps_lose ..
    · split
      · exact keeps_lose ..
      · have k := keeps_physWrite t (s.partAt pn)
          (natIn b 0 8 + natIn b 16 8 % 2 ^ natIn b 8 4 * entry.length) entry
        split
        · rename_i e2; rw [e2] at k; exact keeps_trans k (keeps_lose ..)
        · rename_i t2 _ e2
          rw [e2] at k
          refine keeps_trans k ?_
          have k2 := keeps_physWrite t2 (s.partAt pn) (q.block (s.partAt pn) + 16) (leBytes 8 (natIn b 16 8 + 1))
          split
          · rename_i e3; rw [e3] at k2; exact keeps_trans k2 (keeps_lose ..)
          · rename_i e3; rw [e3] at k2
            refine keeps_trans k2 ?_
            simp only []
            split
            · exact keeps_lose ..
            · exact keeps_refl _

theorem keeps_charge (s : State) (p r k n : Nat) : s.keeps (s.charge p r k n) := by
  unfold State.charge
  exact keeps_foldl (fun s i => keeps_updRegionAt s p i _) _ s

theorem keeps_chargeService (s : State) (n : Nat) : s.keeps (s.chargeService n) := by
  unfold State.chargeService
  split
  · exact ite_keeps (keeps_charge ..) (keeps_updCoreAt ..)
  · exact keeps_refl s

theorem keeps_postFault (s : State) (r : FaultRec) : s.keeps (s.postFault r).1 := by
  unfold State.postFault
  split
  · exact keeps_refl s
  · simp only []
    rename_i pn _
    have h := keeps_trans (keeps_now s) (keeps_trans (keeps_updPartAt s.now.1 pn fun p =>
      { p with faultSeq := (s.now.1.partAt pn).faultSeq + 1 }) (keeps_post _ pn .fault
        (r.bytes (s.now.1.partAt pn).faultSeq s.now.2)))
    refine keeps_trans h ?_
    split
    · refine keeps_trans ?_ (keeps_chargeService _ _)
      split <;> exact keeps_countCluster ..
    · split <;> exact keeps_countCluster ..

theorem keeps_postTrap (s : State) (n cause kind : Nat) : s.keeps (s.postTrap n cause kind) := by
  unfold State.postTrap
  split
  · exact keeps_refl s
  · exact keeps_trans (keeps_post ..) (keeps_chargeService _ _)

theorem keeps_cairn (s : State) (pn regid event code cluster arg : Nat) :
    s.keeps (s.cairn pn regid event code cluster arg) := by
  unfold State.cairn
  simp only []
  exact keeps_trans (keeps_now s) (keeps_trans (keeps_updPartAt ..) (keeps_post ..))

/-! ## Accesses -/

theorem keeps_fillTlb (s : State) (t : TlbEntry) : s.keeps (s.fillTlb t) := by
  unfold State.fillTlb
  split <;> exact keeps_of_mem rfl

theorem keeps_useLeaf (s : State) (pn : Nat) (w : Who) (k : Acc) (va e key page : Nat) (big : Bool) :
    s.keeps (s.useLeaf pn w k va e key page big) :=
  keeps_trans (ite_keeps (keeps_refl s) (keeps_setBytes ..)) (keeps_foldl (fun s _ => keeps_fillTlb s _) _ _)

theorem keeps_fillWalks (s : State) (pn : Nat) (w : Who) (path : List (Nat × Nat × Nat)) :
    s.keeps (s.fillWalks pn w path) :=
  keeps_foldl (f := fun s (e : Nat × Nat × Nat) =>
    let c : WalkEntry := ⟨w.die, pn, w.asid, e.1, e.2.1, e.2.2⟩
    if s.walks.contains c then s else { s with walks := c :: s.walks })
    (fun s _ => ite_keeps (keeps_refl s) (keeps_of_mem rfl)) _ _

theorem keeps_discardDenied (s : State) (p : Part) (pn : Nat) (w : Who) (k : Acc) (va : Nat) :
    s.keeps (s.discardDenied p pn w k va) := keeps_of_mem rfl

theorem keeps_walkReads (s : State) (p : Part) (va : Nat) (path : List (Nat × Nat × Nat)) :
    s.keeps (s.walkReads p va path) := by
  unfold State.walkReads
  split
  · exact keeps_refl s
  · induction path with
    | nil => exact keeps_refl s
    | cons e l ih =>
      refine keeps_trans ih ?_
      simp only [List.foldr_cons]
      split
      · exact keeps_transfer ..
      · exact keeps_refl _

theorem keeps_dirRead (s : State) (p : Part) (w : Who) : s.keeps (s.dirRead p w) := by
  unfold State.dirRead
  split
  · exact keeps_refl s
  · exact keeps_refl s
  · exact keeps_transfer ..

theorem keeps_translate (s : State) (w : Who) (k : Acc) (va : Nat) : s.keeps (translate s w k va).1 := by
  unfold translate
  split
  · simp only []
    split <;> exact keeps_refl s
  · simp only []
    have h0 : ∀ b : Bool, s.keeps (if b = true then s else s.used) := fun b =>
      ite_keeps (keeps_refl s) (keeps_used s)
    generalize hp : (State.routes _ _ _ _ _ _ _).isEmpty = b
    split
    · exact h0 b
    · exact keeps_trans (h0 b) (keeps_trans (keeps_trans (keeps_walkReads ..) (keeps_useLeaf ..)) (keeps_fillWalks ..))
    · rename_i pn _ _ _
      refine keeps_trans (h0 b) ?_
      generalize (if b = true then s else s.used) = t
      refine keeps_trans (keeps_trans (keeps_trans (keeps_discardDenied t (s.partAt pn) pn w k va)
        (keeps_dirRead _ (s.partAt pn) w)) (keeps_walkReads _ (s.partAt pn) va (walk s (s.partAt pn) w k va).path)) ?_
      split
      · split
        · exact keeps_trans (keeps_fillWalks ..) (keeps_detect ..)
        · exact keeps_fillWalks ..
      · exact keeps_trans (keeps_useLeaf ..) (keeps_fillWalks ..)

theorem keeps_locateBlock (s : State) (w : Who) (k : Acc) (va n : Nat) : s.keeps (locateBlock s w k va n).1 := by
  unfold locateBlock
  split
  · exact keeps_refl s
  · split
    · split <;> exact keeps_refl s
    · have h := keeps_translate s w k va
      split
      · rename_i e; rw [e] at h; exact h
      · rename_i e; rw [e] at h
        simp only []
        split
        · exact h
        · exact h
        · split <;> exact h

theorem keeps_locate (s : State) (w : Who) (k : Acc) (va n align : Nat) : s.keeps (locate s w k va n align).1 := by
  unfold locate
  split
  · exact keeps_refl s
  · simp only []
    split
    · exact keeps_locateBlock ..
    · exact keeps_trans (keeps_locateBlock ..) (keeps_locateBlock ..)

/-! ## Device registers -/

theorem keeps_snapshot (s : State) (p : Nat) (sel : Word) : s.keeps (s.snapshot p sel) := by
  unfold State.snapshot
  exact keeps_updPartAt ..

theorem keeps_startCommand (s : State) (n v : Nat) : s.keeps (s.startCommand n v) := by
  unfold State.startCommand
  simp only []
  split
  · exact keeps_refl s
  · exact ite_keeps (keeps_refl s) (ite_keeps (keeps_of_mem rfl) (keeps_of_mem rfl))

theorem keeps_windowWrite (s : State) (n off : Nat) (v : Word) : s.keeps (s.windowWrite n off v) := by
  unfold State.windowWrite
  simp only []
  refine ite_keeps (keeps_startCommand ..) (ite_keeps (keeps_refl s) ?_)
  repeat' refine ite_keeps (keeps_of_mem rfl) ?_
  exact keeps_refl s

theorem keeps_setHold (s : State) (p : Nat) (hold : Bool) : s.keeps (s.setHold p hold) := by
  unfold State.setHold
  split
  · exact keeps_trans (keeps_updPartAt ..) (keeps_trans (keeps_foldl (fun s n => keeps_later s _) _ _) (keeps_later ..))
  · exact keeps_of_mem rfl

theorem keeps_recoveryField (s : State) (p off : Nat) (v : Word) : s.keeps (s.recoveryField p off v) := by
  unfold State.recoveryField
  refine ite_keeps (keeps_setHold ..) (ite_keeps (keeps_updPartAt ..) (ite_keeps ?_ (keeps_refl s)))
  simp only []
  exact ite_keeps (keeps_refl s) (ite_keeps (keeps_of_mem rfl) (keeps_of_mem rfl))

theorem keeps_recoveryWrite (s : State) (p off : Nat) (bs : List Byte) : s.keeps (s.recoveryWrite p off bs) :=
  keeps_foldl (fun s _ => keeps_recoveryField s _ _ _) _ _

theorem keeps_partState (s : State) (n v : Nat) : s.keeps (s.partState n v) := by
  unfold State.partState
  simp only []
  split
  · exact keeps_of_mem rfl
  · exact ite_keeps (keeps_refl s) (keeps_of_mem rfl)
  · refine ite_keeps ?_ (keeps_refl s)
    unfold State.bringOnline
    exact keeps_trans (keeps_physRead s (s.partAt n) (s.partAt n).root.toNat 256) (keeps_of_mem rfl)
  · exact ite_keeps (keeps_refl s) (keeps_of_mem rfl)
  · exact keeps_refl s

theorem keeps_entryWrite (s : State) (level : Level) (n off : Nat) (bs : List Byte) :
    s.keeps (s.entryWrite level n off bs) := by
  unfold State.entryWrite
  refine ite_keeps (keeps_refl s) ?_
  simp only []
  split
  · refine keeps_trans ?_ (keeps_partState ..)
    exact ite_keeps (keeps_refl s) (keeps_of_mem rfl)
  · exact ite_keeps (keeps_refl s) (keeps_of_mem rfl)

theorem keeps_attachChange (s : State) (level : Level) (part : Option Nat) (r : Res) (new : Attach) :
    s.keeps (s.attachChange level part r new) := by
  unfold State.attachChange
  simp only []
  have startHub (s : State) (n : Nat) : s.keeps (s.startHub n) := by
    unfold State.startHub
    exact ite_keeps (keeps_of_mem rfl) (keeps_refl s)
  split
  · exact ite_keeps (keeps_of_mem rfl) (keeps_refl s)
  · exact ite_keeps (keeps_of_mem rfl) (keeps_refl s)
  · refine ite_keeps (keeps_refl s) ?_
    split
    · exact ite_keeps (keeps_of_mem rfl) (keeps_refl s)
    · exact keeps_of_mem rfl
  · refine ite_keeps (keeps_refl s) ?_
    split
    · exact ite_keeps (keeps_of_mem rfl) (keeps_refl s)
    · exact keeps_trans (keeps_updHub ..) (startHub ..)
    · exact keeps_of_mem rfl
  · exact keeps_refl s

theorem keeps_attachWrite (s : State) (level : Level) (part : Option Nat) (off : Nat) (bs : List Byte) :
    s.keeps (s.attachWrite level part off bs) := by
  induction s, off, bs using State.attachWrite.induct (level := level) (part := part) with
  | case1 s off => unfold State.attachWrite; exact keeps_refl s
  | case2 s off b bs h ih =>
    unfold State.attachWrite
    simpa only [h] using ih
  | case3 s off b n h e =>
    unfold State.attachWrite
    simpa only [h, e, if_true] using keeps_attachChange ..
  | case4 s off b n h e b2 bs ih =>
    unfold State.attachWrite
    simpa only [h, e, if_true] using keeps_trans (keeps_attachChange ..) ih
  | case5 s off b bs n h old e ih =>
    unfold State.attachWrite
    simpa only [h, e, if_false] using keeps_trans (keeps_attachChange ..) ih
  | case6 s off b bs r hn h ih =>
    unfold State.attachWrite
    cases r with
    | cluster n => exact (hn n rfl).elim
    | _ => simpa only [h] using keeps_trans (keeps_attachChange ..) ih

theorem keeps_regRead (s : State) (w : Who) (pa n : Nat) (user : Bool) : s.keeps (s.regRead w pa n user).1 := by
  rw [regRead_same]; exact keeps_refl s

theorem keeps_regWrite (s : State) (w : Who) (pa n : Nat) (user : Bool) (v : Nat) :
    s.keeps (s.regWrite w pa n user v).1 := by
  unfold State.regWrite
  generalize regOf pa = r
  rcases r with _ | r
  · exact keeps_refl s
  · cases r <;> simp only [] <;> (repeat' split) <;> first
      | exact keeps_refl s
      | exact keeps_windowWrite ..
      | exact keeps_snapshot ..
      | exact keeps_recoveryWrite ..
      | exact keeps_entryWrite ..
      | exact keeps_attachWrite ..

/-! ## Loads and stores -/

theorem keeps_hostLoad (s : State) (w : Who) (bus n : Nat) : s.keeps (s.hostLoad w bus n).1 := by
  unfold State.hostLoad
  simp only []
  split <;> exact keeps_of_mem rfl

theorem keeps_hostStore (s : State) (w : Who) (bus n v : Nat) : s.keeps (s.hostStore w bus n v).1 := by
  unfold State.hostStore
  simp only []
  split <;> exact keeps_of_mem rfl

theorem keeps_loadPiece (s : State) (w : Who) (c : Chunk) : s.keeps (s.loadPiece w c).1 := by
  unfold State.loadPiece
  cases c with
  | mem k n =>
    simp only []
    have h := keeps_readRuns s w.cluster [(k, n)]
    split <;> (rename_i e; rw [e] at h; exact h)
  | host b n => exact keeps_hostLoad ..
  | regs pa n u => exact keeps_regRead ..

theorem keeps_loadPieces (w : Who) (l : List Chunk) : ∀ s : State, s.keeps (s.loadPieces w l).1 := by
  induction l with
  | nil => exact keeps_refl
  | cons p ps ih =>
    intro s
    unfold State.loadPieces
    have h := keeps_loadPiece s w p
    split
    · rename_i e; rw [e] at h; exact h
    · rename_i t v e; rw [e] at h
      have h2 := ih t
      split <;> (rename_i e2; rw [e2] at h2; exact keeps_trans h h2)

theorem keeps_noted (s : State) (loc : Loc) : s.keeps (s.noted loc) := by
  unfold State.noted
  split
  · exact ite_keeps (keeps_of_mem rfl) (keeps_refl s)
  · exact keeps_refl s

theorem keeps_loadLoc (s : State) (w : Who) (loc : Loc) (n : Nat) : s.keeps (s.loadLoc w loc n).1 := by
  unfold State.loadLoc
  refine keeps_trans (keeps_noted s loc) ?_
  simp only []
  generalize s.noted loc = t
  split
  · rename_i runs _ _
    have h := keeps_readRuns t w.cluster runs
    split <;> (rename_i e; rw [e] at h; exact h)
  · exact keeps_hostLoad ..
  · exact keeps_regRead ..
  · exact keeps_loadPieces ..

theorem keeps_storeInvalidates (s : State) (c p a va n : Nat) : s.keeps (s.storeInvalidates c p a va n) := by
  unfold State.storeInvalidates
  simp only []
  split
  · exact keeps_refl s
  · exact keeps_setClusterAt ..

theorem keeps_afterStore (s : State) (w : Who) (va n : Nat) : s.keeps (s.afterStore w va n) := by
  unfold State.afterStore
  split
  · exact keeps_storeInvalidates ..
  · exact keeps_refl s

theorem keeps_storePiece (s : State) (w : Who) (v : Nat) (c : Chunk) : s.keeps (s.storePiece w v c).1 := by
  cases c with
  | mem k n => exact keeps_writeRuns ..
  | host b n => exact keeps_hostStore ..
  | regs pa n u => exact keeps_regWrite ..

theorem keeps_storePieces (w : Who) (l : List Chunk) : ∀ (s : State) (v : Nat), s.keeps (s.storePieces w v l).1 := by
  induction l with
  | nil => exact fun s _ => keeps_refl s
  | cons p ps ih =>
    intro s v
    unfold State.storePieces
    have h := keeps_storePiece s w (v % 256 ^ p.size) p
    split
    · rename_i e; rw [e] at h; exact h
    · rename_i e; rw [e] at h; exact keeps_trans h (ih ..)

theorem keeps_storeNow (s : State) (w : Who) (va : Nat) (loc : Loc) (n v : Nat) :
    s.keeps (s.storeNow w va loc n v).1 := by
  unfold State.storeNow
  split
  · rename_i runs _ _
    have h := keeps_writeRuns s w.cluster runs (leBytes n v)
    split
    · rename_i e; rw [e] at h; exact h
    · rename_i e; rw [e] at h; exact keeps_trans h (keeps_afterStore ..)
  · exact keeps_hostStore ..
  · exact keeps_regWrite ..
  · rename_i a b
    have h := keeps_storePieces w (a ++ b) s v
    split
    · rename_i e; rw [e] at h; exact h
    · rename_i e; rw [e] at h; exact keeps_trans h (keeps_afterStore ..)

theorem keeps_storeLoc (s : State) (w : Who) (va : Nat) (loc : Loc) (n v : Nat) :
    s.keeps (s.storeLoc w va loc n v).1 := by
  unfold State.storeLoc
  split
  · exact keeps_of_mem rfl
  · exact keeps_trans (keeps_noted ..) (keeps_storeNow ..)

theorem keeps_performWrite (s : State) (e : Store) : s.keeps (s.performWrite e) :=
  keeps_trans (keeps_setRuns e.runs s e.bytes) (ite_keeps (keeps_refl _) (keeps_storeInvalidates ..))

theorem keeps_performLate (s : State) (k : Nat) : s.keeps (s.performLate k) := by
  unfold State.performLate
  split
  · exact keeps_refl s
  · exact ite_keeps (keeps_refl s) (keeps_trans (t := { s with stores := s.stores.eraseIdx k }) (keeps_of_mem rfl)
      (keeps_performWrite ..))

/-- Writes that perform keep memory canonical. -/
theorem keeps_drain (s : State) (pick : Nat → Bool) : s.keeps (s.drain pick) :=
  keeps_trans (t := { s with stores := s.stores.filter fun e => !pick e.core }) (keeps_of_mem rfl)
    (keeps_foldl (fun s e => keeps_performWrite s e) _ _)

theorem keeps_l1dLoad (s : State) (n k size : Nat) : s.keeps (s.l1dLoad n k size).1 := by
  unfold State.l1dLoad
  have h := keeps_readRuns s (s.who n).cluster [(k, size)]
  split
  · rename_i e; rw [e] at h; exact h
  · rename_i e; rw [e] at h
    refine keeps_trans h ?_
    split
    · exact keeps_of_mem rfl
    · exact ite_keeps' (keeps_refl _) (ite_keeps' (keeps_used _) (keeps_trans (keeps_used _) (keeps_of_mem rfl)))

theorem keeps_loadScalar (s : State) (n va size : Nat) : s.keeps (s.loadScalar n va size).1 := by
  unfold State.loadScalar
  simp only []
  have h := keeps_locate s (s.who n) .read va size size
  split
  · rename_i e; rw [e] at h; exact h
  · rename_i e; rw [e] at h
    refine keeps_trans h ?_
    simp only []
    split
    · exact keeps_l1dLoad ..
    · exact keeps_loadLoc ..

theorem keeps_storeScalar (s : State) (n va size v : Nat) : s.keeps (s.storeScalar n va size v).1 := by
  unfold State.storeScalar
  simp only []
  have h := keeps_locate s (s.who n) .write va size size
  split
  · rename_i e; rw [e] at h; exact h
  · rename_i t loc e; rw [e] at h
    refine keeps_trans h ?_
    simp only []
    have k := keeps_storeLoc t (s.who n) va loc size v
    split
    · rename_i e2; rw [e2] at k; exact k
    · rename_i e2; rw [e2] at k; exact keeps_trans k (keeps_of_mem rfl)

theorem keeps_loadDirect (s : State) (n va : Nat) : s.keeps (s.loadDirect n va).1 := by
  unfold State.loadDirect
  simp only []
  have h := keeps_locate s (s.who n) .read va 8 8
  split
  · rename_i e; rw [e] at h; exact h
  · rename_i t loc e; rw [e] at h
    refine keeps_trans h ?_
    have k := keeps_loadLoc t (s.who n) loc 8
    split
    · rename_i e2; rw [e2] at k; exact k
    · rename_i e2; rw [e2] at k; exact keeps_trans k (keeps_of_mem rfl)

theorem keeps_atomic (s : State) (n va : Nat) (f : Word → Word) : s.keeps (s.atomic n va f).1 := by
  unfold State.atomic
  simp only []
  have h := keeps_locate s (s.who n) .write va 8 8
  split
  · rename_i e; rw [e] at h; exact h
  · rename_i t loc e; rw [e] at h
    refine keeps_trans h ?_
    simp only []
    split
    · exact keeps_refl _
    · have k := keeps_loadLoc t (s.who n) loc 8
      split
      · rename_i e2; rw [e2] at k; exact k
      · rename_i t2 old e2; rw [e2] at k
        refine keeps_trans k ?_
        have m := keeps_storeLoc t2 (s.who n) va loc 8 (f (.ofNat 64 old)).toNat
        split
        · rename_i e3; rw [e3] at m; exact m
        · rename_i e3; rw [e3] at m; exact keeps_trans m (keeps_of_mem rfl)

end State

end Sys2Proof.Machine
end

