-- ==== Sys2Proof/Laws/Late.lean ====
section
/-!
SUPPORT. Laws/Late.lean: what the operations over waiting accesses do where nothing waits or nothing is chosen, and that
they keep memory in its canonical form.
-/

namespace Sys2Proof.Machine

/-! ## Where nothing waits, and where nothing is chosen -/

theorem marks_none {start : Late → Bool} (l : List Late) (h : ∀ x ∈ l, start x = false) :
    marks start l = l.map fun x => (x, false) := by
  induction l with
  | nil => rfl
  | cons x l ih =>
    have hl := ih fun y hy => h y (List.mem_cons_of_mem _ hy)
    simp [marks, markFront, hl, h x List.mem_cons_self]

namespace State

variable (s : State)

theorem passes_unmarked (l : List Late) : ∀ s : State, s.passes (l.map fun x => (x, false)) = { s with late := s.late ++ l } := by
  induction l with
  | nil => intro s; simp [passes]
  | cons x l ih => intro s; simp [passes, ih]

/-- Nothing takes effect where nothing is chosen. -/
theorem takeEffect_none {start : Late → Bool} (h : ∀ x ∈ s.late, start x = false) : s.takeEffect start = s := by
  simp [takeEffect, marks_none _ h, passes_unmarked]

theorem takeEffect_nil (start : Late → Bool) (h : s.late = []) : s.takeEffect start = s := by
  simp [takeEffect_none, h]

theorem drain_nil (pick : Nat → Bool) (h : s.stores = []) : s.drain pick = s := by
  cases s
  simp_all [drain]

/-- With nothing that waits, to settle is to end the turn's order alone. -/
theorem settle_nil (h : s.late = []) (k : s.stores = []) : s.settle = { s with lag := none } := by
  have e : ({ s with late := [] } : State) = s := by rw [← h]
  simp [settle, h, passes, e, drain_nil _ _ k]

/-! ## Canonical memory -/

variable {s}

theorem keeps_rerun (s : State) (n : Nat) (keys : List Key) (r : Redo) (hr : ∀ t u, r.run t = some u → t.keeps u) :
    s.keeps (s.rerun n keys r) := by
  unfold rerun
  simp only []
  split
  · exact keeps_refl s
  · rename_i u e
    have h := hr _ _ e
    refine ite_keeps (keeps_refl s) ?_
    have hu : s.keeps u := ⟨fun c => h.of c⟩
    refine ite_keeps ⟨fun c => ?_⟩ ⟨fun c => ?_⟩ <;> exact hu.of c

variable (hr : ∀ (r : Redo) t u, r.run t = some u → t.keeps u)
include hr

theorem keeps_pass (s : State) (e : Late) : s.keeps (s.pass e) := by
  unfold pass
  simp only []
  split
  · exact ite_keeps (keeps_of_mem rfl) (keeps_of_mem rfl)
  · rename_i r _
    exact keeps_trans (ite_keeps (keeps_drain ..) (keeps_refl s)) (keeps_rerun _ _ _ r (hr r))
  · exact keeps_drain ..

theorem keeps_passes (l : List (Late × Bool)) : ∀ s : State, s.keeps (s.passes l) := by
  induction l with
  | nil => exact keeps_refl
  | cons x l ih =>
    intro s
    obtain ⟨e, b⟩ := x
    cases b with
    | true => exact keeps_trans (keeps_pass hr s e) (ih _)
    | false => exact keeps_trans (t := { s with late := s.late ++ [e] }) (keeps_of_mem rfl) (ih _)

/-- Accesses that take effect keep memory canonical. -/
theorem keeps_takeEffect (s : State) (start : Late → Bool) : s.keeps (s.takeEffect start) :=
  keeps_trans (t := { s with late := [] }) (keeps_of_mem rfl) (keeps_passes hr _ _)

theorem keeps_effectAt (s : State) (k : Nat) : s.keeps (s.effectAt k) := by
  unfold effectAt
  split
  · exact keeps_refl s
  · simp only []
    exact keeps_trans (t := { s with late := [] }) (keeps_of_mem rfl)
      (keeps_trans (keeps_passes hr _ _) (keeps_trans (keeps_pass hr _ _) (keeps_of_mem rfl)))

/-- Accesses that all take effect and perform keep memory canonical. -/
theorem keeps_settle (s : State) : s.keeps s.settle :=
  keeps_trans (t := { s with late := [] }) (keeps_of_mem rfl)
    (keeps_trans (keeps_passes hr _ _) (keeps_trans (keeps_drain ..) (keeps_of_mem rfl)))

end State

end Sys2Proof.Machine
end

