-- ==== Sys2Proof/Laws/PerInstr.lean ====
section
/-!
SUPPORT. Laws/PerInstr.lean: what holds of each instruction as syntax, one lemma per constructor. The family Encoding:
the words of a well-formed instruction fit their 32 bits, so that no field runs into the next one or out of the word.
-/

namespace Sys2Proof.Laws

/-- The words of a well-formed instruction are 32-bit words (R39, R40). -/
def Encoding.Statement (i : Instr) : Prop := WellFormed i = true → ∀ w ∈ encodeWords i, w < 4294967296

theorem fm_code_le (v : Fm) : v.code ≤ 2 := by cases v <;> decide
theorem rm_code_le (v : Rm) : v.code ≤ 3 := by cases v <;> decide
theorem fcond_code_le (v : FCond) : v.code ≤ 3 := by cases v <;> decide
theorem fkind_code_le (v : FKind) : v.code ≤ 6 := by cases v <;> decide
theorem gr_code_le (v : Gr) : v.code ≤ 3 := by cases v <;> decide
theorem es_code_le (v : Es) : v.code ≤ 6 := by cases v <;> decide
theorem ord_code_le (v : Ord) : v.code ≤ 3 := by cases v <;> decide
theorem sco_code_le (v : Sco) : v.code ≤ 3 := by cases v <;> decide
theorem ysco_code_le (v : YSco) : v.code ≤ 4 := by cases v <;> decide
theorem fmt_code_le (v : Fmt) : v.code ≤ 15 := by cases v <;> decide
theorem tag_code_le (v : Tag) : v.code ≤ 5 := by cases v <;> decide
theorem vcond_code_le (v : VCond) : v.code ≤ 6 := by cases v <;> decide
theorem qcond_code_le (v : QCond) : v.code ≤ 3 := by cases v <;> decide

/-- A word whose fields fit is a 32-bit word (R41). -/
theorem fits (h : v = word op d a b lo) (h0 : op < 64) (h1 : d < 64) (h2 : a < 64) (h3 : b < 64) (h4 : lo < 256) :
    v < 4294967296 := by
  unfold word at h; omega

theorem Encoding.xAdd (d : Nat) (a : Nat) (b : Nat) (sat : Bool) : Encoding.Statement (.xAdd d a b sat) := by
  intro h v hv
  have hv : v ∈ [word 0x02 d a b (0 + 4 * sat.toNat)] := hv
  have h : (decide (d ≤ 31) && decide (a ≤ 31) && decide (b ≤ 31)) = true := h
  simp at h hv
  have := Bool.toNat_le sat
  exact fits hv (by omega) (by omega) (by omega) (by omega) (by omega)
theorem Encoding.xSub (d : Nat) (a : Nat) (b : Nat) (sat : Bool) : Encoding.Statement (.xSub d a b sat) := by
  intro h v hv
  have hv : v ∈ [word 0x02 d a b (8 + 4 * sat.toNat)] := hv
  have h : (decide (d ≤ 31) && decide (a ≤ 31) && decide (b ≤ 31)) = true := h
  simp at h hv
  have := Bool.toNat_le sat
  exact fits hv (by omega) (by omega) (by omega) (by omega) (by omega)
theorem Encoding.xAnd (d : Nat) (a : Nat) (b : Nat) : Encoding.Statement (.xAnd d a b) := by
  intro h v hv
  have hv : v ∈ [word 0x02 d a b 16] := hv
  have h : (decide (d ≤ 31) && decide (a ≤ 31) && decide (b ≤ 31)) = true := h
  simp at h hv
  exact fits hv (by omega) (by omega) (by omega) (by omega) (by omega)
theorem Encoding.xOr (d : Nat) (a : Nat) (b : Nat) : Encoding.Statement (.xOr d a b) := by
  intro h v hv
  have hv : v ∈ [word 0x02 d a b 24] := hv
  have h : (decide (d ≤ 31) && decide (a ≤ 31) && decide (b ≤ 31)) = true := h
  simp at h hv
  exact fits hv (by omega) (by omega) (by omega) (by omega) (by omega)
theorem Encoding.xXor (d : Nat) (a : Nat) (b : Nat) : Encoding.Statement (.xXor d a b) := by
  intro h v hv
  have hv : v ∈ [word 0x02 d a b 32] := hv
  have h : (decide (d ≤ 31) && decide (a ≤ 31) && decide (b ≤ 31)) = true := h
  simp at h hv
  exact fits hv (by omega) (by omega) (by omega) (by omega) (by omega)
theorem Encoding.xAndn (d : Nat) (a : Nat) (b : Nat) : Encoding.Statement (.xAndn d a b) := by
  intro h v hv
  have hv : v ∈ [word 0x02 d a b 40] := hv
  have h : (decide (d ≤ 31) && decide (a ≤ 31) && decide (b ≤ 31)) = true := h
  simp at h hv
  exact fits hv (by omega) (by omega) (by omega) (by omega) (by omega)
theorem Encoding.xShl (d : Nat) (a : Nat) (b : Nat) (sat : Bool) : Encoding.Statement (.xShl d a b sat) := by
  intro h v hv
  have hv : v ∈ [word 0x02 d a b (48 + 4 * sat.toNat)] := hv
  have h : (decide (d ≤ 31) && decide (a ≤ 31) && decide (b ≤ 31)) = true := h
  simp at h hv
  have := Bool.toNat_le sat
  exact fits hv (by omega) (by omega) (by omega) (by omega) (by omega)
theorem Encoding.xShr (d : Nat) (a : Nat) (b : Nat) : Encoding.Statement (.xShr d a b) := by
  intro h v hv
  have hv : v ∈ [word 0x02 d a b 56] := hv
  have h : (decide (d ≤ 31) && decide (a ≤ 31) && decide (b ≤ 31)) = true := h
  simp at h hv
  exact fits hv (by omega) (by omega) (by omega) (by omega) (by omega)
theorem Encoding.xSar (d : Nat) (a : Nat) (b : Nat) : Encoding.Statement (.xSar d a b) := by
  intro h v hv
  have hv : v ∈ [word 0x02 d a b 64] := hv
  have h : (decide (d ≤ 31) && decide (a ≤ 31) && decide (b ≤ 31)) = true := h
  simp at h hv
  exact fits hv (by omega) (by omega) (by omega) (by omega) (by omega)
theorem Encoding.xMul (d : Nat) (a : Nat) (b : Nat) (sat : Bool) : Encoding.Statement (.xMul d a b sat) := by
  intro h v hv
  have hv : v ∈ [word 0x02 d a b (72 + 4 * sat.toNat)] := hv
  have h : (decide (d ≤ 31) && decide (a ≤ 31) && decide (b ≤ 31)) = true := h
  simp at h hv
  have := Bool.toNat_le sat
  exact fits hv (by omega) (by omega) (by omega) (by omega) (by omega)
theorem Encoding.xMulh (d : Nat) (a : Nat) (b : Nat) : Encoding.Statement (.xMulh d a b) := by
  intro h v hv
  have hv : v ∈ [word 0x02 d a b 80] := hv
  have h : (decide (d ≤ 31) && decide (a ≤ 31) && decide (b ≤ 31)) = true := h
  simp at h hv
  exact fits hv (by omega) (by omega) (by omega) (by omega) (by omega)
theorem Encoding.xMulhn (d : Nat) (a : Nat) (b : Nat) : Encoding.Statement (.xMulhn d a b) := by
  intro h v hv
  have hv : v ∈ [word 0x02 d a b 88] := hv
  have h : (decide (d ≤ 31) && decide (a ≤ 31) && decide (b ≤ 31)) = true := h
  simp at h hv
  exact fits hv (by omega) (by omega) (by omega) (by omega) (by omega)
theorem Encoding.xDiv (d : Nat) (a : Nat) (b : Nat) : Encoding.Statement (.xDiv d a b) := by
  intro h v hv
  have hv : v ∈ [word 0x02 d a b 96] := hv
  have h : (decide (d ≤ 31) && decide (a ≤ 31) && decide (b ≤ 31)) = true := h
  simp at h hv
  exact fits hv (by omega) (by omega) (by omega) (by omega) (by omega)
theorem Encoding.xDivn (d : Nat) (a : Nat) (b : Nat) : Encoding.Statement (.xDivn d a b) := by
  intro h v hv
  have hv : v ∈ [word 0x02 d a b 104] := hv
  have h : (decide (d ≤ 31) && decide (a ≤ 31) && decide (b ≤ 31)) = true := h
  simp at h hv
  exact fits hv (by omega) (by omega) (by omega) (by omega) (by omega)
theorem Encoding.xRem (d : Nat) (a : Nat) (b : Nat) : Encoding.Statement (.xRem d a b) := by
  intro h v hv
  have hv : v ∈ [word 0x02 d a b 112] := hv
  have h : (decide (d ≤ 31) && decide (a ≤ 31) && decide (b ≤ 31)) = true := h
  simp at h hv
  exact fits hv (by omega) (by omega) (by omega) (by omega) (by omega)
theorem Encoding.xRemn (d : Nat) (a : Nat) (b : Nat) : Encoding.Statement (.xRemn d a b) := by
  intro h v hv
  have hv : v ∈ [word 0x02 d a b 120] := hv
  have h : (decide (d ≤ 31) && decide (a ≤ 31) && decide (b ≤ 31)) = true := h
  simp at h hv
  exact fits hv (by omega) (by omega) (by omega) (by omega) (by omega)
theorem Encoding.xMin (d : Nat) (a : Nat) (b : Nat) : Encoding.Statement (.xMin d a b) := by
  intro h v hv
  have hv : v ∈ [word 0x02 d a b 128] := hv
  have h : (decide (d ≤ 31) && decide (a ≤ 31) && decide (b ≤ 31)) = true := h
  simp at h hv
  exact fits hv (by omega) (by omega) (by omega) (by omega) (by omega)
theorem Encoding.xMax (d : Nat) (a : Nat) (b : Nat) : Encoding.Statement (.xMax d a b) := by
  intro h v hv
  have hv : v ∈ [word 0x02 d a b 136] := hv
  have h : (decide (d ≤ 31) && decide (a ≤ 31) && decide (b ≤ 31)) = true := h
  simp at h hv
  exact fits hv (by omega) (by omega) (by omega) (by omega) (by omega)
theorem Encoding.xMinn (d : Nat) (a : Nat) (b : Nat) : Encoding.Statement (.xMinn d a b) := by
  intro h v hv
  have hv : v ∈ [word 0x02 d a b 144] := hv
  have h : (decide (d ≤ 31) && decide (a ≤ 31) && decide (b ≤ 31)) = true := h
  simp at h hv
  exact fits hv (by omega) (by omega) (by omega) (by omega) (by omega)
theorem Encoding.xMaxn (d : Nat) (a : Nat) (b : Nat) : Encoding.Statement (.xMaxn d a b) := by
  intro h v hv
  have hv : v ∈ [word 0x02 d a b 152] := hv
  have h : (decide (d ≤ 31) && decide (a ≤ 31) && decide (b ≤ 31)) = true := h
  simp at h hv
  exact fits hv (by omega) (by omega) (by omega) (by omega) (by omega)
theorem Encoding.xSlt (d : Nat) (a : Nat) (b : Nat) : Encoding.Statement (.xSlt d a b) := by
  intro h v hv
  have hv : v ∈ [word 0x02 d a b 160] := hv
  have h : (decide (d ≤ 31) && decide (a ≤ 31) && decide (b ≤ 31)) = true := h
  simp at h hv
  exact fits hv (by omega) (by omega) (by omega) (by omega) (by omega)
theorem Encoding.xSltn (d : Nat) (a : Nat) (b : Nat) : Encoding.Statement (.xSltn d a b) := by
  intro h v hv
  have hv : v ∈ [word 0x02 d a b 168] := hv
  have h : (decide (d ≤ 31) && decide (a ≤ 31) && decide (b ≤ 31)) = true := h
  simp at h hv
  exact fits hv (by omega) (by omega) (by omega) (by omega) (by omega)
theorem Encoding.xSeq (d : Nat) (a : Nat) (b : Nat) : Encoding.Statement (.xSeq d a b) := by
  intro h v hv
  have hv : v ∈ [word 0x02 d a b 176] := hv
  have h : (decide (d ≤ 31) && decide (a ≤ 31) && decide (b ≤ 31)) = true := h
  simp at h hv
  exact fits hv (by omega) (by omega) (by omega) (by omega) (by omega)
theorem Encoding.xSel (d : Nat) (a : Nat) (b : Nat) : Encoding.Statement (.xSel d a b) := by
  intro h v hv
  have hv : v ∈ [word 0x02 d a b 184] := hv
  have h : (decide (d ≤ 31) && decide (a ≤ 31) && decide (b ≤ 31)) = true := h
  simp at h hv
  exact fits hv (by omega) (by omega) (by omega) (by omega) (by omega)
theorem Encoding.xClz (d : Nat) (a : Nat) : Encoding.Statement (.xClz d a) := by
  intro h v hv
  have hv : v ∈ [word 0x02 d a 0 192] := hv
  have h : (decide (d ≤ 31) && decide (a ≤ 31)) = true := h
  simp at h hv
  exact fits hv (by omega) (by omega) (by omega) (by omega) (by omega)
theorem Encoding.xCtz (d : Nat) (a : Nat) : Encoding.Statement (.xCtz d a) := by
  intro h v hv
  have hv : v ∈ [word 0x02 d a 0 200] := hv
  have h : (decide (d ≤ 31) && decide (a ≤ 31)) = true := h
  simp at h hv
  exact fits hv (by omega) (by omega) (by omega) (by omega) (by omega)
theorem Encoding.xPopc (d : Nat) (a : Nat) : Encoding.Statement (.xPopc d a) := by
  intro h v hv
  have hv : v ∈ [word 0x02 d a 0 208] := hv
  have h : (decide (d ≤ 31) && decide (a ≤ 31)) = true := h
  simp at h hv
  exact fits hv (by omega) (by omega) (by omega) (by omega) (by omega)
theorem Encoding.xiAdd (d : Nat) (a : Nat) (imm : BitVec 11) : Encoding.Statement (.xiAdd d a imm) := by
  intro h v hv
  have hv : v ∈ [word 0x03 d a (0 + imm.toNat / 256) (imm.toNat % 256)] := hv
  have h : (decide (d ≤ 31) && decide (a ≤ 31)) = true := h
  simp at h hv
  have := imm.isLt
  exact fits hv (by omega) (by omega) (by omega) (by omega) (by omega)
theorem Encoding.xiAnd (d : Nat) (a : Nat) (imm : BitVec 11) : Encoding.Statement (.xiAnd d a imm) := by
  intro h v hv
  have hv : v ∈ [word 0x03 d a (8 + imm.toNat / 256) (imm.toNat % 256)] := hv
  have h : (decide (d ≤ 31) && decide (a ≤ 31)) = true := h
  simp at h hv
  have := imm.isLt
  exact fits hv (by omega) (by omega) (by omega) (by omega) (by omega)
theorem Encoding.xiOr (d : Nat) (a : Nat) (imm : BitVec 11) : Encoding.Statement (.xiOr d a imm) := by
  intro h v hv
  have hv : v ∈ [word 0x03 d a (16 + imm.toNat / 256) (imm.toNat % 256)] := hv
  have h : (decide (d ≤ 31) && decide (a ≤ 31)) = true := h
  simp at h hv
  have := imm.isLt
  exact fits hv (by omega) (by omega) (by omega) (by omega) (by omega)
theorem Encoding.xiXor (d : Nat) (a : Nat) (imm : BitVec 11) : Encoding.Statement (.xiXor d a imm) := by
  intro h v hv
  have hv : v ∈ [word 0x03 d a (24 + imm.toNat / 256) (imm.toNat % 256)] := hv
  have h : (decide (d ≤ 31) && decide (a ≤ 31)) = true := h
  simp at h hv
  have := imm.isLt
  exact fits hv (by omega) (by omega) (by omega) (by omega) (by omega)
theorem Encoding.xiShl (d : Nat) (a : Nat) (sh : BitVec 6) : Encoding.Statement (.xiShl d a sh) := by
  intro h v hv
  have hv : v ∈ [word 0x03 d a 32 sh.toNat] := hv
  have h : (decide (d ≤ 31) && decide (a ≤ 31)) = true := h
  simp at h hv
  have := sh.isLt
  exact fits hv (by omega) (by omega) (by omega) (by omega) (by omega)
theorem Encoding.xiShr (d : Nat) (a : Nat) (sh : BitVec 6) : Encoding.Statement (.xiShr d a sh) := by
  intro h v hv
  have hv : v ∈ [word 0x03 d a 40 sh.toNat] := hv
  have h : (decide (d ≤ 31) && decide (a ≤ 31)) = true := h
  simp at h hv
  have := sh.isLt
  exact fits hv (by omega) (by omega) (by omega) (by omega) (by omega)
theorem Encoding.xiSar (d : Nat) (a : Nat) (sh : BitVec 6) : Encoding.Statement (.xiSar d a sh) := by
  intro h v hv
  have hv : v ∈ [word 0x03 d a 48 sh.toNat] := hv
  have h : (decide (d ≤ 31) && decide (a ≤ 31)) = true := h
  simp at h hv
  have := sh.isLt
  exact fits hv (by omega) (by omega) (by omega) (by omega) (by omega)
theorem Encoding.xiSlt (d : Nat) (a : Nat) (imm : BitVec 11) : Encoding.Statement (.xiSlt d a imm) := by
  intro h v hv
  have hv : v ∈ [word 0x03 d a (56 + imm.toNat / 256) (imm.toNat % 256)] := hv
  have h : (decide (d ≤ 31) && decide (a ≤ 31)) = true := h
  simp at h hv
  have := imm.isLt
  exact fits hv (by omega) (by omega) (by omega) (by omega) (by omega)
theorem Encoding.xlLd (d : Nat) (imm : BitVec 32) : Encoding.Statement (.xlLd d imm) := by
  intro h v hv
  have hv : v ∈ [word 0x04 d 0 0 0, imm.toNat] := hv
  have h : (decide (d ≤ 31)) = true := h
  simp at h hv
  have := imm.isLt
  rcases hv with hv | hv
  · exact fits hv (by omega) (by omega) (by omega) (by omega) (by omega)
  · exact hv ▸ imm.isLt
theorem Encoding.xlHi (d : Nat) (imm : BitVec 32) : Encoding.Statement (.xlHi d imm) := by
  intro h v hv
  have hv : v ∈ [word 0x04 d 0 1 0, imm.toNat] := hv
  have h : (decide (d ≤ 31)) = true := h
  simp at h hv
  have := imm.isLt
  rcases hv with hv | hv
  · exact fits hv (by omega) (by omega) (by omega) (by omega) (by omega)
  · exact hv ▸ imm.isLt
theorem Encoding.fAdd (d : Nat) (a : Nat) (b : Nat) (fm : Fm) (rm : Rm) : Encoding.Statement (.fAdd d a b fm rm) := by
  intro h v hv
  have hv : v ∈ [word 0x05 d a b (0 + 4 * fm.code + rm.code)] := hv
  have h : (decide (d ≤ 31) && decide (a ≤ 31) && decide (b ≤ 31)) = true := h
  simp at h hv
  have := fm_code_le fm; have := rm_code_le rm
  exact fits hv (by omega) (by omega) (by omega) (by omega) (by omega)
theorem Encoding.fSub (d : Nat) (a : Nat) (b : Nat) (fm : Fm) (rm : Rm) : Encoding.Statement (.fSub d a b fm rm) := by
  intro h v hv
  have hv : v ∈ [word 0x05 d a b (16 + 4 * fm.code + rm.code)] := hv
  have h : (decide (d ≤ 31) && decide (a ≤ 31) && decide (b ≤ 31)) = true := h
  simp at h hv
  have := fm_code_le fm; have := rm_code_le rm
  exact fits hv (by omega) (by omega) (by omega) (by omega) (by omega)
theorem Encoding.fMul (d : Nat) (a : Nat) (b : Nat) (fm : Fm) (rm : Rm) : Encoding.Statement (.fMul d a b fm rm) := by
  intro h v hv
  have hv : v ∈ [word 0x05 d a b (32 + 4 * fm.code + rm.code)] := hv
  have h : (decide (d ≤ 31) && decide (a ≤ 31) && decide (b ≤ 31)) = true := h
  simp at h hv
  have := fm_code_le fm; have := rm_code_le rm
  exact fits hv (by omega) (by omega) (by omega) (by omega) (by omega)
theorem Encoding.fFma (d : Nat) (a : Nat) (b : Nat) (fm : Fm) (rm : Rm) : Encoding.Statement (.fFma d a b fm rm) := by
  intro h v hv
  have hv : v ∈ [word 0x05 d a b (48 + 4 * fm.code + rm.code)] := hv
  have h : (decide (d ≤ 31) && decide (a ≤ 31) && decide (b ≤ 31)) = true := h
  simp at h hv
  have := fm_code_le fm; have := rm_code_le rm
  exact fits hv (by omega) (by omega) (by omega) (by omega) (by omega)
theorem Encoding.fDiv (d : Nat) (a : Nat) (b : Nat) (fm : Fm) (rm : Rm) : Encoding.Statement (.fDiv d a b fm rm) := by
  intro h v hv
  have hv : v ∈ [word 0x05 d a b (64 + 4 * fm.code + rm.code)] := hv
  have h : (decide (d ≤ 31) && decide (a ≤ 31) && decide (b ≤ 31)) = true := h
  simp at h hv
  have := fm_code_le fm; have := rm_code_le rm
  exact fits hv (by omega) (by omega) (by omega) (by omega) (by omega)
theorem Encoding.fSqrt (d : Nat) (a : Nat) (fm : Fm) (rm : Rm) : Encoding.Statement (.fSqrt d a fm rm) := by
  intro h v hv
  have hv : v ∈ [word 0x05 d a 0 (80 + 4 * fm.code + rm.code)] := hv
  have h : (decide (d ≤ 31) && decide (a ≤ 31)) = true := h
  simp at h hv
  have := fm_code_le fm; have := rm_code_le rm
  exact fits hv (by omega) (by omega) (by omega) (by omega) (by omega)
theorem Encoding.fMin (d : Nat) (a : Nat) (b : Nat) (fm : Fm) (rm : Rm) : Encoding.Statement (.fMin d a b fm rm) := by
  intro h v hv
  have hv : v ∈ [word 0x05 d a b (96 + 4 * fm.code + rm.code)] := hv
  have h : (decide (d ≤ 31) && decide (a ≤ 31) && decide (b ≤ 31)) = true := h
  simp at h hv
  have := fm_code_le fm; have := rm_code_le rm
  exact fits hv (by omega) (by omega) (by omega) (by omega) (by omega)
theorem Encoding.fMax (d : Nat) (a : Nat) (b : Nat) (fm : Fm) (rm : Rm) : Encoding.Statement (.fMax d a b fm rm) := by
  intro h v hv
  have hv : v ∈ [word 0x05 d a b (112 + 4 * fm.code + rm.code)] := hv
  have h : (decide (d ≤ 31) && decide (a ≤ 31) && decide (b ≤ 31)) = true := h
  simp at h hv
  have := fm_code_le fm; have := rm_code_le rm
  exact fits hv (by omega) (by omega) (by omega) (by omega) (by omega)
theorem Encoding.fCmp (d : Nat) (a : Nat) (b : Nat) (fm : Fm) (cond : FCond) : Encoding.Statement (.fCmp d a b fm
    cond) := by
  intro h v hv
  have hv : v ∈ [word 0x05 d a b (128 + 4 * fm.code + cond.code)] := hv
  have h : (decide (d ≤ 31) && decide (a ≤ 31) && decide (b ≤ 31)) = true := h
  simp at h hv
  have := fm_code_le fm; have := fcond_code_le cond
  exact fits hv (by omega) (by omega) (by omega) (by omega) (by omega)
theorem Encoding.fCvt (d : Nat) (a : Nat) (dk : FKind) (sk : FKind) (rm : Rm) : Encoding.Statement (.fCvt d a dk sk
    rm) := by
  intro h v hv
  have hv : v ∈ [word 0x05 d a (8 * dk.code + sk.code) (144 + rm.code)] := hv
  have h : (decide (d ≤ 31) && decide (a ≤ 31) && decide (dk ≠ sk) && !(dk.isInt && sk.isInt)) = true := h
  simp at h hv
  have := fkind_code_le dk; have := fkind_code_le sk; have := rm_code_le rm
  exact fits hv (by omega) (by omega) (by omega) (by omega) (by omega)
theorem Encoding.fClass (d : Nat) (a : Nat) (fm : Fm) (rm : Rm) : Encoding.Statement (.fClass d a fm rm) := by
  intro h v hv
  have hv : v ∈ [word 0x05 d a 0 (160 + 4 * fm.code + rm.code)] := hv
  have h : (decide (d ≤ 31) && decide (a ≤ 31)) = true := h
  simp at h hv
  have := fm_code_le fm; have := rm_code_le rm
  exact fits hv (by omega) (by omega) (by omega) (by omega) (by omega)
theorem Encoding.bEq (a : Nat) (b : Nat) (off : BitVec 11) : Encoding.Statement (.bEq a b off) := by
  intro h v hv
  have hv : v ∈ [word 0x06 (off.toNat / 32) a b (8 * (off.toNat % 32) + 0)] := hv
  have h : (decide (a ≤ 31) && decide (b ≤ 31)) = true := h
  simp at h hv
  have := off.isLt
  exact fits hv (by omega) (by omega) (by omega) (by omega) (by omega)
theorem Encoding.bNe (a : Nat) (b : Nat) (off : BitVec 11) : Encoding.Statement (.bNe a b off) := by
  intro h v hv
  have hv : v ∈ [word 0x06 (off.toNat / 32) a b (8 * (off.toNat % 32) + 1)] := hv
  have h : (decide (a ≤ 31) && decide (b ≤ 31)) = true := h
  simp at h hv
  have := off.isLt
  exact fits hv (by omega) (by omega) (by omega) (by omega) (by omega)
theorem Encoding.bLt (a : Nat) (b : Nat) (off : BitVec 11) : Encoding.Statement (.bLt a b off) := by
  intro h v hv
  have hv : v ∈ [word 0x06 (off.toNat / 32) a b (8 * (off.toNat % 32) + 2)] := hv
  have h : (decide (a ≤ 31) && decide (b ≤ 31)) = true := h
  simp at h hv
  have := off.isLt
  exact fits hv (by omega) (by omega) (by omega) (by omega) (by omega)
theorem Encoding.bGe (a : Nat) (b : Nat) (off : BitVec 11) : Encoding.Statement (.bGe a b off) := by
  intro h v hv
  have hv : v ∈ [word 0x06 (off.toNat / 32) a b (8 * (off.toNat % 32) + 3)] := hv
  have h : (decide (a ≤ 31) && decide (b ≤ 31)) = true := h
  simp at h hv
  have := off.isLt
  exact fits hv (by omega) (by omega) (by omega) (by omega) (by omega)
theorem Encoding.bLtn (a : Nat) (b : Nat) (off : BitVec 11) : Encoding.Statement (.bLtn a b off) := by
  intro h v hv
  have hv : v ∈ [word 0x06 (off.toNat / 32) a b (8 * (off.toNat % 32) + 4)] := hv
  have h : (decide (a ≤ 31) && decide (b ≤ 31)) = true := h
  simp at h hv
  have := off.isLt
  exact fits hv (by omega) (by omega) (by omega) (by omega) (by omega)
theorem Encoding.bGen (a : Nat) (b : Nat) (off : BitVec 11) : Encoding.Statement (.bGen a b off) := by
  intro h v hv
  have hv : v ∈ [word 0x06 (off.toNat / 32) a b (8 * (off.toNat % 32) + 5)] := hv
  have h : (decide (a ≤ 31) && decide (b ≤ 31)) = true := h
  simp at h hv
  have := off.isLt
  exact fits hv (by omega) (by omega) (by omega) (by omega) (by omega)
theorem Encoding.jLink (d : Nat) (off : BitVec 18) : Encoding.Statement (.jLink d off) := by
  intro h v hv
  have hv : v ∈ [word 0x07 d (off.toNat / 4096) (off.toNat / 64 % 64) (4 * (off.toNat % 64))] := hv
  have h : (decide (d ≤ 31)) = true := h
  simp at h hv
  have := off.isLt
  exact fits hv (by omega) (by omega) (by omega) (by omega) (by omega)
theorem Encoding.jInd (d : Nat) (a : Nat) (off : BitVec 12) : Encoding.Statement (.jInd d a off) := by
  intro h v hv
  have hv : v ∈ [word 0x07 d a (off.toNat / 64) (4 * (off.toNat % 64) + 1)] := hv
  have h : (decide (d ≤ 31) && decide (a ≤ 31)) = true := h
  simp at h hv
  have := off.isLt
  exact fits hv (by omega) (by omega) (by omega) (by omega) (by omega)
theorem Encoding.lnSet (d : Nat) (a : Nat) (gr : Gr) (np : Nat) (kb : Bool) : Encoding.Statement (.lnSet d a gr np
    kb) := by
  intro h v hv
  have hv : v ∈ [word 0x08 d a (16 * gr.code) (32 * np + 16 * kb.toNat)] := hv
  have h : (decide (d ≤ 31) && decide (a ≤ 31) && decide (np ≤ 4)) = true := h
  simp at h hv
  have := gr_code_le gr; have := Bool.toNat_le kb
  exact fits hv (by omega) (by omega) (by omega) (by omega) (by omega)
theorem Encoding.lnShuttle (d : Nat) (a : Nat) (b : Nat) (np : Nat) (kb : Bool) (es0 : Es) (es1 : Es) (es2 : Es) (es3
    : Es) (off : BitVec 20) : Encoding.Statement (.lnShuttle d a b np kb es0 es1 es2 es3 off) := by
  intro h v hv
  have hv : v ∈ [word 0x08 d a b (32 * np + 16 * kb.toNat + 1), es0.code * 536870912 + es1.code * 67108864 + es2.code
    * 8388608 + es3.code * 1048576 + off.toNat] := hv
  have h : (decide (d ≤ 31) && decide (a ≤ 31) && shuttleOk b np es0 es1 es2 es3) = true := h
  simp [shuttleOk] at h hv
  have := Bool.toNat_le kb; have := es_code_le es0; have := es_code_le es1; have := es_code_le es2; have :=
    es_code_le es3; have := off.isLt
  have : b < 64 := by by_cases e : np = 0 <;> simp [e] at h <;> omega
  rcases hv with hv | hv
  · exact fits hv (by omega) (by omega) (by omega) (by omega) (by omega)
  · omega
theorem Encoding.lnTrim (d : Nat) (a : Nat) : Encoding.Statement (.lnTrim d a) := by
  intro h v hv
  have hv : v ∈ [word 0x08 d a 0 2] := hv
  have h : (decide (d ≤ 31) && decide (a ≤ 31)) = true := h
  simp at h hv
  exact fits hv (by omega) (by omega) (by omega) (by omega) (by omega)
theorem Encoding.lnRel : Encoding.Statement (.lnRel) := by
  intro h v hv
  have hv : v ∈ [word 0x08 0 0 0 3] := hv
  have h : (true) = true := h
  simp at hv
  exact fits hv (by omega) (by omega) (by omega) (by omega) (by omega)
theorem Encoding.crRd (d : Nat) (cn : Nat) : Encoding.Statement (.crRd d cn) := by
  intro h v hv
  have hv : v ∈ [word 0x09 d 0 (cn / 64) (4 * (cn % 64))] := hv
  have h : (decide (d ≤ 31) && decide (cn ≤ 4095)) = true := h
  simp at h hv
  exact fits hv (by omega) (by omega) (by omega) (by omega) (by omega)
theorem Encoding.crWr (d : Nat) (a : Nat) (cn : Nat) : Encoding.Statement (.crWr d a cn) := by
  intro h v hv
  have hv : v ∈ [word 0x09 d a (cn / 64) (4 * (cn % 64) + 1)] := hv
  have h : (decide (d ≤ 31) && decide (a ≤ 31) && decide (cn ≤ 4095)) = true := h
  simp at h hv
  exact fits hv (by omega) (by omega) (by omega) (by omega) (by omega)
theorem Encoding.crSet (d : Nat) (a : Nat) (cn : Nat) : Encoding.Statement (.crSet d a cn) := by
  intro h v hv
  have hv : v ∈ [word 0x09 d a (cn / 64) (4 * (cn % 64) + 2)] := hv
  have h : (decide (d ≤ 31) && decide (a ≤ 31) && decide (cn ≤ 4095)) = true := h
  simp at h hv
  exact fits hv (by omega) (by omega) (by omega) (by omega) (by omega)
theorem Encoding.crClr (d : Nat) (a : Nat) (cn : Nat) : Encoding.Statement (.crClr d a cn) := by
  intro h v hv
  have hv : v ∈ [word 0x09 d a (cn / 64) (4 * (cn % 64) + 3)] := hv
  have h : (decide (d ≤ 31) && decide (a ≤ 31) && decide (cn ≤ 4095)) = true := h
  simp at h hv
  exact fits hv (by omega) (by omega) (by omega) (by omega) (by omega)
theorem Encoding.ldS8 (d : Nat) (a : Nat) (cls : Nat) (off : BitVec 7) : Encoding.Statement (.ldS8 d a cls off) := by
  intro h v hv
  have hv : v ∈ [word 0x0A d a (0 + cls / 2) (128 * (cls % 2) + off.toNat)] := hv
  have h : (decide (d ≤ 31) && decide (a ≤ 31) && decide (cls ≤ 15)) = true := h
  simp at h hv
  have := off.isLt
  exact fits hv (by omega) (by omega) (by omega) (by omega) (by omega)
theorem Encoding.ldN8 (d : Nat) (a : Nat) (cls : Nat) (off : BitVec 7) : Encoding.Statement (.ldN8 d a cls off) := by
  intro h v hv
  have hv : v ∈ [word 0x0A d a (8 + cls / 2) (128 * (cls % 2) + off.toNat)] := hv
  have h : (decide (d ≤ 31) && decide (a ≤ 31) && decide (cls ≤ 15)) = true := h
  simp at h hv
  have := off.isLt
  exact fits hv (by omega) (by omega) (by omega) (by omega) (by omega)
theorem Encoding.ldS16 (d : Nat) (a : Nat) (cls : Nat) (off : BitVec 7) : Encoding.Statement (.ldS16 d a cls off) :=
    by
  intro h v hv
  have hv : v ∈ [word 0x0A d a (16 + cls / 2) (128 * (cls % 2) + off.toNat)] := hv
  have h : (decide (d ≤ 31) && decide (a ≤ 31) && decide (cls ≤ 15)) = true := h
  simp at h hv
  have := off.isLt
  exact fits hv (by omega) (by omega) (by omega) (by omega) (by omega)
theorem Encoding.ldN16 (d : Nat) (a : Nat) (cls : Nat) (off : BitVec 7) : Encoding.Statement (.ldN16 d a cls off) :=
    by
  intro h v hv
  have hv : v ∈ [word 0x0A d a (24 + cls / 2) (128 * (cls % 2) + off.toNat)] := hv
  have h : (decide (d ≤ 31) && decide (a ≤ 31) && decide (cls ≤ 15)) = true := h
  simp at h hv
  have := off.isLt
  exact fits hv (by omega) (by omega) (by omega) (by omega) (by omega)
theorem Encoding.ldS32 (d : Nat) (a : Nat) (cls : Nat) (off : BitVec 7) : Encoding.Statement (.ldS32 d a cls off) :=
    by
  intro h v hv
  have hv : v ∈ [word 0x0A d a (32 + cls / 2) (128 * (cls % 2) + off.toNat)] := hv
  have h : (decide (d ≤ 31) && decide (a ≤ 31) && decide (cls ≤ 15)) = true := h
  simp at h hv
  have := off.isLt
  exact fits hv (by omega) (by omega) (by omega) (by omega) (by omega)
theorem Encoding.ldN32 (d : Nat) (a : Nat) (cls : Nat) (off : BitVec 7) : Encoding.Statement (.ldN32 d a cls off) :=
    by
  intro h v hv
  have hv : v ∈ [word 0x0A d a (40 + cls / 2) (128 * (cls % 2) + off.toNat)] := hv
  have h : (decide (d ≤ 31) && decide (a ≤ 31) && decide (cls ≤ 15)) = true := h
  simp at h hv
  have := off.isLt
  exact fits hv (by omega) (by omega) (by omega) (by omega) (by omega)
theorem Encoding.ldX64 (d : Nat) (a : Nat) (cls : Nat) (off : BitVec 7) : Encoding.Statement (.ldX64 d a cls off) :=
    by
  intro h v hv
  have hv : v ∈ [word 0x0A d a (48 + cls / 2) (128 * (cls % 2) + off.toNat)] := hv
  have h : (decide (d ≤ 31) && decide (a ≤ 31) && decide (cls ≤ 15)) = true := h
  simp at h hv
  have := off.isLt
  exact fits hv (by omega) (by omega) (by omega) (by omega) (by omega)
theorem Encoding.stS8 (d : Nat) (a : Nat) (cls : Nat) (off : BitVec 7) : Encoding.Statement (.stS8 d a cls off) := by
  intro h v hv
  have hv : v ∈ [word 0x0B d a (0 + cls / 2) (128 * (cls % 2) + off.toNat)] := hv
  have h : (decide (d ≤ 31) && decide (a ≤ 31) && decide (cls ≤ 15)) = true := h
  simp at h hv
  have := off.isLt
  exact fits hv (by omega) (by omega) (by omega) (by omega) (by omega)
theorem Encoding.stS16 (d : Nat) (a : Nat) (cls : Nat) (off : BitVec 7) : Encoding.Statement (.stS16 d a cls off) :=
    by
  intro h v hv
  have hv : v ∈ [word 0x0B d a (16 + cls / 2) (128 * (cls % 2) + off.toNat)] := hv
  have h : (decide (d ≤ 31) && decide (a ≤ 31) && decide (cls ≤ 15)) = true := h
  simp at h hv
  have := off.isLt
  exact fits hv (by omega) (by omega) (by omega) (by omega) (by omega)
theorem Encoding.stS32 (d : Nat) (a : Nat) (cls : Nat) (off : BitVec 7) : Encoding.Statement (.stS32 d a cls off) :=
    by
  intro h v hv
  have hv : v ∈ [word 0x0B d a (32 + cls / 2) (128 * (cls % 2) + off.toNat)] := hv
  have h : (decide (d ≤ 31) && decide (a ≤ 31) && decide (cls ≤ 15)) = true := h
  simp at h hv
  have := off.isLt
  exact fits hv (by omega) (by omega) (by omega) (by omega) (by omega)
theorem Encoding.stX64 (d : Nat) (a : Nat) (cls : Nat) (off : BitVec 7) : Encoding.Statement (.stX64 d a cls off) :=
    by
  intro h v hv
  have hv : v ∈ [word 0x0B d a (48 + cls / 2) (128 * (cls % 2) + off.toNat)] := hv
  have h : (decide (d ≤ 31) && decide (a ≤ 31) && decide (cls ≤ 15)) = true := h
  simp at h hv
  have := off.isLt
  exact fits hv (by omega) (by omega) (by omega) (by omega) (by omega)
theorem Encoding.amAdd (d : Nat) (a : Nat) (b : Nat) (ord : Ord) (sco : Sco) : Encoding.Statement (.amAdd d a b ord
    sco) := by
  intro h v hv
  have hv : v ∈ [word 0x0C d a b (0 + 4 * ord.code + sco.code)] := hv
  have h : (decide (d ≤ 31) && decide (a ≤ 31) && decide (b ≤ 31)) = true := h
  simp at h hv
  have := ord_code_le ord; have := sco_code_le sco
  exact fits hv (by omega) (by omega) (by omega) (by omega) (by omega)
theorem Encoding.amAnd (d : Nat) (a : Nat) (b : Nat) (ord : Ord) (sco : Sco) : Encoding.Statement (.amAnd d a b ord
    sco) := by
  intro h v hv
  have hv : v ∈ [word 0x0C d a b (16 + 4 * ord.code + sco.code)] := hv
  have h : (decide (d ≤ 31) && decide (a ≤ 31) && decide (b ≤ 31)) = true := h
  simp at h hv
  have := ord_code_le ord; have := sco_code_le sco
  exact fits hv (by omega) (by omega) (by omega) (by omega) (by omega)
theorem Encoding.amOr (d : Nat) (a : Nat) (b : Nat) (ord : Ord) (sco : Sco) : Encoding.Statement (.amOr d a b ord
    sco) := by
  intro h v hv
  have hv : v ∈ [word 0x0C d a b (32 + 4 * ord.code + sco.code)] := hv
  have h : (decide (d ≤ 31) && decide (a ≤ 31) && decide (b ≤ 31)) = true := h
  simp at h hv
  have := ord_code_le ord; have := sco_code_le sco
  exact fits hv (by omega) (by omega) (by omega) (by omega) (by omega)
theorem Encoding.amXor (d : Nat) (a : Nat) (b : Nat) (ord : Ord) (sco : Sco) : Encoding.Statement (.amXor d a b ord
    sco) := by
  intro h v hv
  have hv : v ∈ [word 0x0C d a b (48 + 4 * ord.code + sco.code)] := hv
  have h : (decide (d ≤ 31) && decide (a ≤ 31) && decide (b ≤ 31)) = true := h
  simp at h hv
  have := ord_code_le ord; have := sco_code_le sco
  exact fits hv (by omega) (by omega) (by omega) (by omega) (by omega)
theorem Encoding.amMax (d : Nat) (a : Nat) (b : Nat) (ord : Ord) (sco : Sco) : Encoding.Statement (.amMax d a b ord
    sco) := by
  intro h v hv
  have hv : v ∈ [word 0x0C d a b (64 + 4 * ord.code + sco.code)] := hv
  have h : (decide (d ≤ 31) && decide (a ≤ 31) && decide (b ≤ 31)) = true := h
  simp at h hv
  have := ord_code_le ord; have := sco_code_le sco
  exact fits hv (by omega) (by omega) (by omega) (by omega) (by omega)
theorem Encoding.amMin (d : Nat) (a : Nat) (b : Nat) (ord : Ord) (sco : Sco) : Encoding.Statement (.amMin d a b ord
    sco) := by
  intro h v hv
  have hv : v ∈ [word 0x0C d a b (80 + 4 * ord.code + sco.code)] := hv
  have h : (decide (d ≤ 31) && decide (a ≤ 31) && decide (b ≤ 31)) = true := h
  simp at h hv
  have := ord_code_le ord; have := sco_code_le sco
  exact fits hv (by omega) (by omega) (by omega) (by omega) (by omega)
theorem Encoding.amMaxn (d : Nat) (a : Nat) (b : Nat) (ord : Ord) (sco : Sco) : Encoding.Statement (.amMaxn d a b ord
    sco) := by
  intro h v hv
  have hv : v ∈ [word 0x0C d a b (96 + 4 * ord.code + sco.code)] := hv
  have h : (decide (d ≤ 31) && decide (a ≤ 31) && decide (b ≤ 31)) = true := h
  simp at h hv
  have := ord_code_le ord; have := sco_code_le sco
  exact fits hv (by omega) (by omega) (by omega) (by omega) (by omega)
theorem Encoding.amMinn (d : Nat) (a : Nat) (b : Nat) (ord : Ord) (sco : Sco) : Encoding.Statement (.amMinn d a b ord
    sco) := by
  intro h v hv
  have hv : v ∈ [word 0x0C d a b (112 + 4 * ord.code + sco.code)] := hv
  have h : (decide (d ≤ 31) && decide (a ≤ 31) && decide (b ≤ 31)) = true := h
  simp at h hv
  have := ord_code_le ord; have := sco_code_le sco
  exact fits hv (by omega) (by omega) (by omega) (by omega) (by omega)
theorem Encoding.amSwap (d : Nat) (a : Nat) (b : Nat) (ord : Ord) (sco : Sco) : Encoding.Statement (.amSwap d a b ord
    sco) := by
  intro h v hv
  have hv : v ∈ [word 0x0C d a b (128 + 4 * ord.code + sco.code)] := hv
  have h : (decide (d ≤ 31) && decide (a ≤ 31) && decide (b ≤ 31)) = true := h
  simp at h hv
  have := ord_code_le ord; have := sco_code_le sco
  exact fits hv (by omega) (by omega) (by omega) (by omega) (by omega)
theorem Encoding.amCas (d : Nat) (a : Nat) (b : Nat) (ord : Ord) (sco : Sco) : Encoding.Statement (.amCas d a b ord
    sco) := by
  intro h v hv
  have hv : v ∈ [word 0x0C d a b (144 + 4 * ord.code + sco.code)] := hv
  have h : (decide (d ≤ 31) && decide (a ≤ 31) && decide (b ≤ 31)) = true := h
  simp at h hv
  have := ord_code_le ord; have := sco_code_le sco
  exact fits hv (by omega) (by omega) (by omega) (by omega) (by omega)
theorem Encoding.amLd (d : Nat) (a : Nat) (ord : Ord) (sco : Sco) : Encoding.Statement (.amLd d a ord sco) := by
  intro h v hv
  have hv : v ∈ [word 0x0C d a 0 (160 + 4 * ord.code + sco.code)] := hv
  have h : (decide (d ≤ 31) && decide (a ≤ 31) && !(ord == .rel || ord == .ar)) = true := h
  simp at h hv
  have := ord_code_le ord; have := sco_code_le sco
  exact fits hv (by omega) (by omega) (by omega) (by omega) (by omega)
theorem Encoding.amSt (d : Nat) (a : Nat) (ord : Ord) (sco : Sco) : Encoding.Statement (.amSt d a ord sco) := by
  intro h v hv
  have hv : v ∈ [word 0x0C d a 0 (176 + 4 * ord.code + sco.code)] := hv
  have h : (decide (d ≤ 31) && decide (a ≤ 31) && !(ord == .acq || ord == .ar)) = true := h
  simp at h hv
  have := ord_code_le ord; have := sco_code_le sco
  exact fits hv (by omega) (by omega) (by omega) (by omega) (by omega)
theorem Encoding.yFence (cmask : BitVec 16) (sco : YSco) : Encoding.Statement (.yFence cmask sco) := by
  intro h v hv
  have hv : v ∈ [word 0x0D (cmask.toNat / 1024) (cmask.toNat / 16 % 64) (4 * (cmask.toNat % 16) + sco.code / 2) (128
    * (sco.code % 2))] := hv
  have h : (true) = true := h
  simp at hv
  have := cmask.isLt; have := ysco_code_le sco
  exact fits hv (by omega) (by omega) (by omega) (by omega) (by omega)
theorem Encoding.yXfence (pa : BitVec 8) (pb : BitVec 8) (sco : YSco) : Encoding.Statement (.yXfence pa pb sco) := by
  intro h v hv
  have hv : v ∈ [word 0x0D (pa.toNat / 4) (16 * (pa.toNat % 4) + pb.toNat / 16) (4 * (pb.toNat % 16) + sco.code / 2)
    (128 * (sco.code % 2) + 1)] := hv
  have h : (decide (pa ≠ 0) && decide (pb ≠ 0)) = true := h
  simp at h hv
  have := pa.isLt; have := pb.isLt; have := ysco_code_le sco
  exact fits hv (by omega) (by omega) (by omega) (by omega) (by omega)
theorem Encoding.yBar : Encoding.Statement (.yBar) := by
  intro h v hv
  have hv : v ∈ [word 0x0D 0 0 0 2] := hv
  have h : (true) = true := h
  simp at hv
  exact fits hv (by omega) (by omega) (by omega) (by omega) (by omega)
theorem Encoding.yEnd : Encoding.Statement (.yEnd) := by
  intro h v hv
  have hv : v ∈ [word 0x0D 0 0 0 3] := hv
  have h : (true) = true := h
  simp at hv
  exact fits hv (by omega) (by omega) (by omega) (by omega) (by omega)
theorem Encoding.yWait (d : Nat) (a : Nat) (b : Nat) : Encoding.Statement (.yWait d a b) := by
  intro h v hv
  have hv : v ∈ [word 0x0D d a b 4] := hv
  have h : (decide (d ≤ 31) && decide (a ≤ 31) && decide (b ≤ 31)) = true := h
  simp at h hv
  exact fits hv (by omega) (by omega) (by omega) (by omega) (by omega)
theorem Encoding.ride (pe : Bool) (pid : Nat) (he : Bool) (hid : Nat) (ce : Bool) (cls : Nat) : Encoding.Statement
    (.ride pe pid he hid ce cls) := by
  intro h v hv
  have hv : v ∈ [word 0x0E (32 * pe.toNat + pid) (32 * he.toNat + hid) (32 * ce.toNat + 2 * cls) 0] := hv
  have h : (rideOk pe pid he hid ce cls) = true := h
  simp [rideOk] at h hv
  have := Bool.toNat_le pe; have := Bool.toNat_le he; have := Bool.toNat_le ce
  exact fits hv (by omega) (by omega) (by omega) (by omega) (by omega)
theorem Encoding.zCall : Encoding.Statement (.zCall) := by
  intro h v hv
  have hv : v ∈ [word 0x0F 0 0 0 0] := hv
  have h : (true) = true := h
  simp at hv
  exact fits hv (by omega) (by omega) (by omega) (by omega) (by omega)
theorem Encoding.zBrk : Encoding.Statement (.zBrk) := by
  intro h v hv
  have hv : v ∈ [word 0x0F 0 0 0 8] := hv
  have h : (true) = true := h
  simp at hv
  exact fits hv (by omega) (by omega) (by omega) (by omega) (by omega)
theorem Encoding.zRet : Encoding.Statement (.zRet) := by
  intro h v hv
  have hv : v ∈ [word 0x0F 0 0 0 16] := hv
  have h : (true) = true := h
  simp at hv
  exact fits hv (by omega) (by omega) (by omega) (by omega) (by omega)
theorem Encoding.zHres (d : Nat) (a : Nat) : Encoding.Statement (.zHres d a) := by
  intro h v hv
  have hv : v ∈ [word 0x0F d a 0 24] := hv
  have h : (decide (d ≤ 31) && decide (a ≤ 31)) = true := h
  simp at h hv
  exact fits hv (by omega) (by omega) (by omega) (by omega) (by omega)
theorem Encoding.zHstop (d : Nat) (a : Nat) : Encoding.Statement (.zHstop d a) := by
  intro h v hv
  have hv : v ∈ [word 0x0F d a 0 32] := hv
  have h : (decide (d ≤ 31) && decide (a ≤ 31)) = true := h
  simp at h hv
  exact fits hv (by omega) (by omega) (by omega) (by omega) (by omega)
theorem Encoding.zInva (a : Nat) : Encoding.Statement (.zInva a) := by
  intro h v hv
  have hv : v ∈ [word 0x0F 0 a 0 40] := hv
  have h : (decide (a ≤ 31)) = true := h
  simp at h hv
  exact fits hv (by omega) (by omega) (by omega) (by omega) (by omega)
theorem Encoding.zInvs (a : Nat) (b : Nat) : Encoding.Statement (.zInvs a b) := by
  intro h v hv
  have hv : v ∈ [word 0x0F 0 a b 48] := hv
  have h : (decide (a ≤ 31) && decide (b ≤ 31)) = true := h
  simp at h hv
  exact fits hv (by omega) (by omega) (by omega) (by omega) (by omega)
theorem Encoding.zInvp : Encoding.Statement (.zInvp) := by
  intro h v hv
  have hv : v ∈ [word 0x0F 0 0 0 56] := hv
  have h : (true) = true := h
  simp at hv
  exact fits hv (by omega) (by omega) (by omega) (by omega) (by omega)
theorem Encoding.zSpawn (d : Nat) (a : Nat) : Encoding.Statement (.zSpawn d a) := by
  intro h v hv
  have hv : v ∈ [word 0x0F d a 0 64] := hv
  have h : (decide (d ≤ 31) && decide (a ≤ 31)) = true := h
  simp at h hv
  exact fits hv (by omega) (by omega) (by omega) (by omega) (by omega)
theorem Encoding.zKill (d : Nat) (a : Nat) (b : Nat) : Encoding.Statement (.zKill d a b) := by
  intro h v hv
  have hv : v ∈ [word 0x0F d a b 72] := hv
  have h : (decide (d ≤ 31) && decide (a ≤ 31) && decide (b ≤ 31)) = true := h
  simp at h hv
  exact fits hv (by omega) (by omega) (by omega) (by omega) (by omega)
theorem Encoding.zYield : Encoding.Statement (.zYield) := by
  intro h v hv
  have hv : v ∈ [word 0x0F 0 0 0 80] := hv
  have h : (true) = true := h
  simp at hv
  exact fits hv (by omega) (by omega) (by omega) (by omega) (by omega)
theorem Encoding.zWsopen (d : Nat) (a : Nat) : Encoding.Statement (.zWsopen d a) := by
  intro h v hv
  have hv : v ∈ [word 0x0F d a 0 88] := hv
  have h : (decide (d ≤ 31) && decide (a ≤ 31)) = true := h
  simp at h hv
  exact fits hv (by omega) (by omega) (by omega) (by omega) (by omega)
theorem Encoding.zWsclose (d : Nat) (a : Nat) : Encoding.Statement (.zWsclose d a) := by
  intro h v hv
  have hv : v ∈ [word 0x0F d a 0 96] := hv
  have h : (decide (d ≤ 31) && decide (a ≤ 31)) = true := h
  simp at h hv
  exact fits hv (by omega) (by omega) (by omega) (by omega) (by omega)
theorem Encoding.vAdd (d : Nat) (a : Nat) (b : Nat) (km : Nat) (sat : Bool) : Encoding.Statement (.vAdd d a b km sat)
    := by
  intro h v hv
  have hv : v ∈ [word (0x10 + sat.toNat) d a b (8 * km + 0)] := hv
  have h : (decide (d ≤ 63) && decide (a ≤ 63) && decide (b ≤ 63) && decide (km ≤ 23)) = true := h
  simp at h hv
  have := Bool.toNat_le sat
  exact fits hv (by omega) (by omega) (by omega) (by omega) (by omega)
theorem Encoding.vSub (d : Nat) (a : Nat) (b : Nat) (km : Nat) (sat : Bool) : Encoding.Statement (.vSub d a b km sat)
    := by
  intro h v hv
  have hv : v ∈ [word (0x10 + sat.toNat) d a b (8 * km + 1)] := hv
  have h : (decide (d ≤ 63) && decide (a ≤ 63) && decide (b ≤ 63) && decide (km ≤ 23)) = true := h
  simp at h hv
  have := Bool.toNat_le sat
  exact fits hv (by omega) (by omega) (by omega) (by omega) (by omega)
theorem Encoding.vMul (d : Nat) (a : Nat) (b : Nat) (km : Nat) (sat : Bool) : Encoding.Statement (.vMul d a b km sat)
    := by
  intro h v hv
  have hv : v ∈ [word (0x10 + sat.toNat) d a b (8 * km + 2)] := hv
  have h : (decide (d ≤ 63) && decide (a ≤ 63) && decide (b ≤ 63) && decide (km ≤ 23)) = true := h
  simp at h hv
  have := Bool.toNat_le sat
  exact fits hv (by omega) (by omega) (by omega) (by omega) (by omega)
theorem Encoding.vFma (d : Nat) (a : Nat) (b : Nat) (km : Nat) : Encoding.Statement (.vFma d a b km) := by
  intro h v hv
  have hv : v ∈ [word 0x10 d a b (8 * km + 3)] := hv
  have h : (decide (d ≤ 63) && decide (a ≤ 63) && decide (b ≤ 63) && decide (km ≤ 23)) = true := h
  simp at h hv
  exact fits hv (by omega) (by omega) (by omega) (by omega) (by omega)
theorem Encoding.vFms (d : Nat) (a : Nat) (b : Nat) (km : Nat) : Encoding.Statement (.vFms d a b km) := by
  intro h v hv
  have hv : v ∈ [word 0x10 d a b (8 * km + 4)] := hv
  have h : (decide (d ≤ 63) && decide (a ≤ 63) && decide (b ≤ 63) && decide (km ≤ 23)) = true := h
  simp at h hv
  exact fits hv (by omega) (by omega) (by omega) (by omega) (by omega)
theorem Encoding.vDiv (d : Nat) (a : Nat) (b : Nat) (km : Nat) : Encoding.Statement (.vDiv d a b km) := by
  intro h v hv
  have hv : v ∈ [word 0x10 d a b (8 * km + 5)] := hv
  have h : (decide (d ≤ 63) && decide (a ≤ 63) && decide (b ≤ 63) && decide (km ≤ 23)) = true := h
  simp at h hv
  exact fits hv (by omega) (by omega) (by omega) (by omega) (by omega)
theorem Encoding.vMin (d : Nat) (a : Nat) (b : Nat) (km : Nat) : Encoding.Statement (.vMin d a b km) := by
  intro h v hv
  have hv : v ∈ [word 0x10 d a b (8 * km + 6)] := hv
  have h : (decide (d ≤ 63) && decide (a ≤ 63) && decide (b ≤ 63) && decide (km ≤ 23)) = true := h
  simp at h hv
  exact fits hv (by omega) (by omega) (by omega) (by omega) (by omega)
theorem Encoding.vMax (d : Nat) (a : Nat) (b : Nat) (km : Nat) : Encoding.Statement (.vMax d a b km) := by
  intro h v hv
  have hv : v ∈ [word 0x10 d a b (8 * km + 7)] := hv
  have h : (decide (d ≤ 63) && decide (a ≤ 63) && decide (b ≤ 63) && decide (km ≤ 23)) = true := h
  simp at h hv
  exact fits hv (by omega) (by omega) (by omega) (by omega) (by omega)
theorem Encoding.vAnd (d : Nat) (a : Nat) (b : Nat) (km : Nat) : Encoding.Statement (.vAnd d a b km) := by
  intro h v hv
  have hv : v ∈ [word 0x12 d a b (8 * km + 0)] := hv
  have h : (decide (d ≤ 63) && decide (a ≤ 63) && decide (b ≤ 63) && decide (km ≤ 23)) = true := h
  simp at h hv
  exact fits hv (by omega) (by omega) (by omega) (by omega) (by omega)
theorem Encoding.vOr (d : Nat) (a : Nat) (b : Nat) (km : Nat) : Encoding.Statement (.vOr d a b km) := by
  intro h v hv
  have hv : v ∈ [word 0x12 d a b (8 * km + 1)] := hv
  have h : (decide (d ≤ 63) && decide (a ≤ 63) && decide (b ≤ 63) && decide (km ≤ 23)) = true := h
  simp at h hv
  exact fits hv (by omega) (by omega) (by omega) (by omega) (by omega)
theorem Encoding.vXor (d : Nat) (a : Nat) (b : Nat) (km : Nat) : Encoding.Statement (.vXor d a b km) := by
  intro h v hv
  have hv : v ∈ [word 0x12 d a b (8 * km + 2)] := hv
  have h : (decide (d ≤ 63) && decide (a ≤ 63) && decide (b ≤ 63) && decide (km ≤ 23)) = true := h
  simp at h hv
  exact fits hv (by omega) (by omega) (by omega) (by omega) (by omega)
theorem Encoding.vShl (d : Nat) (a : Nat) (b : Nat) (km : Nat) : Encoding.Statement (.vShl d a b km) := by
  intro h v hv
  have hv : v ∈ [word 0x12 d a b (8 * km + 3)] := hv
  have h : (decide (d ≤ 63) && decide (a ≤ 63) && decide (b ≤ 63) && decide (km ≤ 23)) = true := h
  simp at h hv
  exact fits hv (by omega) (by omega) (by omega) (by omega) (by omega)
theorem Encoding.vShr (d : Nat) (a : Nat) (b : Nat) (km : Nat) : Encoding.Statement (.vShr d a b km) := by
  intro h v hv
  have hv : v ∈ [word 0x12 d a b (8 * km + 4)] := hv
  have h : (decide (d ≤ 63) && decide (a ≤ 63) && decide (b ≤ 63) && decide (km ≤ 23)) = true := h
  simp at h hv
  exact fits hv (by omega) (by omega) (by omega) (by omega) (by omega)
theorem Encoding.vSar (d : Nat) (a : Nat) (b : Nat) (km : Nat) : Encoding.Statement (.vSar d a b km) := by
  intro h v hv
  have hv : v ∈ [word 0x12 d a b (8 * km + 5)] := hv
  have h : (decide (d ≤ 63) && decide (a ≤ 63) && decide (b ≤ 63) && decide (km ≤ 23)) = true := h
  simp at h hv
  exact fits hv (by omega) (by omega) (by omega) (by omega) (by omega)
theorem Encoding.vSel (d : Nat) (a : Nat) (b : Nat) (km : Nat) : Encoding.Statement (.vSel d a b km) := by
  intro h v hv
  have hv : v ∈ [word 0x12 d a b (8 * km + 6)] := hv
  have h : (decide (d ≤ 63) && decide (a ≤ 63) && decide (b ≤ 63) && decide (km ≤ 23)) = true := h
  simp at h hv
  exact fits hv (by omega) (by omega) (by omega) (by omega) (by omega)
theorem Encoding.vSlide (d : Nat) (a : Nat) (b : Nat) (km : Nat) : Encoding.Statement (.vSlide d a b km) := by
  intro h v hv
  have hv : v ∈ [word 0x12 d a b (8 * km + 7)] := hv
  have h : (decide (d ≤ 63) && decide (a ≤ 63) && decide (b ≤ 31) && decide (km ≤ 23)) = true := h
  simp at h hv
  exact fits hv (by omega) (by omega) (by omega) (by omega) (by omega)
theorem Encoding.vPerm (d : Nat) (a : Nat) (b : Nat) (km : Nat) : Encoding.Statement (.vPerm d a b km) := by
  intro h v hv
  have hv : v ∈ [word 0x13 d a b (8 * km)] := hv
  have h : (decide (d ≤ 63) && decide (a ≤ 63) && decide (b ≤ 63) && decide (km ≤ 23)) = true := h
  simp at h hv
  exact fits hv (by omega) (by omega) (by omega) (by omega) (by omega)
theorem Encoding.vComp (d : Nat) (a : Nat) (km : Nat) : Encoding.Statement (.vComp d a km) := by
  intro h v hv
  have hv : v ∈ [word 0x13 d a 0 (8 * km + 1)] := hv
  have h : (decide (d ≤ 63) && decide (a ≤ 63) && decide (km ≤ 23)) = true := h
  simp at h hv
  exact fits hv (by omega) (by omega) (by omega) (by omega) (by omega)
theorem Encoding.vExpd (d : Nat) (a : Nat) (km : Nat) : Encoding.Statement (.vExpd d a km) := by
  intro h v hv
  have hv : v ∈ [word 0x13 d a 0 (8 * km + 2)] := hv
  have h : (decide (d ≤ 63) && decide (a ≤ 63) && decide (km ≤ 23)) = true := h
  simp at h hv
  exact fits hv (by omega) (by omega) (by omega) (by omega) (by omega)
theorem Encoding.vRev (d : Nat) (a : Nat) (km : Nat) : Encoding.Statement (.vRev d a km) := by
  intro h v hv
  have hv : v ∈ [word 0x13 d a 0 (8 * km + 3)] := hv
  have h : (decide (d ≤ 63) && decide (a ≤ 63) && decide (km ≤ 23)) = true := h
  simp at h hv
  exact fits hv (by omega) (by omega) (by omega) (by omega) (by omega)
theorem Encoding.vIota (d : Nat) (km : Nat) : Encoding.Statement (.vIota d km) := by
  intro h v hv
  have hv : v ∈ [word 0x13 d 0 0 (8 * km + 4)] := hv
  have h : (decide (d ≤ 63) && decide (km ≤ 23)) = true := h
  simp at h hv
  exact fits hv (by omega) (by omega) (by omega) (by omega) (by omega)
theorem Encoding.vMvx (d : Nat) (a : Nat) (b : Nat) : Encoding.Statement (.vMvx d a b) := by
  intro h v hv
  have hv : v ∈ [word 0x13 d a b 5] := hv
  have h : (decide (d ≤ 31) && decide (b ≤ 31) && decide (a ≤ 63)) = true := h
  simp at h hv
  exact fits hv (by omega) (by omega) (by omega) (by omega) (by omega)
theorem Encoding.vTr (d : Nat) (a : Nat) (b : Nat) (km : Nat) : Encoding.Statement (.vTr d a b km) := by
  intro h v hv
  have hv : v ∈ [word 0x13 d a b (8 * km + 6)] := hv
  have h : (decide (d ≤ 63) && decide (a ≤ 7) && decide (b ≤ 31) && decide (km ≤ 23)) = true := h
  simp at h hv
  exact fits hv (by omega) (by omega) (by omega) (by omega) (by omega)
theorem Encoding.vTc (d : Nat) (a : Nat) (b : Nat) (km : Nat) : Encoding.Statement (.vTc d a b km) := by
  intro h v hv
  have hv : v ∈ [word 0x13 d a b (8 * km + 7)] := hv
  have h : (decide (d ≤ 63) && decide (a ≤ 7) && decide (b ≤ 31) && decide (km ≤ 23)) = true := h
  simp at h hv
  exact fits hv (by omega) (by omega) (by omega) (by omega) (by omega)
theorem Encoding.vCmp (d : Nat) (a : Nat) (b : Nat) (km : Nat) (cond : VCond) : Encoding.Statement (.vCmp d a b km
    cond) := by
  intro h v hv
  have hv : v ∈ [word 0x14 d a b (8 * km + cond.code)] := hv
  have h : (maskDst d && decide (a ≤ 63) && decide (b ≤ 63) && decide (km ≤ 23)) = true := h
  simp [maskDst] at h hv
  have := vcond_code_le cond
  exact fits hv (by omega) (by omega) (by omega) (by omega) (by omega)
theorem Encoding.vAbs (d : Nat) (a : Nat) (km : Nat) : Encoding.Statement (.vAbs d a km) := by
  intro h v hv
  have hv : v ∈ [word 0x15 d a 0 (8 * km)] := hv
  have h : (decide (d ≤ 63) && decide (a ≤ 63) && decide (km ≤ 23)) = true := h
  simp at h hv
  exact fits hv (by omega) (by omega) (by omega) (by omega) (by omega)
theorem Encoding.vNeg (d : Nat) (a : Nat) (km : Nat) : Encoding.Statement (.vNeg d a km) := by
  intro h v hv
  have hv : v ∈ [word 0x15 d a 1 (8 * km)] := hv
  have h : (decide (d ≤ 63) && decide (a ≤ 63) && decide (km ≤ 23)) = true := h
  simp at h hv
  exact fits hv (by omega) (by omega) (by omega) (by omega) (by omega)
theorem Encoding.vNot (d : Nat) (a : Nat) (km : Nat) : Encoding.Statement (.vNot d a km) := by
  intro h v hv
  have hv : v ∈ [word 0x15 d a 2 (8 * km)] := hv
  have h : (decide (d ≤ 63) && decide (a ≤ 63) && decide (km ≤ 23)) = true := h
  simp at h hv
  exact fits hv (by omega) (by omega) (by omega) (by omega) (by omega)
theorem Encoding.vSqrt (d : Nat) (a : Nat) (km : Nat) : Encoding.Statement (.vSqrt d a km) := by
  intro h v hv
  have hv : v ∈ [word 0x15 d a 3 (8 * km)] := hv
  have h : (decide (d ≤ 63) && decide (a ≤ 63) && decide (km ≤ 23)) = true := h
  simp at h hv
  exact fits hv (by omega) (by omega) (by omega) (by omega) (by omega)
theorem Encoding.vExp2 (d : Nat) (a : Nat) (km : Nat) : Encoding.Statement (.vExp2 d a km) := by
  intro h v hv
  have hv : v ∈ [word 0x15 d a 4 (8 * km)] := hv
  have h : (decide (d ≤ 63) && decide (a ≤ 63) && decide (km ≤ 23)) = true := h
  simp at h hv
  exact fits hv (by omega) (by omega) (by omega) (by omega) (by omega)
theorem Encoding.vLog2 (d : Nat) (a : Nat) (km : Nat) : Encoding.Statement (.vLog2 d a km) := by
  intro h v hv
  have hv : v ∈ [word 0x15 d a 5 (8 * km)] := hv
  have h : (decide (d ≤ 63) && decide (a ≤ 63) && decide (km ≤ 23)) = true := h
  simp at h hv
  exact fits hv (by omega) (by omega) (by omega) (by omega) (by omega)
theorem Encoding.vCvt (d : Nat) (a : Nat) (km : Nat) (md : Tag) : Encoding.Statement (.vCvt d a km md) := by
  intro h v hv
  have hv : v ∈ [word 0x15 d a 6 (8 * km + md.code)] := hv
  have h : (decide (d ≤ 63) && decide (a ≤ 63) && decide (km ≤ 23) && decide (md ≠ .pk)) = true := h
  simp at h hv
  have := tag_code_le md
  exact fits hv (by omega) (by omega) (by omega) (by omega) (by omega)
theorem Encoding.vTag (d : Nat) (a : Nat) (km : Nat) (md : Tag) : Encoding.Statement (.vTag d a km md) := by
  intro h v hv
  have hv : v ∈ [word 0x15 d a 7 (8 * km + md.code)] := hv
  have h : (decide (d ≤ 63) && decide (a ≤ 63) && decide (km ≤ 23)) = true := h
  simp at h hv
  have := tag_code_le md
  exact fits hv (by omega) (by omega) (by omega) (by omega) (by omega)
theorem Encoding.vMov (d : Nat) (a : Nat) (km : Nat) : Encoding.Statement (.vMov d a km) := by
  intro h v hv
  have hv : v ∈ [word 0x15 d a 8 (8 * km)] := hv
  have h : (decide (d ≤ 63) && decide (a ≤ 63) && decide (km ≤ 23)) = true := h
  simp at h hv
  exact fits hv (by omega) (by omega) (by omega) (by omega) (by omega)
theorem Encoding.vSplat (d : Nat) (a : Nat) (km : Nat) (md : Tag) : Encoding.Statement (.vSplat d a km md) := by
  intro h v hv
  have hv : v ∈ [word 0x15 d a 9 (8 * km + md.code)] := hv
  have h : (decide (d ≤ 63) && decide (a ≤ 31) && decide (km ≤ 23) && decide (md ≠ .pk)) = true := h
  simp at h hv
  have := tag_code_le md
  exact fits hv (by omega) (by omega) (by omega) (by omega) (by omega)
theorem Encoding.vrSum (d : Nat) (a : Nat) (km : Nat) : Encoding.Statement (.vrSum d a km) := by
  intro h v hv
  have hv : v ∈ [word 0x16 d a 0 (8 * km + 0)] := hv
  have h : (decide (d ≤ 63) && decide (a ≤ 63) && decide (km ≤ 23)) = true := h
  simp at h hv
  exact fits hv (by omega) (by omega) (by omega) (by omega) (by omega)
theorem Encoding.vrMax (d : Nat) (a : Nat) (km : Nat) : Encoding.Statement (.vrMax d a km) := by
  intro h v hv
  have hv : v ∈ [word 0x16 d a 0 (8 * km + 1)] := hv
  have h : (decide (d ≤ 63) && decide (a ≤ 63) && decide (km ≤ 23)) = true := h
  simp at h hv
  exact fits hv (by omega) (by omega) (by omega) (by omega) (by omega)
theorem Encoding.vrMin (d : Nat) (a : Nat) (km : Nat) : Encoding.Statement (.vrMin d a km) := by
  intro h v hv
  have hv : v ∈ [word 0x16 d a 0 (8 * km + 2)] := hv
  have h : (decide (d ≤ 63) && decide (a ≤ 63) && decide (km ≤ 23)) = true := h
  simp at h hv
  exact fits hv (by omega) (by omega) (by omega) (by omega) (by omega)
theorem Encoding.vrAnd (d : Nat) (a : Nat) (km : Nat) : Encoding.Statement (.vrAnd d a km) := by
  intro h v hv
  have hv : v ∈ [word 0x16 d a 0 (8 * km + 3)] := hv
  have h : (decide (d ≤ 63) && decide (a ≤ 63) && decide (km ≤ 23)) = true := h
  simp at h hv
  exact fits hv (by omega) (by omega) (by omega) (by omega) (by omega)
theorem Encoding.vrOr (d : Nat) (a : Nat) (km : Nat) : Encoding.Statement (.vrOr d a km) := by
  intro h v hv
  have hv : v ∈ [word 0x16 d a 0 (8 * km + 4)] := hv
  have h : (decide (d ≤ 63) && decide (a ≤ 63) && decide (km ≤ 23)) = true := h
  simp at h hv
  exact fits hv (by omega) (by omega) (by omega) (by omega) (by omega)
theorem Encoding.kAnd (d : Nat) (a : Nat) (b : Nat) : Encoding.Statement (.kAnd d a b) := by
  intro h v hv
  have hv : v ∈ [word 0x17 d a b 0] := hv
  have h : (maskDst d && decide (a ≤ 23) && decide (b ≤ 23)) = true := h
  simp [maskDst] at h hv
  exact fits hv (by omega) (by omega) (by omega) (by omega) (by omega)
theorem Encoding.kOr (d : Nat) (a : Nat) (b : Nat) : Encoding.Statement (.kOr d a b) := by
  intro h v hv
  have hv : v ∈ [word 0x17 d a b 8] := hv
  have h : (maskDst d && decide (a ≤ 23) && decide (b ≤ 23)) = true := h
  simp [maskDst] at h hv
  exact fits hv (by omega) (by omega) (by omega) (by omega) (by omega)
theorem Encoding.kXor (d : Nat) (a : Nat) (b : Nat) : Encoding.Statement (.kXor d a b) := by
  intro h v hv
  have hv : v ∈ [word 0x17 d a b 16] := hv
  have h : (maskDst d && decide (a ≤ 23) && decide (b ≤ 23)) = true := h
  simp [maskDst] at h hv
  exact fits hv (by omega) (by omega) (by omega) (by omega) (by omega)
theorem Encoding.kAndn (d : Nat) (a : Nat) (b : Nat) : Encoding.Statement (.kAndn d a b) := by
  intro h v hv
  have hv : v ∈ [word 0x17 d a b 24] := hv
  have h : (maskDst d && decide (a ≤ 23) && decide (b ≤ 23)) = true := h
  simp [maskDst] at h hv
  exact fits hv (by omega) (by omega) (by omega) (by omega) (by omega)
theorem Encoding.kNot (d : Nat) (a : Nat) : Encoding.Statement (.kNot d a) := by
  intro h v hv
  have hv : v ∈ [word 0x17 d a 0 32] := hv
  have h : (maskDst d && decide (a ≤ 23)) = true := h
  simp [maskDst] at h hv
  exact fits hv (by omega) (by omega) (by omega) (by omega) (by omega)
theorem Encoding.kMov (d : Nat) (a : Nat) : Encoding.Statement (.kMov d a) := by
  intro h v hv
  have hv : v ∈ [word 0x17 d a 0 40] := hv
  have h : (maskDst d && decide (a ≤ 23)) = true := h
  simp [maskDst] at h hv
  exact fits hv (by omega) (by omega) (by omega) (by omega) (by omega)
theorem Encoding.kWhile (d : Nat) (a : Nat) (b : Nat) : Encoding.Statement (.kWhile d a b) := by
  intro h v hv
  have hv : v ∈ [word 0x17 d a b 48] := hv
  have h : (maskDst d && decide (a ≤ 31) && decide (b ≤ 31)) = true := h
  simp [maskDst] at h hv
  exact fits hv (by omega) (by omega) (by omega) (by omega) (by omega)
theorem Encoding.kBrka (d : Nat) (a : Nat) : Encoding.Statement (.kBrka d a) := by
  intro h v hv
  have hv : v ∈ [word 0x17 d a 0 56] := hv
  have h : (maskDst d && decide (a ≤ 23)) = true := h
  simp [maskDst] at h hv
  exact fits hv (by omega) (by omega) (by omega) (by omega) (by omega)
theorem Encoding.kBrkb (d : Nat) (a : Nat) : Encoding.Statement (.kBrkb d a) := by
  intro h v hv
  have hv : v ∈ [word 0x17 d a 0 64] := hv
  have h : (maskDst d && decide (a ≤ 23)) = true := h
  simp [maskDst] at h hv
  exact fits hv (by omega) (by omega) (by omega) (by omega) (by omega)
theorem Encoding.kCnt (d : Nat) (a : Nat) : Encoding.Statement (.kCnt d a) := by
  intro h v hv
  have hv : v ∈ [word 0x17 d a 0 72] := hv
  have h : (decide (d ≤ 31) && decide (a ≤ 23)) = true := h
  simp at h hv
  exact fits hv (by omega) (by omega) (by omega) (by omega) (by omega)
theorem Encoding.kFirst (d : Nat) (a : Nat) : Encoding.Statement (.kFirst d a) := by
  intro h v hv
  have hv : v ∈ [word 0x17 d a 0 80] := hv
  have h : (decide (d ≤ 31) && decide (a ≤ 23)) = true := h
  simp at h hv
  exact fits hv (by omega) (by omega) (by omega) (by omega) (by omega)
theorem Encoding.vldUn (d : Nat) (a : Nat) (km : Nat) (fmt : Fmt) : Encoding.Statement (.vldUn d a km fmt) := by
  intro h v hv
  have hv : v ∈ [word (0x18 + fmt.code / 8) d a 0 (8 * km + fmt.code % 8)] := hv
  have h : (decide (d ≤ 63) && decide (a ≤ 31) && decide (km ≤ 23)) = true := h
  simp at h hv
  have := fmt_code_le fmt
  exact fits hv (by omega) (by omega) (by omega) (by omega) (by omega)
theorem Encoding.vldSd (d : Nat) (a : Nat) (b : Nat) (km : Nat) (fmt : Fmt) : Encoding.Statement (.vldSd d a b km
    fmt) := by
  intro h v hv
  have hv : v ∈ [word (0x1A + fmt.code / 8) d a b (8 * km + fmt.code % 8)] := hv
  have h : (decide (d ≤ 63) && decide (a ≤ 31) && decide (b ≤ 31) && decide (km ≤ 23) && !fmt.packed) = true := h
  simp at h hv
  have := fmt_code_le fmt
  exact fits hv (by omega) (by omega) (by omega) (by omega) (by omega)
theorem Encoding.vldX (d : Nat) (a : Nat) (b : Nat) (km : Nat) (fmt : Fmt) : Encoding.Statement (.vldX d a b km fmt)
    := by
  intro h v hv
  have hv : v ∈ [word (0x1C + fmt.code / 8) d a b (8 * km + fmt.code % 8)] := hv
  have h : (decide (d ≤ 63) && decide (b ≤ 63) && decide (a ≤ 31) && decide (km ≤ 23) && !fmt.packed) = true := h
  simp at h hv
  have := fmt_code_le fmt
  exact fits hv (by omega) (by omega) (by omega) (by omega) (by omega)
theorem Encoding.vldSm (d : Nat) (a : Nat) (km : Nat) : Encoding.Statement (.vldSm d a km) := by
  intro h v hv
  have hv : v ∈ [word 0x1E d a 0 (8 * km)] := hv
  have h : (decide (d ≤ 63) && decide (a ≤ 15) && decide (km ≤ 23)) = true := h
  simp at h hv
  exact fits hv (by omega) (by omega) (by omega) (by omega) (by omega)
theorem Encoding.qldUn (d : Nat) (a : Nat) (km : Nat) : Encoding.Statement (.qldUn d a km) := by
  intro h v hv
  have hv : v ∈ [word 0x1F d a 0 (8 * km)] := hv
  have h : (decide (d ≤ 15) && decide (a ≤ 31) && decide (km ≤ 23)) = true := h
  simp at h hv
  exact fits hv (by omega) (by omega) (by omega) (by omega) (by omega)
theorem Encoding.qldSd (d : Nat) (a : Nat) (b : Nat) (km : Nat) : Encoding.Statement (.qldSd d a b km) := by
  intro h v hv
  have hv : v ∈ [word 0x1F d a b (8 * km + 1)] := hv
  have h : (decide (d ≤ 15) && decide (a ≤ 31) && decide (b ≤ 31) && decide (km ≤ 23)) = true := h
  simp at h hv
  exact fits hv (by omega) (by omega) (by omega) (by omega) (by omega)
theorem Encoding.vstUn (d : Nat) (a : Nat) (km : Nat) (fmt : Fmt) : Encoding.Statement (.vstUn d a km fmt) := by
  intro h v hv
  have hv : v ∈ [word (0x20 + fmt.code / 8) d a 0 (8 * km + fmt.code % 8)] := hv
  have h : (decide (d ≤ 63) && decide (a ≤ 31) && decide (km ≤ 23)) = true := h
  simp at h hv
  have := fmt_code_le fmt
  exact fits hv (by omega) (by omega) (by omega) (by omega) (by omega)
theorem Encoding.vstSd (d : Nat) (a : Nat) (b : Nat) (km : Nat) (fmt : Fmt) : Encoding.Statement (.vstSd d a b km
    fmt) := by
  intro h v hv
  have hv : v ∈ [word (0x22 + fmt.code / 8) d a b (8 * km + fmt.code % 8)] := hv
  have h : (decide (d ≤ 63) && decide (a ≤ 31) && decide (b ≤ 31) && decide (km ≤ 23) && !fmt.packed) = true := h
  simp at h hv
  have := fmt_code_le fmt
  exact fits hv (by omega) (by omega) (by omega) (by omega) (by omega)
theorem Encoding.vstX (d : Nat) (a : Nat) (b : Nat) (km : Nat) (fmt : Fmt) : Encoding.Statement (.vstX d a b km fmt)
    := by
  intro h v hv
  have hv : v ∈ [word (0x24 + fmt.code / 8) d a b (8 * km + fmt.code % 8)] := hv
  have h : (decide (d ≤ 63) && decide (b ≤ 63) && decide (a ≤ 31) && decide (km ≤ 23) && !fmt.packed) = true := h
  simp at h hv
  have := fmt_code_le fmt
  exact fits hv (by omega) (by omega) (by omega) (by omega) (by omega)
theorem Encoding.vstXa (d : Nat) (a : Nat) (b : Nat) (km : Nat) (fmt : Fmt) : Encoding.Statement (.vstXa d a b km
    fmt) := by
  intro h v hv
  have hv : v ∈ [word 0x26 d a b (8 * km + fmt.code)] := hv
  have h : (decide (d ≤ 63) && decide (b ≤ 63) && decide (a ≤ 31) && decide (km ≤ 23) && fmt.addable) = true := h
  simp at h hv
  have := fmt_code_le fmt
  exact fits hv (by omega) (by omega) (by omega) (by omega) (by omega)
theorem Encoding.vstSm (d : Nat) (a : Nat) (km : Nat) : Encoding.Statement (.vstSm d a km) := by
  intro h v hv
  have hv : v ∈ [word 0x27 d a 0 (8 * km)] := hv
  have h : (decide (d ≤ 63) && decide (a ≤ 15) && decide (km ≤ 23)) = true := h
  simp at h hv
  exact fits hv (by omega) (by omega) (by omega) (by omega) (by omega)
theorem Encoding.vstQun (d : Nat) (a : Nat) (km : Nat) : Encoding.Statement (.vstQun d a km) := by
  intro h v hv
  have hv : v ∈ [word 0x28 d a 0 (8 * km)] := hv
  have h : (decide (d ≤ 15) && decide (a ≤ 31) && decide (km ≤ 23)) = true := h
  simp at h hv
  exact fits hv (by omega) (by omega) (by omega) (by omega) (by omega)
theorem Encoding.vstQsd (d : Nat) (a : Nat) (b : Nat) (km : Nat) : Encoding.Statement (.vstQsd d a b km) := by
  intro h v hv
  have hv : v ∈ [word 0x28 d a b (8 * km + 1)] := hv
  have h : (decide (d ≤ 15) && decide (a ≤ 31) && decide (b ≤ 31) && decide (km ≤ 23)) = true := h
  simp at h hv
  exact fits hv (by omega) (by omega) (by omega) (by omega) (by omega)
theorem Encoding.vamAdd (d : Nat) (a : Nat) (b : Nat) (km : Nat) : Encoding.Statement (.vamAdd d a b km) := by
  intro h v hv
  have hv : v ∈ [word 0x29 d a b (8 * km + 0)] := hv
  have h : (decide (d ≤ 63) && decide (b ≤ 63) && decide (a ≤ 31) && decide (km ≤ 23)) = true := h
  simp at h hv
  exact fits hv (by omega) (by omega) (by omega) (by omega) (by omega)
theorem Encoding.vamMin (d : Nat) (a : Nat) (b : Nat) (km : Nat) : Encoding.Statement (.vamMin d a b km) := by
  intro h v hv
  have hv : v ∈ [word 0x29 d a b (8 * km + 1)] := hv
  have h : (decide (d ≤ 63) && decide (b ≤ 63) && decide (a ≤ 31) && decide (km ≤ 23)) = true := h
  simp at h hv
  exact fits hv (by omega) (by omega) (by omega) (by omega) (by omega)
theorem Encoding.vamMax (d : Nat) (a : Nat) (b : Nat) (km : Nat) : Encoding.Statement (.vamMax d a b km) := by
  intro h v hv
  have hv : v ∈ [word 0x29 d a b (8 * km + 2)] := hv
  have h : (decide (d ≤ 63) && decide (b ≤ 63) && decide (a ≤ 31) && decide (km ≤ 23)) = true := h
  simp at h hv
  exact fits hv (by omega) (by omega) (by omega) (by omega) (by omega)
theorem Encoding.vamAnd (d : Nat) (a : Nat) (b : Nat) (km : Nat) : Encoding.Statement (.vamAnd d a b km) := by
  intro h v hv
  have hv : v ∈ [word 0x29 d a b (8 * km + 3)] := hv
  have h : (decide (d ≤ 63) && decide (b ≤ 63) && decide (a ≤ 31) && decide (km ≤ 23)) = true := h
  simp at h hv
  exact fits hv (by omega) (by omega) (by omega) (by omega) (by omega)
theorem Encoding.vamOr (d : Nat) (a : Nat) (b : Nat) (km : Nat) : Encoding.Statement (.vamOr d a b km) := by
  intro h v hv
  have hv : v ∈ [word 0x29 d a b (8 * km + 4)] := hv
  have h : (decide (d ≤ 63) && decide (b ≤ 63) && decide (a ≤ 31) && decide (km ≤ 23)) = true := h
  simp at h hv
  exact fits hv (by omega) (by omega) (by omega) (by omega) (by omega)
theorem Encoding.vamXor (d : Nat) (a : Nat) (b : Nat) (km : Nat) : Encoding.Statement (.vamXor d a b km) := by
  intro h v hv
  have hv : v ∈ [word 0x29 d a b (8 * km + 5)] := hv
  have h : (decide (d ≤ 63) && decide (b ≤ 63) && decide (a ≤ 31) && decide (km ≤ 23)) = true := h
  simp at h hv
  exact fits hv (by omega) (by omega) (by omega) (by omega) (by omega)
theorem Encoding.vamSwap (d : Nat) (a : Nat) (b : Nat) (km : Nat) : Encoding.Statement (.vamSwap d a b km) := by
  intro h v hv
  have hv : v ∈ [word 0x29 d a b (8 * km + 6)] := hv
  have h : (decide (d ≤ 63) && decide (b ≤ 63) && decide (a ≤ 31) && decide (km ≤ 23)) = true := h
  simp at h hv
  exact fits hv (by omega) (by omega) (by omega) (by omega) (by omega)
theorem Encoding.sBind (d : Nat) (a : Nat) : Encoding.Statement (.sBind d a) := by
  intro h v hv
  have hv : v ∈ [word 0x2A d a 0 0] := hv
  have h : (decide (d ≤ 15) && decide (a ≤ 31)) = true := h
  simp at h hv
  exact fits hv (by omega) (by omega) (by omega) (by omega) (by omega)
theorem Encoding.sRel (d : Nat) : Encoding.Statement (.sRel d) := by
  intro h v hv
  have hv : v ∈ [word 0x2A d 0 0 32] := hv
  have h : (decide (d ≤ 15)) = true := h
  simp at h hv
  exact fits hv (by omega) (by omega) (by omega) (by omega) (by omega)
theorem Encoding.sSkip (d : Nat) (a : Nat) : Encoding.Statement (.sSkip d a) := by
  intro h v hv
  have hv : v ∈ [word 0x2A d a 0 64] := hv
  have h : (decide (d ≤ 15) && decide (a ≤ 31)) = true := h
  simp at h hv
  exact fits hv (by omega) (by omega) (by omega) (by omega) (by omega)
theorem Encoding.sPos (d : Nat) (a : Nat) : Encoding.Statement (.sPos d a) := by
  intro h v hv
  have hv : v ∈ [word 0x2A d a 0 96] := hv
  have h : (decide (d ≤ 31) && decide (a ≤ 15)) = true := h
  simp at h hv
  exact fits hv (by omega) (by omega) (by omega) (by omega) (by omega)
theorem Encoding.qAdd (d : Nat) (a : Nat) (b : Nat) (c : Bool) : Encoding.Statement (.qAdd d a b c) := by
  intro h v hv
  have hv : v ∈ [word 0x2B d a b (0 + 4 * c.toNat)] := hv
  have h : (decide (d ≤ 15) && decide (a ≤ 15) && decide (b ≤ 15)) = true := h
  simp at h hv
  have := Bool.toNat_le c
  exact fits hv (by omega) (by omega) (by omega) (by omega) (by omega)
theorem Encoding.qSub (d : Nat) (a : Nat) (b : Nat) (c : Bool) : Encoding.Statement (.qSub d a b c) := by
  intro h v hv
  have hv : v ∈ [word 0x2B d a b (8 + 4 * c.toNat)] := hv
  have h : (decide (d ≤ 15) && decide (a ≤ 15) && decide (b ≤ 15)) = true := h
  simp at h hv
  have := Bool.toNat_le c
  exact fits hv (by omega) (by omega) (by omega) (by omega) (by omega)
theorem Encoding.qMul (d : Nat) (a : Nat) (b : Nat) (c : Bool) : Encoding.Statement (.qMul d a b c) := by
  intro h v hv
  have hv : v ∈ [word 0x2B d a b (16 + 4 * c.toNat)] := hv
  have h : (decide (d ≤ 15) && decide (a ≤ 15) && decide (b ≤ 15)) = true := h
  simp at h hv
  have := Bool.toNat_le c
  exact fits hv (by omega) (by omega) (by omega) (by omega) (by omega)
theorem Encoding.qDiv (d : Nat) (a : Nat) (b : Nat) (c : Bool) : Encoding.Statement (.qDiv d a b c) := by
  intro h v hv
  have hv : v ∈ [word 0x2B d a b (24 + 4 * c.toNat)] := hv
  have h : (decide (d ≤ 15) && decide (a ≤ 15) && decide (b ≤ 15)) = true := h
  simp at h hv
  have := Bool.toNat_le c
  exact fits hv (by omega) (by omega) (by omega) (by omega) (by omega)
theorem Encoding.qSqr (d : Nat) (a : Nat) (c : Bool) : Encoding.Statement (.qSqr d a c) := by
  intro h v hv
  have hv : v ∈ [word 0x2B d a 0 (32 + 4 * c.toNat)] := hv
  have h : (decide (d ≤ 15) && decide (a ≤ 15)) = true := h
  simp at h hv
  have := Bool.toNat_le c
  exact fits hv (by omega) (by omega) (by omega) (by omega) (by omega)
theorem Encoding.qSqrt (d : Nat) (a : Nat) (c : Bool) : Encoding.Statement (.qSqrt d a c) := by
  intro h v hv
  have hv : v ∈ [word 0x2B d a 0 (40 + 4 * c.toNat)] := hv
  have h : (decide (d ≤ 15) && decide (a ≤ 15)) = true := h
  simp at h hv
  have := Bool.toNat_le c
  exact fits hv (by omega) (by omega) (by omega) (by omega) (by omega)
theorem Encoding.qExp (d : Nat) (a : Nat) (c : Bool) : Encoding.Statement (.qExp d a c) := by
  intro h v hv
  have hv : v ∈ [word 0x2B d a 0 (48 + 4 * c.toNat)] := hv
  have h : (decide (d ≤ 15) && decide (a ≤ 15)) = true := h
  simp at h hv
  have := Bool.toNat_le c
  exact fits hv (by omega) (by omega) (by omega) (by omega) (by omega)
theorem Encoding.qLog (d : Nat) (a : Nat) (c : Bool) : Encoding.Statement (.qLog d a c) := by
  intro h v hv
  have hv : v ∈ [word 0x2B d a 0 (56 + 4 * c.toNat)] := hv
  have h : (decide (d ≤ 15) && decide (a ≤ 15)) = true := h
  simp at h hv
  have := Bool.toNat_le c
  exact fits hv (by omega) (by omega) (by omega) (by omega) (by omega)
theorem Encoding.qMin (d : Nat) (a : Nat) (b : Nat) (c : Bool) : Encoding.Statement (.qMin d a b c) := by
  intro h v hv
  have hv : v ∈ [word 0x2B d a b (64 + 4 * c.toNat)] := hv
  have h : (decide (d ≤ 15) && decide (a ≤ 15) && decide (b ≤ 15)) = true := h
  simp at h hv
  have := Bool.toNat_le c
  exact fits hv (by omega) (by omega) (by omega) (by omega) (by omega)
theorem Encoding.qMax (d : Nat) (a : Nat) (b : Nat) (c : Bool) : Encoding.Statement (.qMax d a b c) := by
  intro h v hv
  have hv : v ∈ [word 0x2B d a b (72 + 4 * c.toNat)] := hv
  have h : (decide (d ≤ 15) && decide (a ≤ 15) && decide (b ≤ 15)) = true := h
  simp at h hv
  have := Bool.toNat_le c
  exact fits hv (by omega) (by omega) (by omega) (by omega) (by omega)
theorem Encoding.qHull (d : Nat) (a : Nat) (b : Nat) : Encoding.Statement (.qHull d a b) := by
  intro h v hv
  have hv : v ∈ [word 0x2B d a b 80] := hv
  have h : (decide (d ≤ 15) && decide (a ≤ 15) && decide (b ≤ 15)) = true := h
  simp at h hv
  exact fits hv (by omega) (by omega) (by omega) (by omega) (by omega)
theorem Encoding.qMeet (d : Nat) (a : Nat) (b : Nat) : Encoding.Statement (.qMeet d a b) := by
  intro h v hv
  have hv : v ∈ [word 0x2B d a b 88] := hv
  have h : (decide (d ≤ 15) && decide (a ≤ 15) && decide (b ≤ 15)) = true := h
  simp at h hv
  exact fits hv (by omega) (by omega) (by omega) (by omega) (by omega)
theorem Encoding.qSplit (d : Nat) (a : Nat) : Encoding.Statement (.qSplit d a) := by
  intro h v hv
  have hv : v ∈ [word 0x2B d a 0 96] := hv
  have h : (decide (d ≤ 15) && decide (a ≤ 15) && decide (a ≠ d)) = true := h
  simp at h hv
  exact fits hv (by omega) (by omega) (by omega) (by omega) (by omega)
theorem Encoding.qCmp (d : Nat) (a : Nat) (b : Nat) (cond : QCond) : Encoding.Statement (.qCmp d a b cond) := by
  intro h v hv
  have hv : v ∈ [word 0x2B d a b (104 + cond.code)] := hv
  have h : (maskPair d && decide (a ≤ 15) && decide (b ≤ 15)) = true := h
  simp [maskPair] at h hv
  have := qcond_code_le cond
  exact fits hv (by omega) (by omega) (by omega) (by omega) (by omega)
theorem Encoding.qMk (d : Nat) (a : Nat) (b : Nat) : Encoding.Statement (.qMk d a b) := by
  intro h v hv
  have hv : v ∈ [word 0x2B d a b 112] := hv
  have h : (decide (d ≤ 15) && decide (a ≤ 63) && decide (b ≤ 63)) = true := h
  simp at h hv
  exact fits hv (by omega) (by omega) (by omega) (by omega) (by omega)
theorem Encoding.qPt (d : Nat) (a : Nat) : Encoding.Statement (.qPt d a) := by
  intro h v hv
  have hv : v ∈ [word 0x2B d a 0 120] := hv
  have h : (decide (d ≤ 15) && decide (a ≤ 63)) = true := h
  simp at h hv
  exact fits hv (by omega) (by omega) (by omega) (by omega) (by omega)
theorem Encoding.qLo (d : Nat) (a : Nat) : Encoding.Statement (.qLo d a) := by
  intro h v hv
  have hv : v ∈ [word 0x2B d a 0 128] := hv
  have h : (decide (d ≤ 63) && decide (a ≤ 15)) = true := h
  simp at h hv
  exact fits hv (by omega) (by omega) (by omega) (by omega) (by omega)
theorem Encoding.qHi (d : Nat) (a : Nat) : Encoding.Statement (.qHi d a) := by
  intro h v hv
  have hv : v ∈ [word 0x2B d a 0 136] := hv
  have h : (decide (d ≤ 63) && decide (a ≤ 15)) = true := h
  simp at h hv
  exact fits hv (by omega) (by omega) (by omega) (by omega) (by omega)
theorem Encoding.qWid (d : Nat) (a : Nat) : Encoding.Statement (.qWid d a) := by
  intro h v hv
  have hv : v ∈ [word 0x2B d a 0 144] := hv
  have h : (decide (d ≤ 63) && decide (a ≤ 15)) = true := h
  simp at h hv
  exact fits hv (by omega) (by omega) (by omega) (by omega) (by omega)
theorem Encoding.qMid (d : Nat) (a : Nat) : Encoding.Statement (.qMid d a) := by
  intro h v hv
  have hv : v ∈ [word 0x2B d a 0 152] := hv
  have h : (decide (d ≤ 63) && decide (a ≤ 15)) = true := h
  simp at h hv
  exact fits hv (by omega) (by omega) (by omega) (by omega) (by omega)
theorem Encoding.qAxpy (d : Nat) (a : Nat) (b : Nat) (w : Nat) (c : Bool) : Encoding.Statement (.qAxpy d a b w c) :=
    by
  intro h v hv
  have hv : v ∈ [word 0x2E d a b (8 * w + 4 * c.toNat)] := hv
  have h : (decide (d ≤ 15) && decide (a ≤ 15) && decide (b ≤ 15) && decide (w ≤ 31)) = true := h
  simp at h hv
  have := Bool.toNat_le c
  exact fits hv (by omega) (by omega) (by omega) (by omega) (by omega)
theorem Encoding.mCfg (a : Nat) : Encoding.Statement (.mCfg a) := by
  intro h v hv
  have hv : v ∈ [word 0x2C 0 a 0 0] := hv
  have h : (decide (a ≤ 31)) = true := h
  simp at h hv
  exact fits hv (by omega) (by omega) (by omega) (by omega) (by omega)
theorem Encoding.mZero (d : Nat) : Encoding.Statement (.mZero d) := by
  intro h v hv
  have hv : v ∈ [word 0x2C d 0 0 16] := hv
  have h : (decide (d ≤ 7)) = true := h
  simp at h hv
  exact fits hv (by omega) (by omega) (by omega) (by omega) (by omega)
theorem Encoding.mOp (d : Nat) (a : Nat) (b : Nat) (pp : Nat) : Encoding.Statement (.mOp d a b pp) := by
  intro h v hv
  have hv : v ∈ [word 0x2C d a b (32 + pp)] := hv
  have h : (decide (d ≤ 7) && decide (a ≤ 7) && decide (b ≤ 7) && decide (pp ≤ 15)) = true := h
  simp at h hv
  exact fits hv (by omega) (by omega) (by omega) (by omega) (by omega)
theorem Encoding.mOpc (d : Nat) (a : Nat) (b : Nat) (pp : Nat) : Encoding.Statement (.mOpc d a b pp) := by
  intro h v hv
  have hv : v ∈ [word 0x2C d a b (48 + pp)] := hv
  have h : (decide (d ≤ 7) && decide (a ≤ 7) && decide (b ≤ 7) && decide (pp ≤ 15)) = true := h
  simp at h hv
  exact fits hv (by omega) (by omega) (by omega) (by omega) (by omega)
theorem Encoding.mOps (d : Nat) (a : Nat) (b : Nat) (pp : Nat) : Encoding.Statement (.mOps d a b pp) := by
  intro h v hv
  have hv : v ∈ [word 0x2C d a b (64 + pp)] := hv
  have h : (decide (d ≤ 7) && decide (b ≤ 7) && decide (a ≤ 31) && decide (pp ≤ 15)) = true := h
  simp at h hv
  exact fits hv (by omega) (by omega) (by omega) (by omega) (by omega)
theorem Encoding.mPrep (a : Nat) : Encoding.Statement (.mPrep a) := by
  intro h v hv
  have hv : v ∈ [word 0x2C 0 a 0 80] := hv
  have h : (decide (a ≤ 31)) = true := h
  simp at h hv
  exact fits hv (by omega) (by omega) (by omega) (by omega) (by omega)
theorem Encoding.mSt (d : Nat) (a : Nat) : Encoding.Statement (.mSt d a) := by
  intro h v hv
  have hv : v ∈ [word 0x2C d a 0 96] := hv
  have h : (decide (d ≤ 7) && decide (a ≤ 7)) = true := h
  simp at h hv
  exact fits hv (by omega) (by omega) (by omega) (by omega) (by omega)
theorem Encoding.mLd (d : Nat) (a : Nat) : Encoding.Statement (.mLd d a) := by
  intro h v hv
  have hv : v ∈ [word 0x2C d a 0 112] := hv
  have h : (decide (d ≤ 7) && decide (a ≤ 7)) = true := h
  simp at h hv
  exact fits hv (by omega) (by omega) (by omega) (by omega) (by omega)
theorem Encoding.mInv (a : Nat) (b : Nat) : Encoding.Statement (.mInv a b) := by
  intro h v hv
  have hv : v ∈ [word 0x2C 0 a b 128] := hv
  have h : (decide (a ≤ 31) && decide (b ≤ 31)) = true := h
  simp at h hv
  exact fits hv (by omega) (by omega) (by omega) (by omega) (by omega)
theorem Encoding.eCpy (d : Nat) (a : Nat) : Encoding.Statement (.eCpy d a) := by
  intro h v hv
  have hv : v ∈ [word 0x2D d a 0 0] := hv
  have h : (decide (d ≤ 31) && decide (a ≤ 31)) = true := h
  simp at h hv
  exact fits hv (by omega) (by omega) (by omega) (by omega) (by omega)
theorem Encoding.eWsl (d : Nat) (a : Nat) : Encoding.Statement (.eWsl d a) := by
  intro h v hv
  have hv : v ∈ [word 0x2D d a 0 32] := hv
  have h : (decide (d ≤ 31) && decide (a ≤ 31)) = true := h
  simp at h hv
  exact fits hv (by omega) (by omega) (by omega) (by omega) (by omega)
theorem Encoding.ePut (d : Nat) (a : Nat) : Encoding.Statement (.ePut d a) := by
  intro h v hv
  have hv : v ∈ [word 0x2D d a 0 64] := hv
  have h : (decide (d ≤ 31) && decide (a ≤ 31)) = true := h
  simp at h hv
  exact fits hv (by omega) (by omega) (by omega) (by omega) (by omega)
theorem Encoding.eGet (d : Nat) (a : Nat) : Encoding.Statement (.eGet d a) := by
  intro h v hv
  have hv : v ∈ [word 0x2D d a 0 96] := hv
  have h : (decide (d ≤ 31) && decide (a ≤ 31)) = true := h
  simp at h hv
  exact fits hv (by omega) (by omega) (by omega) (by omega) (by omega)
theorem Encoding.eRed (d : Nat) (a : Nat) : Encoding.Statement (.eRed d a) := by
  intro h v hv
  have hv : v ∈ [word 0x2D d a 0 128] := hv
  have h : (decide (d ≤ 31) && decide (a ≤ 31)) = true := h
  simp at h hv
  exact fits hv (by omega) (by omega) (by omega) (by omega) (by omega)
theorem Encoding.eWait (d : Nat) (a : Nat) : Encoding.Statement (.eWait d a) := by
  intro h v hv
  have hv : v ∈ [word 0x2D d a 0 160] := hv
  have h : (decide (d ≤ 31) && decide (a ≤ 31)) = true := h
  simp at h hv
  exact fits hv (by omega) (by omega) (by omega) (by omega) (by omega)
theorem Encoding.hint (k : BitVec 26) : Encoding.Statement (.hint k) := by
  intro h v hv
  have hv : v ∈ [0x01 * 67108864 + k.toNat] := hv
  have h : (true) = true := h
  simp at hv
  have := k.isLt
  omega
theorem Encoding.emulate (w : Nat) : Encoding.Statement (.emulate w) := by
  intro h v hv
  have hv : v ∈ [w] := hv
  have h : (decide (0x30 * 67108864 ≤ w) && decide (w < 0x3C * 67108864)) = true := h
  simp at h hv
  omega
theorem Encoding.illegalWord (w : Nat) : Encoding.Statement (.illegalWord w) := by
  intro h v hv
  have hv : v ∈ [w] := hv
  have h : (decide (w < 4294967296)) = true := h
  simp at h hv
  omega
theorem Encoding.vsave (core : Nat) : Encoding.Statement (.vsave core) := by
  intro _ v hv; cases hv
theorem Encoding.vload (core : Nat) : Encoding.Statement (.vload core) := by
  intro _ v hv; cases hv
theorem Encoding.vclear (core : Nat) : Encoding.Statement (.vclear core) := by
  intro _ v hv; cases hv
theorem Encoding.tsave (core : Nat) : Encoding.Statement (.tsave core) := by
  intro _ v hv; cases hv
theorem Encoding.tload (core : Nat) : Encoding.Statement (.tload core) := by
  intro _ v hv; cases hv
theorem Encoding.tenable (core : Nat) : Encoding.Statement (.tenable core) := by
  intro _ v hv; cases hv
theorem Encoding.tdisable (core : Nat) : Encoding.Statement (.tdisable core) := by
  intro _ v hv; cases hv
theorem Encoding.windowCommandDone (core : Nat) : Encoding.Statement (.windowCommandDone core) := by
  intro _ v hv; cases hv
theorem Encoding.recoveryQuiet (part : Nat) : Encoding.Statement (.recoveryQuiet part) := by
  intro _ v hv; cases hv
theorem Encoding.recoverySave (part : Nat) : Encoding.Statement (.recoverySave part) := by
  intro _ v hv; cases hv
theorem Encoding.recoveryRestore (part : Nat) : Encoding.Statement (.recoveryRestore part) := by
  intro _ v hv; cases hv
theorem Encoding.recoveryCommandDone (part : Nat) : Encoding.Statement (.recoveryCommandDone part) := by
  intro _ v hv; cases hv
theorem Encoding.resourceDrained (res : Res) : Encoding.Statement (.resourceDrained res) := by
  intro _ v hv; cases hv
theorem Encoding.preemptRequest (core : Nat) (forReg : Nat) : Encoding.Statement (.preemptRequest core forReg) := by
  intro _ v hv; cases hv
theorem Encoding.placement (part : Nat) : Encoding.Statement (.placement part) := by
  intro _ v hv; cases hv
theorem Encoding.engineCommandStart (cluster : Nat) (idx : Nat) : Encoding.Statement (.engineCommandStart cluster
    idx) := by
  intro _ v hv; cases hv
theorem Encoding.engineCommandComplete (cluster : Nat) (idx : Nat) : Encoding.Statement (.engineCommandComplete
    cluster idx) := by
  intro _ v hv; cases hv
theorem Encoding.patternCompileDone (cluster : Nat) (idx : Nat) : Encoding.Statement (.patternCompileDone cluster
    idx) := by
  intro _ v hv; cases hv
theorem Encoding.invalidationAck (hub : Nat) : Encoding.Statement (.invalidationAck hub) := by
  intro _ v hv; cases hv
theorem Encoding.gangLateStart (part : Nat) (gang : Nat) (crew : Nat) : Encoding.Statement (.gangLateStart part gang
    crew) := by
  intro _ v hv; cases hv
theorem Encoding.streamTranslateAhead (core : Nat) (sr : Nat) : Encoding.Statement (.streamTranslateAhead core sr) :=
    by
  intro _ v hv; cases hv
theorem Encoding.regrantRequest (core : Nat) (lanes : Nat) (base : Nat) (forReg : Nat) : Encoding.Statement
    (.regrantRequest core lanes base forReg) := by
  intro _ v hv; cases hv
theorem Encoding.laneRegrantRaise (core : Nat) (lanes : Nat) (base : Nat) : Encoding.Statement (.laneRegrantRaise
    core lanes base) := by
  intro _ v hv; cases hv
theorem Encoding.preemptFallback (core : Nat) : Encoding.Statement (.preemptFallback core) := by
  intro _ v hv; cases hv
theorem Encoding.budgetPeriodStart : Encoding.Statement .budgetPeriodStart := by
  intro _ v hv; cases hv
theorem Encoding.gangPreempt (part : Nat) (gang : Nat) : Encoding.Statement (.gangPreempt part gang) := by
  intro _ v hv; cases hv
theorem Encoding.gangSliceStart (part : Nat) (gang : Nat) : Encoding.Statement (.gangSliceStart part gang) := by
  intro _ v hv; cases hv
theorem Encoding.gangSliceEnd (part : Nat) (gang : Nat) : Encoding.Statement (.gangSliceEnd part gang) := by
  intro _ v hv; cases hv
theorem Encoding.refreshStart (die : Nat) : Encoding.Statement (.refreshStart die) := by
  intro _ v hv; cases hv
theorem Encoding.refreshEnd (die : Nat) : Encoding.Statement (.refreshEnd die) := by
  intro _ v hv; cases hv
theorem Encoding.waitReread (core : Nat) : Encoding.Statement (.waitReread core) := by
  intro _ v hv; cases hv
theorem Encoding.tokenPopResume (core : Nat) : Encoding.Statement (.tokenPopResume core) := by
  intro _ v hv; cases hv
theorem Encoding.tokenPushResume (core : Nat) : Encoding.Statement (.tokenPushResume core) := by
  intro _ v hv; cases hv
theorem Encoding.barrierRelease (core : Nat) : Encoding.Statement (.barrierRelease core) := by
  intro _ v hv; cases hv
theorem Encoding.endComplete (core : Nat) : Encoding.Statement (.endComplete core) := by
  intro _ v hv; cases hv
theorem Encoding.dispatchResume (core : Nat) : Encoding.Statement (.dispatchResume core) := by
  intro _ v hv; cases hv
theorem Encoding.replyWrite (core : Nat) : Encoding.Statement (.replyWrite core) := by
  intro _ v hv; cases hv
theorem Encoding.eWaitDone (core : Nat) : Encoding.Statement (.eWaitDone core) := by
  intro _ v hv; cases hv
theorem Encoding.streamReadAhead (core : Nat) (sr : Nat) : Encoding.Statement (.streamReadAhead core sr) := by
  intro _ v hv; cases hv
theorem Encoding.interruptTake (hub : Nat) : Encoding.Statement (.interruptTake hub) := by
  intro _ v hv; cases hv
theorem Encoding.windowFieldWrite (core : Nat) (off : Nat) (val : BitVec 64) : Encoding.Statement (.windowFieldWrite
    core off val) := by
  intro _ v hv; cases hv
theorem Encoding.platWrite (level : Level) (part : Option Nat) (addr : Nat) (size : Nat) (val : BitVec 64) :
    Encoding.Statement (.platWrite level part addr size val) := by
  intro _ v hv; cases hv
theorem Encoding.firmwareScrub (res : Res) : Encoding.Statement (.firmwareScrub res) := by
  intro _ v hv; cases hv
theorem Encoding.budgetSnapshot (part : Nat) (regid : BitVec 64) : Encoding.Statement (.budgetSnapshot part regid) :=
    by
  intro _ v hv; cases hv
theorem Encoding.recoveryHold (part : Nat) (hold : Bool) : Encoding.Statement (.recoveryHold part hold) := by
  intro _ v hv; cases hv
theorem Encoding.deviceRegisterWrite (level : Level) (part : Option Nat) (addr : Nat) (size : Nat) (val : BitVec 64)
    : Encoding.Statement (.deviceRegisterWrite level part addr size val) := by
  intro _ v hv; cases hv
theorem Encoding.hostWrite (vf : Nat) (off : Nat) (size : Nat) (val : BitVec 64) : Encoding.Statement (.hostWrite vf
    off size val) := by
  intro _ v hv; cases hv
theorem Encoding.hostRead (vf : Nat) (off : Nat) (size : Nat) : Encoding.Statement (.hostRead vf off size) := by
  intro _ v hv; cases hv
theorem Encoding.vfFlr (vf : Nat) : Encoding.Statement (.vfFlr vf) := by
  intro _ v hv; cases hv
theorem Encoding.pfFlr : Encoding.Statement .pfFlr := by
  intro _ v hv; cases hv
theorem Encoding.packageReset : Encoding.Statement .packageReset := by
  intro _ v hv; cases hv
theorem Encoding.attestationRequest (nonce : BitVec 256) : Encoding.Statement (.attestationRequest nonce) := by
  intro _ v hv; cases hv
theorem Encoding.powerCapSet (watts : Nat) : Encoding.Statement (.powerCapSet watts) := by
  intro _ v hv; cases hv
theorem Encoding.flitResend (port : Nat) : Encoding.Statement (.flitResend port) := by
  intro _ v hv; cases hv
theorem Encoding.timeMessage (offs : BitVec 32) (eth : Bool) : Encoding.Statement (.timeMessage offs eth) := by
  intro _ v hv; cases hv
theorem Encoding.throttleAdjust (watts : Nat) (celsius : Nat) : Encoding.Statement (.throttleAdjust watts celsius) :=
    by
  intro _ v hv; cases hv
theorem Encoding.thermalTrip : Encoding.Statement .thermalTrip := by
  intro _ v hv; cases hv
theorem Encoding.tripEnd : Encoding.Statement .tripEnd := by
  intro _ v hv; cases hv
theorem Encoding.healthUpdate (die : Nat) (drift : BitVec 32) (margin : BitVec 16) (eye0 : BitVec 16) (eye1 : BitVec
    16) (eol : BitVec 32) : Encoding.Statement (.healthUpdate die drift margin eye0 eye1 eol) := by
  intro _ v hv; cases hv
theorem Encoding.fabricRequestReceive (req : FabricReq) : Encoding.Statement (.fabricRequestReceive req) := by
  intro _ v hv; cases hv
theorem Encoding.recoveryImageLoad (image : Nat) : Encoding.Statement (.recoveryImageLoad image) := by
  intro _ v hv; cases hv
theorem Encoding.securityVersionRaise (version : Nat) : Encoding.Statement (.securityVersionRaise version) := by
  intro _ v hv; cases hv
theorem Encoding.loomPortRetrain (port : Nat) : Encoding.Statement (.loomPortRetrain port) := by
  intro _ v hv; cases hv

end Sys2Proof.Laws
end

