-- ==== Sys2Proof/Laws/Vector.lean ====
section
/-!
SUPPORT. Laws/Vector.lean: writes of vector, mask and interval registers change nothing else of a core; what the shapes
of vector and mask instructions do when nothing stops them.
-/

namespace Sys2Proof.Machine

/-! ## Register writes -/

theorem Core.setElems_vec (c : Core) (r : Nat) (l : List (Nat × Half)) : ∃ v, c.setElems r l = { c with vec := v } := by
  induction l generalizing c with
  | nil => exact ⟨c.vec, rfl⟩
  | cons e l ih =>
    obtain ⟨v, h⟩ := ih (c.setElem r e.1 e.2)
    exact ⟨v, h⟩

theorem Core.setMasks_vec (c : Core) (r : Nat) (l : List (Nat × Bool)) : ∃ v, c.setMasks r l = { c with vec := v } := by
  induction l generalizing c with
  | nil => exact ⟨c.vec, rfl⟩
  | cons e l ih =>
    obtain ⟨v, h⟩ := ih (c.setMask r e.1 e.2)
    exact ⟨v, h⟩

theorem Core.setPairs_vec (c : Core) (r : Nat) (l : List (Nat × Word)) : ∃ v, c.setPairs r l = { c with vec := v } := by
  induction l generalizing c with
  | nil => exact ⟨c.vec, rfl⟩
  | cons e l ih =>
    obtain ⟨v, h⟩ := ih (c.setPair r e.1 e.2)
    exact ⟨v, h⟩

theorem writeVec_vec (d : Nat) (t : Tag) (l : List (Nat × Half)) (c : Core) :
    ∃ v b, writeVec d t l c = { c with vec := v, badRegs := b } := by
  obtain ⟨v, h⟩ := c.setElems_vec d l
  exact ⟨_, _, by rw [writeVec, h]; rfl⟩

@[simp] theorem Core.setElems_rider (c : Core) (r : Nat) (l : List (Nat × Half)) : (c.setElems r l).rider = c.rider := by
  obtain ⟨v, h⟩ := c.setElems_vec r l
  rw [h]
@[simp] theorem Core.setElems_pc (c : Core) (r : Nat) (l : List (Nat × Half)) : (c.setElems r l).pc = c.pc := by
  obtain ⟨v, h⟩ := c.setElems_vec r l
  rw [h]
@[simp] theorem Core.setElems_strip (c : Core) (r : Nat) (l : List (Nat × Half)) : (c.setElems r l).strip = c.strip := by
  obtain ⟨v, h⟩ := c.setElems_vec r l
  rw [h]
@[simp] theorem Core.setElems_x (c : Core) (r : Nat) (l : List (Nat × Half)) : (c.setElems r l).x = c.x := by
  obtain ⟨v, h⟩ := c.setElems_vec r l
  rw [h]
@[simp] theorem Core.setMasks_rider (c : Core) (r : Nat) (l : List (Nat × Bool)) : (c.setMasks r l).rider = c.rider := by
  obtain ⟨v, h⟩ := c.setMasks_vec r l
  rw [h]
@[simp] theorem Core.setMasks_pc (c : Core) (r : Nat) (l : List (Nat × Bool)) : (c.setMasks r l).pc = c.pc := by
  obtain ⟨v, h⟩ := c.setMasks_vec r l
  rw [h]
@[simp] theorem Core.setPairs_rider (c : Core) (r : Nat) (l : List (Nat × Word)) : (c.setPairs r l).rider = c.rider := by
  obtain ⟨v, h⟩ := c.setPairs_vec r l
  rw [h]
@[simp] theorem Core.setPairs_pc (c : Core) (r : Nat) (l : List (Nat × Word)) : (c.setPairs r l).pc = c.pc := by
  obtain ⟨v, h⟩ := c.setPairs_vec r l
  rw [h]
@[simp] theorem writeVec_rider (d : Nat) (t : Tag) (l : List (Nat × Half)) (c : Core) :
    (writeVec d t l c).rider = c.rider := by
  obtain ⟨v, b, h⟩ := writeVec_vec d t l c
  rw [h]
@[simp] theorem writeVec_pc (d : Nat) (t : Tag) (l : List (Nat × Half)) (c : Core) : (writeVec d t l c).pc = c.pc := by
  obtain ⟨v, b, h⟩ := writeVec_vec d t l c
  rw [h]
@[simp] theorem writeVec_strip (d : Nat) (t : Tag) (l : List (Nat × Half)) (c : Core) :
    (writeVec d t l c).strip = c.strip := by
  obtain ⟨v, b, h⟩ := writeVec_vec d t l c
  rw [h]
@[simp] theorem writeVec_x (d : Nat) (t : Tag) (l : List (Nat × Half)) (c : Core) : (writeVec d t l c).x = c.x := by
  obtain ⟨v, b, h⟩ := writeVec_vec d t l c
  rw [h]

/-! ## Shapes of instructions -/

theorem Clear.issued {i : Instr} {s : State} (h : Clear i s) (a b d : Nat) : s.issued s.cur a b d = s.takes s.cur a b d :=
  State.issued_fresh h.fresh a b d

section
variable {i : Instr} {s : State} (h : Clear i s) (h1 : s.core.preempt = none)
  (h2 : (s.clusterAt (clusterOf s.cur)).badSlots = [])
include h h1 h2

/-- An element-wise vector instruction whose tags are allowed, whose operation gives f at element k. -/
theorem vectorOp_whole (h3 : s.core.stopMask = 0) {d a b km : Nat} {reads : Nat → List Reads}
    {dispatch : Issue → Option (Tag × (Core → Nat → Half × Flags))} {t : Tag} {op : Core → Nat → Half × Flags}
    {f : Nat → Half × Flags} (hd : dispatch (s.takes s.cur a b d) = some (t, op)) (hf : ∀ k, op s.core k = f k) :
    vectorOp i s d a b km reads dispatch = .next (s.retires i
      ((writeVec d t (((List.range s.core.strip.len.toNat).filter (s.core.mask km)).map fun k => (k, (f k).1))
        s.core).raise (((List.range s.core.strip.len.toNat).filter (s.core.mask km)).foldl
          (fun fl k => fl ||| (f k).2) 0))) := by
  refine issue_core h _ _ ?_ (by simp [h.alone]) (by simp)
  simp only [h.issued, hd, ← hf]
  exact elements_whole h1 h2 h3 _ rfl ..

/-- A permutation whose tags are allowed. -/
theorem permOp_whole (d a b km : Nat) (reads : Nat → List Reads) (tag : Issue → Option Tag)
    (source : Issue → Core → Nat → Half) {t : Tag} (ht : tag (s.takes s.cur a b d) = some t) :
    permOp i s d a b km reads tag source = .next (s.retires i
      (writeVec d t (((List.range s.core.strip.len.toNat).filter (s.core.mask km)).map fun k =>
        (k, source (s.takes s.cur a b d) s.core k)) s.core)) := by
  refine issue_core h _ _ ?_ (by simp [h.alone]) (by simp)
  simp only [h.issued, ht]
  exact unsplit_whole h1 h2 ..

/-- A mask-writing instruction. -/
theorem maskOp_whole (d a b : Nat) (masks : List Nat) (bit : Issue → Core → Nat → Nat → Bool) :
    maskOp i s d a b masks bit = .next (s.retires i (s.core.setMasks d ((List.range s.core.strip.len.toNat).map fun k =>
      (k, bit (s.takes s.cur a b d) s.core s.core.strip.len.toNat k)))) := by
  refine issue_core h _ _ ?_ (by simp [h.alone]) (by simp)
  simp only [h.issued]
  exact unsplit_whole h1 h2 ..

omit h1 in
/-- A count over a mask. -/
theorem maskCount_whole (d a : Nat) (count : Core → Nat → Nat) :
    maskCount i s d a count = .next (s.retires i (s.core.setX d (.ofNat 64 (count s.core s.core.strip.len.toNat)))) := by
  refine issue_core h _ _ ?_ (by simp [h.alone]) (by simp)
  simp only [State.readSlots_sound h2, State.reply_fresh h.fresh]
  rfl

end

/-- A vector instruction whose operand tags are not allowed. -/
theorem vectorOp_tag {i : Instr} {s : State} (h : Clear i s) (d a b km : Nat) (reads : Nat → List Reads)
    (dispatch : Issue → Option (Tag × (Core → Nat → Half × Flags))) (hd : dispatch (s.takes s.cur a b d) = none) :
    vectorOp i s d a b km reads dispatch = .next (s.trapped 9 (firstWord i)) := by
  refine issue_lead h _ _ _ ?_
  simp only [h.issued, hd, leadWord]

end Sys2Proof.Machine
end

