-- ==== Sys2Proof/Tests/Slice0.lean ====
section
/-!
SUPPORT. Tests/Slice0.lean: ill-formed terms that WellFormed refuses, words written out from the encoding tables, single
steps with results worked out by hand from the spec, and, for every statement with hypotheses, states that meet them
all together.
-/

namespace Sys2Proof.Tests

open Sys2Proof.Machine Sys2Proof.Claims

/-! ## Small states -/

/-- A running hart's core: four lanes, a strip of eight elements, pc 0x1000, x1 = 5, x2 = -3, x3 = 0x2000. -/
def hartCore : Core := { Core.absent with
  run := .running, pc := 0x1000, ident := ⟨1, 1, 0, 1, 0, 4, 0⟩
  strip := { Strip.hart with len := 8, granted := 8 }
  x := [(1, 5), (2, -3), (3, 0x2000)] }

/-- Hart 0 with its turn, in no partition; its core changed by f. -/
def hart (f : Core → Core) : State := { State.reset with cur := 0, cores := [(0, f hartCore)] }

/-- A running treadle's core: a strip of eight k-steps, the same registers. -/
def treadleCore : Core := { Core.absentTreadle with
  run := .running, pc := 0x1000, ident := ⟨1, 1, 0, 1, 8, 0, 0⟩
  strip := { Strip.treadle with len := 8, granted := 8 }
  x := [(1, 5), (2, -3), (3, 0x2000)] }

/-- The treadle of cluster 0 with its turn, its tile enabled. -/
def treadle (f : Core → Core) : State := { State.reset with
  cur := 8, cores := [(8, f treadleCore)], clusters := [(0, { Cluster.reset with enable := true })] }

/-- An online partition 0 with one channel and one weight-store die, whose table holds these regions. -/
def part (rs : List Region) : Part := { Part.free with state := 2, nch := 1, wsdies := 1, regions := rs, nextReg := 9 }

/-- The hub of a package with cluster 0 and hub hart 0 online in partition 0. -/
def hubOn : Hub := { Hub.reset with clusterAtt := [(0, ⟨2, 0, 0⟩)], hubAtt := [(0, ⟨2, 0, 0⟩)] }

/-- A hub hart's core at S. -/
def hubCore : Core := { Core.absent with
  run := .running, level := .s, pc := 0x1000, x := [(1, 5), (2, -3), (3, 0x2000)]
  trapS := ⟨0, 0x500, 0, 0x8000, 1⟩, trapH := ⟨0, 0, 0, 0x9000, 0⟩ }

/-- Hub hart 0 with its turn at S, in partition 0 with these regions; hart 0 stands beside it. -/
def hub (f g : Core → Core) (rs : List Region) : State := { State.reset with
  cur := 7200, cores := [(0, g hartCore), (7200, f hubCore)], parts := [(0, part rs)], hub := hubOn }

/-- A launch with a hart and a treadle entry, placed on cluster 0 as region 1. -/
def launch : Region := { Region.make 1 1 { Rcb.zero with
  launch := true, ncrew := 1, prio := 3, asid := 1, tentry := 0x4000
  hentry := [0x3000, 0, 0, 0, 0, 0, 0, 0], lanes := [8, 0, 0, 0, 0, 0, 0, 0]
  minlanes := [4, 0, 0, 0, 0, 0, 0, 0], cword := 0x100 } .placed 1 0 with clusters := [0], cores := 2, started := true }

/-- Hart 0 with its turn, its launch placed on cluster 0 of partition 0 beside other regions. -/
def placed (f : Core → Core) (r : Region) (rs : List Region) : State := { State.reset with
  cur := 0, cores := [(0, f hartCore)], parts := [(0, part (r :: rs))], hub := hubOn }

/-- A state with its memory. -/
def withMem (s : State) (m : List Host.Cell) : State := { s with mem := m }

/-- Page tables at keys 0 to 0x7FFFF that map the page of addresses below 0x20000 to 0x60000, for ASIDs 0 and 1. -/
def tables : List Host.Cell := [(0, 1), (1, 0x80), (8, 1), (9, 0x80), (0x8000, 1), (0x8002, 2), (0x20000, 1),
  (0x20002, 4), (0x40000, 0x3F), (0x40002, 6)]

/-- Memory with an instruction's words at 0x1000. -/
def codeAt (i : Instr) : List Host.Cell :=
  (((encode i).zipIdx.map fun e => (0x1000 + e.2, e.1)).filter fun e => e.2 != 0)

/-! What decide has to evaluate. -/

/-- Nothing stands before an instruction: a conjunction that decide evaluates. -/
theorem clear_of {i : Instr} {s : State}
    (h : s.lag = none ∧ s.serviceHeld s.cur = false ∧ s.core.resume = none ∧ s.decodeCause s.cur i = none ∧
      (reachesLanes (firstWord i) = true → s.core.strip.len ≠ 0) ∧ s.ownerCause s.cur i = none ∧
      s.queueWait s.cur i = none ∧ s.core.rider = none) :
    Clear i s :=
  ⟨⟨h.1, h.2.1, h.2.2.1, h.2.2.2.1, h.2.2.2.2.1, h.2.2.2.2.2.1, h.2.2.2.2.2.2.1⟩, h.2.2.2.2.2.2.2⟩

/-- Nothing stands before any of the three forms that write a control register. -/
theorem forms_of {d a cn : Nat} {s : State} (h : s.lag = none ∧ s.serviceHeld s.cur = false ∧ s.core.resume = none ∧
      (s.decodeCause s.cur (.crWr d a cn) = none ∧ s.decodeCause s.cur (.crSet d a cn) = none ∧
        s.decodeCause s.cur (.crClr d a cn) = none) ∧
      (∀ f ∈ crForms d a cn, reachesLanes (firstWord f.1) = true → s.core.strip.len ≠ 0) ∧
      (s.ownerCause s.cur (.crWr d a cn) = none ∧ s.ownerCause s.cur (.crSet d a cn) = none ∧
        s.ownerCause s.cur (.crClr d a cn) = none) ∧
      (∀ f ∈ crForms d a cn, s.queueWait s.cur f.1 = none) ∧ s.core.rider = none) :
    ∀ f ∈ crForms d a cn, Clear f.1 s := by
  intro f hf
  have lanes := h.2.2.2.2.1 f hf
  have queue := h.2.2.2.2.2.2.1 f hf
  simp only [crForms, List.mem_cons, List.not_mem_nil, or_false] at hf
  obtain rfl | rfl | rfl := hf
  · exact ⟨⟨h.1, h.2.1, h.2.2.1, h.2.2.2.1.1, lanes, h.2.2.2.2.2.1.1, queue⟩, h.2.2.2.2.2.2.2⟩
  · exact ⟨⟨h.1, h.2.1, h.2.2.1, h.2.2.2.1.2.1, lanes, h.2.2.2.2.2.1.2.1, queue⟩, h.2.2.2.2.2.2.2⟩
  · exact ⟨⟨h.1, h.2.1, h.2.2.1, h.2.2.2.1.2.2, lanes, h.2.2.2.2.2.1.2.2, queue⟩, h.2.2.2.2.2.2.2⟩

/-- An operation that succeeds, with a value that meets a condition. -/
def okWith (x : State × Except ε α) (p : State → α → Bool) : Bool := match x with
  | (t, .ok v) => p t v
  | (_, .error _) => false

theorem ok_of {x : State × Except ε α} {p : State → α → Bool} (h : okWith x p = true) :
    ∃ t v, x = (t, .ok v) ∧ p t v = true := by
  obtain ⟨t, v | v⟩ := x
  · cases h
  · exact ⟨t, v, rfl, h⟩

/-- An operation that succeeds in one run of memory from a key. -/
theorem run_of {x : State × Except ε Loc} {k : Nat} (n : Nat)
    (h : okWith x (fun _ l => decide (l = .mem [(k, n)] false false)) = true) :
    ∃ t, x = (t, .ok (.mem [(k, n)] false false)) := by
  obtain ⟨t, v, e, hp⟩ := ok_of h
  simp at hp
  exact ⟨t, hp ▸ e⟩

/-! ## The statements' hypotheses are met -/

theorem witness_DecodeInvertsEncode : ∃ i, WellFormed i = true ∧ encodeWords i ≠ [] ∧ ∀ w, i ≠ .illegalWord w :=
  ⟨.xAdd 1 2 3 true, by decide, by decide, fun _ => nofun⟩

theorem witness_DecodedIsEncoding : ∃ bs rest i, decode bs = .ok (i, rest) :=
  ⟨encode (.jInd 1 2 5) ++ [7], [7], .jInd 1 2 5, rfl⟩

theorem witness_StepRunsDecoded : ∃ (s : State) (n : Nat) (rest : List Turn) (i : Instr) (t u : State) (w w1 : Nat),
    let s0 := { ({ s with agenda := rest } : State).settle with cur := n }
    let c := s0.coreAt n
    s.agenda = .core n :: rest ∧ c.run = .running ∧ (s0.hub.power.trip = true → 7200 ≤ n) ∧ c.push = none ∧ c.held = [] ∧
    (7200 ≤ n → c.wait ≠ .inval → s0.interrupt n = none) ∧ s0.fetchWord n c.pc.toNat = (t, .ok w) ∧
    (if isTwoWord w then t.fetchWord n (c.pc + 4).toNat = (u, .ok w1) else u = t ∧ w1 = 0) ∧
    decodeWord w w1 = .ok i :=
  ⟨State.reset.withFetchWord 32 0x08518700, 7200, [], .xAdd 5 6 7 false, _, _, 0x08518700, 0,
    rfl, rfl, by decide, rfl, rfl, by decide, rfl, ⟨rfl, rfl⟩, rfl⟩

theorem witness_StepTakesNextRunning :
    ∃ (s : State) (n : Nat), s.agenda = [] ∧ nextRunning s.cores s.hub.power.trip s.cur = some n :=
  ⟨State.reset, 7200, rfl, rfl⟩

/-- A write of hart 0 that has taken effect: the byte 7 to key 0x2000. -/
def byteStore : Store := ⟨0, 16, 0, 0x2000, [(0x2000, 1)], [7]⟩

/-- The same on P0 in a class, of the instruction that was hart 0's number seq, not in effect yet. -/
def lateByte (seq : Word) (cls : Nat) : Late := ⟨0, seq, [⟨0, cls, 16⟩], .write byteStore⟩

/-- Hart 0 with two writes that have taken effect and two, of classes 3 and cls, that have not; a turn comes next. -/
def waiting (cls : Nat) (t : Turn) : State := { hart id with
  stores := [byteStore, byteStore], late := [lateByte 1 3, lateByte 2 cls], agenda := [t] }

theorem witness_WaitingWritesPerform : ∃ (s : State) (rest : List Turn),
    (∀ e ∈ s.stores, ∃ k, e.runs = [(k, e.bytes.length)]) ∧ s.agenda = .perform 0 :: rest ∧
    s.stores[0]? = some byteStore ∧ s.stores[1]? = some byteStore ∧ s.stores[2]? = none :=
  ⟨waiting 3 (.perform 0), [], by
    intro e he
    simp [waiting] at he
    exact ⟨0x2000, by rw [he]; rfl⟩, rfl, rfl, rfl, rfl⟩

theorem witness_WaitingWritesTakeEffect :
    (∃ (s : State) (rest : List Turn) (e : Late) (w : Store), s.agenda = .effect 1 :: rest ∧ s.late[1]? = some e ∧
      e.act = .write w ∧ ∀ x ∈ s.late.take 1, (∃ v, x.act = .write v) ∧ x.seq ≠ e.seq ∧ ¬ comesBefore x e) ∧
    ∃ (s : State) (rest : List Turn) (e x : Late) (w v : Store), s.agenda = .effect 1 :: rest ∧ s.late[1]? = some e ∧
      e.act = .write w ∧ s.late.take 1 = [x] ∧ x.act = .write v ∧ x.seq ≠ e.seq ∧ comesBefore x e := by
  refine ⟨⟨waiting 5 (.effect 1), [], lateByte 2 5, byteStore, rfl, rfl, rfl, ?_⟩,
    ⟨waiting 0 (.effect 1), [], lateByte 2 0, lateByte 1 3, byteStore, byteStore, rfl, rfl, rfl, rfl, rfl, by decide, rfl,
      _, List.mem_singleton_self _, _, List.mem_singleton_self _, rfl, .inr (.inr rfl)⟩⟩
  intro x hx
  simp [waiting] at hx
  subst hx
  refine ⟨⟨_, rfl⟩, by decide, fun h => ?_⟩
  obtain ⟨_, a, ha, b, hb, _, h⟩ := h
  simp [lateByte] at ha hb
  subst ha hb
  revert h
  decide

theorem witness_WaitingAccessesSettle : ∃ s : State, (∀ e ∈ s.late, ∃ w, e.act = .write w) ∧ s.late ≠ [] ∧ s.stores ≠ [] ∧
    ∀ w ∈ s.stores ++ s.late.filterMap lateWrite, ∃ k, w.runs = [(k, w.bytes.length)] :=
  ⟨waiting 3 (.core 0), by simp [waiting, lateByte], by decide, by decide, by
    simp [waiting, lateByte, lateWrite]
    exact ⟨0x2000, rfl⟩⟩

theorem witness_QueuesRun :
    (∃ (s t : State) (n : Nat) (rest : List Turn) (i : Instr), (s.coreAt n).run = .running ∧ s.hub.power.trip = false ∧
      (s.coreAt n).resume = none ∧ s.agenda = .ahead n :: rest ∧ s.late = [] ∧ kindOf n ≠ .hub ∧
      (s.coreAt n).rider = none ∧
      (s.coreAt n).held = [] ∧ ({ s with agenda := rest } : State).fetchAt n (s.coreAt n).pc = (t, .ok i) ∧
      t.dispatches n (s.coreAt n).owed i = true ∧
      (s.coreAt n).pc.toNat % 131072 + lengthOf i ≤ 131072) ∧
    ∃ (s : State) (n : Nat) (rest : List Turn) (h : Held) (hs : List Held), (s.coreAt n).run = .running ∧
      s.hub.power.trip = false ∧ (s.coreAt n).resume = none ∧ s.agenda = .core n :: rest ∧ s.late = [] ∧
      s.stores = [] ∧ s.lag = none ∧ kindOf n ≠ .hub ∧ (s.coreAt n).push = none ∧ (s.coreAt n).held = h :: hs ∧ h.pc = (s.coreAt n).pc := by
  constructor
  · obtain ⟨t, i, e, h⟩ := ok_of (x := (withMem (hart id) (codeAt (.vMov 1 2 0))).fetchAt 0 0x1000)
      (p := fun t i => decide (i = .vMov 1 2 0) && t.dispatches 0 [] (.vMov 1 2 0)) (by decide)
    simp only [Bool.and_eq_true, decide_eq_true_eq] at h
    obtain ⟨rfl, h⟩ := h
    exact ⟨{ withMem (hart id) (codeAt (.vMov 1 2 0)) with agenda := [.ahead 0] }, t, 0, [], .vMov 1 2 0, rfl, rfl, rfl,
      rfl, rfl, by decide, rfl, rfl, e, h, by decide⟩
  · exact ⟨{ hart fun c => { c with held := [⟨.vMov 1 2 0, (hart id).takes 0 2 0 1, 0x1000⟩] } with agenda := [.core 0] },
      0, [], _, _, rfl, rfl, rfl, rfl, rfl, rfl, rfl, by decide, rfl, rfl, rfl⟩

theorem witness_ScalarIntegerResults : ∃ i s d v fl, scalarResult s.x i = some (d, v, fl) ∧ Clear i s :=
  ⟨.xAdd 1 2 3 true, hart id, 1, _, _, rfl, clear_of (by decide)⟩

theorem witness_ScalarFloatResults : ∃ i s d v fl, floatResult s.x i = some (d, v, fl) ∧ Clear i s :=
  ⟨.fFma 1 2 3 .f32 .rup, hart id, 1, _, _, rfl, clear_of (by decide)⟩

theorem witness_BranchesAndJumps : ∃ i s pc d v, jumpResult s.x s.core.pc i = some (pc, d, v) ∧ Clear i s :=
  ⟨.bLt 2 1 16, hart id, 0x1040, 0, 0, rfl, clear_of (by decide)⟩

theorem witness_IndirectJumpMisaligned : ∃ d a off s, Clear (.jInd d a off) s ∧ (s.x a).toNat % 4 ≠ 0 :=
  ⟨1, 1, 3, hart id, clear_of (by decide), by decide⟩

theorem witness_LengthSet :
    (∃ d a gr np kb s, Clear (.lnSet d a gr np kb) s ∧ s.core.preempt = none ∧ s.kind = .hart) ∧
    (∃ d a gr np kb s, Clear (.lnSet d a gr np kb) s ∧ s.core.preempt = none ∧ s.kind = .treadle) :=
  ⟨⟨1, 3, .g2, 0, false, hart fun c => { c with regrant := some ⟨8, 0⟩ }, clear_of (by decide), rfl, rfl⟩,
    ⟨1, 3, .g2, 0, false, treadle id, clear_of (by decide), rfl, rfl⟩⟩

theorem witness_LengthShuttle : ∃ d a b np kb es0 es1 es2 es3 off s,
    Clear (.lnShuttle d a b np kb es0 es1 es2 es3 off) s ∧ s.core.preempt = none ∧
    (s.x a).toNat - s.core.strip.len.toNat ≠ 0 :=
  ⟨1, 3, 1, 2, false, .b4, .t6, .b1, .b1, -8, hart id, clear_of (by decide), rfl, by decide⟩

theorem witness_LengthShuttleLast : ∃ d a b np kb es0 es1 es2 es3 off s,
    Clear (.lnShuttle d a b np kb es0 es1 es2 es3 off) s ∧ s.core.preempt = none ∧
    (s.x a).toNat - s.core.strip.len.toNat = 0 :=
  ⟨1, 1, 0, 0, false, .b1, .b1, .b1, .b1, -8, hart id, clear_of (by decide), rfl, by decide⟩

theorem witness_TrimKeepsLength : ∃ d a s, Clear (.lnTrim d a) s ∧
    s.core.strip.len.toNat ≤ max (s.x a).toNat s.core.strip.floor.toNat :=
  ⟨1, 3, hart id, clear_of (by decide), by decide⟩

theorem witness_TrimShortens : ∃ d a s, Clear (.lnTrim d a) s ∧ (s.x a).toNat < s.core.strip.len.toNat ∧
    max (s.core.moved (s.x a).toNat) s.core.strip.floor.toNat < s.core.strip.len.toNat :=
  ⟨1, 1, hart id, clear_of (by decide), by decide, by decide⟩

theorem witness_ReleaseLanes : (∃ s, Clear .lnRel s ∧ s.kind ≠ .treadle) ∧ ∃ s, Clear .lnRel s ∧ s.kind = .treadle :=
  ⟨⟨hart id, clear_of (by decide), by decide⟩, ⟨treadle id, clear_of (by decide), rfl⟩⟩

theorem witness_ControlRegisterValues : ∃ d cn v s,
    crValue s.core s.kind (s.hartid s.cur) cn = some v ∧ Clear (.crRd d cn) s :=
  ⟨1, 0x007, 0x400004, hart id, rfl, clear_of (by decide)⟩

theorem witness_ControlRegisterUpdates : ∃ d a cn old s, crValue s.core s.kind (s.hartid s.cur) cn = some old ∧
    (∃ c, crWritten s.core s.kind cn (s.x a) = some c ∧ Clear (.crWr d a cn) s) ∧
    (∃ c, crWritten s.core s.kind cn (old ||| s.x a) = some c ∧ Clear (.crSet d a cn) s) ∧
    (∃ c, crWritten s.core s.kind cn (old &&& ~~~(s.x a)) = some c ∧ Clear (.crClr d a cn) s) :=
  ⟨1, 1, 0x005, 0x2000, hart id, rfl, ⟨_, rfl, clear_of (by decide)⟩, ⟨_, rfl, clear_of (by decide)⟩,
    ⟨_, rfl, clear_of (by decide)⟩⟩

theorem witness_TrapRegistersNeedLevel : ∃ d a cn s l k, trapCr cn = some (l, k) ∧
    (s.kind ≠ .hub ∨ rankOf s.core.level < rankOf l) ∧ Clear (.crRd d cn) s ∧ ∀ f ∈ crForms d a cn, Clear f.1 s :=
  ⟨1, 1, 0x201, hub id id [], .h, 1, by decide, .inr (by decide), clear_of (by decide), forms_of (by decide)⟩

theorem witness_BarredWrites : (∃ d a cn s old, crValue s.core s.kind (s.hartid s.cur) cn = some old ∧
      ∀ f ∈ crForms d a cn, Clear f.1 s ∧ crWritten s.core s.kind cn (f.2 old (s.x a)) = none) ∧
    (∃ d a s, ∀ f ∈ crForms d a 0x031, Clear f.1 s) ∧
    ∃ d a cn s, crValue s.core s.kind (s.hartid s.cur) cn = none ∧ trapCr cn = none ∧ ∀ f ∈ crForms d a cn, Clear f.1 s :=
  ⟨⟨1, 1, 0x039, hart id, 0x10000, rfl, fun f h => ⟨forms_of (by decide) f h, rfl⟩⟩,
    ⟨1, 1, hart id, forms_of (by decide)⟩, ⟨1, 1, 0x010, hart id, rfl, by decide, forms_of (by decide)⟩⟩

theorem witness_UnbuiltReads : ∃ d cn s, Clear (.crRd d cn) s ∧ crValue s.core s.kind (s.hartid s.cur) cn = none ∧
    trapCr cn = none ∧ cn ≠ 0x030 ∧ cn ≠ 0x031 ∧ (cn = 0x028 → s.kind = .hub) :=
  ⟨1, 0x016, hart id, clear_of (by decide), rfl, by decide, by decide, by decide, by decide⟩

theorem witness_TrapRegisterReads : ∃ d cn k l s, trapCr cn = some (l, k) ∧ s.kind = .hub ∧
    rankOf l ≤ rankOf s.core.level ∧ Clear (.crRd d cn) s :=
  ⟨1, 0x100, 0, .s, hub id id [], by decide, rfl, by decide, clear_of (by decide)⟩

theorem witness_LoadsComplete : ∃ i s t d a off size widen v, loadForm i = some (d, a, off, size, widen) ∧ Clear i s ∧
    s.loadScalar s.cur (accessAddr (s.x a) off size) size = (t, .ok v) := by
  obtain ⟨t, v, e, _⟩ := ok_of (x := (hart id).loadScalar 0 0x2004 4) (p := fun _ _ => true) (by decide)
  exact ⟨.ldS32 1 3 0 1, hart id, t, _, _, _, _, _, v, rfl, clear_of (by decide), e⟩

/-- Hart 0 in a turn whose writes wait, with one that waits and one that has taken effect. -/
def lagging : State := { hart id with
  lag := some ⟨[⟨0, 0, 16⟩], .defer, false⟩, late := [lateByte 1 3], stores := [byteStore] }

theorem witness_LoadsOvertake : ∃ i s t d a off size k widen io w,
    loadForm i = some (d, a, off, size, widen) ∧ s.lag ≠ none ∧ Clear i { s with lag := none } ∧
    s.core.l1d = [] ∧ s.errorFree ∧
    locate s (s.who s.cur) .read (accessAddr (s.x a) off size) size size = (t, .ok (.mem [(k, size)] io w)) := by
  obtain ⟨t, e⟩ := run_of (x := locate lagging (lagging.who 0) .read 0x2000 4 4) (k := 0x2000) 4 (by decide)
  exact ⟨.ldS32 1 3 0 0, lagging, t, _, _, _, _, 0x2000, _, false, false, rfl, by decide, clear_of (by decide), rfl,
    ⟨rfl, rfl, rfl⟩, e⟩

theorem witness_StoresWait : ∃ i s t d a off size k keys w, storeForm i = some (d, a, off, size) ∧
    s.lag = some ⟨keys, .defer, false⟩ ∧ Clear i { s with lag := none } ∧
    locate s (s.who s.cur) .write (accessAddr (s.x a) off size) size size = (t, .ok (.mem [(k, size)] false w)) := by
  obtain ⟨t, e⟩ := run_of (x := locate lagging (lagging.who 0) .write 0x2004 4 4) (k := 0x2004) 4 (by decide)
  exact ⟨.stS32 2 3 0 1, lagging, t, _, _, _, _, 0x2004, _, false, rfl, rfl, clear_of (by decide), e⟩

theorem witness_AtomicLoad : ∃ s t d a v o sco, Clear (.amLd d a o sco) s ∧
    s.loadDirect s.cur (s.x a).toNat = (t, .ok v) := by
  obtain ⟨t, v, e, _⟩ := ok_of (x := (hart id).loadDirect 0 0x2000) (p := fun _ _ => true) (by decide)
  exact ⟨hart id, t, 1, 3, v, .acq, .crew, clear_of (by decide), e⟩

theorem witness_StoresReachMemory : ∃ i s t d a off size k io w, storeForm i = some (d, a, off, size) ∧ Clear i s ∧
    s.errorFree ∧ locate s (s.who s.cur) .write (accessAddr (s.x a) off size) size size =
      (t, .ok (.mem [(k, size)] io w)) := by
  obtain ⟨t, e⟩ := run_of (x := locate (hart id) ((hart id).who 0) .write 0x1FFE 2 2) (k := 0x1FFE) 2 (by decide)
  exact ⟨.stS16 2 3 0 (-1), hart id, t, _, _, _, _, 0x1FFE, false, false, rfl, clear_of (by decide), ⟨rfl, rfl, rfl⟩, e⟩

theorem witness_StoresComplete : ∃ i s t d a off size, storeForm i = some (d, a, off, size) ∧ Clear i s ∧
    s.storeScalar s.cur (accessAddr (s.x a) off size) size (s.x d).toNat = (t, .ok ()) := by
  obtain ⟨t, v, e, _⟩ := ok_of (x := (hart id).storeScalar 0 0x2004 4 0xFFFFFFFFFFFFFFFD) (p := fun _ _ => true)
    (by decide)
  exact ⟨.stS32 2 3 0 1, hart id, t, _, _, _, _, rfl, clear_of (by decide), e⟩

theorem witness_Atomics : ∃ i s t d a k o f w, atomicForm s.x i = some (d, a, o, f) ∧ Clear i s ∧
    s.errorFree ∧ locate s (s.who s.cur) .write (s.x a).toNat 8 8 = (t, .ok (.mem [(k, 8)] false w)) := by
  obtain ⟨t, e⟩ := run_of (x := locate (hart id) ((hart id).who 0) .write 0x2000 8 8) (k := 0x2000) 8 (by decide)
  exact ⟨.amCas 1 3 2 .ar .sys, hart id, t, _, _, 0x2000, _, _, false, rfl, clear_of (by decide), ⟨rfl, rfl, rfl⟩, e⟩

theorem witness_MisalignedAccessTraps : ∃ i s a size off, Clear i s ∧
    ((∃ d f, loadForm i = some (d, a, off, size, f)) ∨ (∃ d, storeForm i = some (d, a, off, size))) ∧
    accessAddr (s.x a) off size % size ≠ 0 :=
  ⟨.stX64 2 1 0 0, hart id, 1, 8, 0, clear_of (by decide), .inr ⟨2, rfl⟩, by decide⟩

theorem witness_LoadsReadMemory : ∃ i s t d a off size k widen io w, loadForm i = some (d, a, off, size, widen) ∧
    Clear i s ∧ s.core.l1d = [] ∧ s.errorFree ∧
    locate s (s.who s.cur) .read (accessAddr (s.x a) off size) size size = (t, .ok (.mem [(k, size)] io w)) := by
  obtain ⟨t, e⟩ := run_of (x := locate (hart id) ((hart id).who 0) .read 0x2002 1 1) (k := 0x2002) 1 (by decide)
  exact ⟨.ldS8 1 3 0 2, hart id, t, _, _, _, _, 0x2002, _, false, false, rfl, clear_of (by decide), rfl, ⟨rfl, rfl, rfl⟩, e⟩

theorem witness_FenceRetires : ∃ s sco cm, Clear (.yFence cm sco) s := ⟨hart id, .crew, 3, clear_of (by decide)⟩

theorem witness_BarrierReleasesCrew : ∃ s, Clear .yBar s ∧
    (s.setCore { s.core with arrived := true }).barrierFull s.cur = true :=
  ⟨hart id, clear_of (by decide), by decide⟩

/-- Harts 0 and 1 of a crew, hart 0 with its turn. -/
def twoHarts : State := { hart id with cores := [(0, hartCore), (1, { hartCore with ident := ⟨1, 1, 0, 1, 1, 4, 4⟩ })] }

theorem witness_BarrierWaits : ∃ s, Clear .yBar s ∧ s.core.preempt = none ∧
    (s.setCore { s.core with arrived := true }).barrierFull s.cur = false :=
  ⟨twoHarts, clear_of (by decide), rfl, by decide⟩

/-- A started copy of hart 0's. -/
def copyCmd : Cmd := ⟨.cpy, 0, 0, 1, 1, 0, 0x4000, ⟨0x2000, 0x3000, 0, 0, 0, [], false, 0, false, false, false, 0, 0, 0,
  .s8, .s8, 0, 0, 0, 0⟩, 0, true, 0, []⟩

theorem witness_PathFenceRetires :
    (∃ s sco pa pb, Clear (.yXfence pa pb sco) s ∧ pa ≠ 0 ∧ pb ≠ 0 ∧ pa &&& ~~~(pathsOf s.kind) = 0 ∧
      pb &&& ~~~(pathsOf s.kind) = 0 ∧
      ∀ m ∈ (if s.kind = .hub then [] else (s.clusterAt (clusterOf s.cur)).cmds), onPath pa s.cur m = false) ∧
    ∃ s sco pa pb, Clear (.yXfence pa pb sco) s ∧ pa ≠ 0 ∧ pb ≠ 0 ∧ pa &&& ~~~(pathsOf s.kind) = 0 ∧
      pb &&& ~~~(pathsOf s.kind) = 0 ∧
      (∃ m ∈ (if s.kind = .hub then [] else (s.clusterAt (clusterOf s.cur)).cmds), onPath pa s.cur m = true) ∧
      s.core.preempt = none :=
  ⟨⟨hart id, .sys, 2, 1, clear_of (by decide), by decide, by decide, by decide, by decide, by decide⟩,
    ⟨{ hart id with clusters := [(0, { Cluster.reset with cmds := [copyCmd] })] }, .sys, 8, 1, clear_of (by decide),
      by decide, by decide, by decide, by decide, by decide, rfl⟩⟩

theorem witness_CoresEnd : (∃ s, Clear .yEnd s ∧ s.kind ≠ .hub ∧ s.drained s.cur = true) ∧
    ∃ s, Clear .yEnd s ∧ s.kind ≠ .hub ∧ s.drained s.cur = false ∧ s.core.preempt = none :=
  ⟨⟨placed id launch [], clear_of (by decide), by decide, by decide⟩,
    ⟨{ hart id with clusters := [(0, { Cluster.reset with cmds := [copyCmd] })] }, clear_of (by decide), by decide,
      by decide, rfl⟩⟩

theorem witness_WaitSatisfied : ∃ s t d a b v, Clear (.yWait d a b) s ∧
    s.loadDirect s.cur (s.x a).toNat = (t, .ok v) ∧ (s.x b).toNat ≤ v := by
  obtain ⟨t, v, e, h⟩ := ok_of (x := (withMem (hart id) [(0x2000, 9)]).loadDirect 0 0x2000)
    (p := fun _ v => decide (5 ≤ v)) (by decide)
  exact ⟨withMem (hart id) [(0x2000, 9)], t, 1, 3, 1, v, clear_of (by decide), e, of_decide_eq_true h⟩

theorem witness_RiderAwaitsCarrier : ∃ s pe he ce pid hid cls, Clear (.ride pe pid he hid ce cls) s ∧
    (pe = true → readsFifo s.kind s.core.ident.hidx pid = true) ∧
    (he = true → writesFifo s.kind s.core.ident.hidx hid = true) :=
  ⟨hart id, true, true, false, 0, 8, 0, clear_of (by decide), by decide, by decide⟩

/-- A rider that pops FIFO 0. -/
def popper : Rider := ⟨0xFFC, 0, some 0, none, none, false⟩

/-- Hart 0 with that rider, two tokens in FIFO 0. -/
def popping : State := { hart fun c => { c with rider := some popper } with
  clusters := [(0, { Cluster.reset with fifos := [(32, 2)] })] }

theorem witness_PopBeforeCarrier : ∃ i s t r p d a size v off widen, loadForm i = some (d, a, off, size, widen) ∧
    ClearButRider i s ∧ s.core.rider = some r ∧ badCarrier r i = false ∧ r.pop = some p ∧ r.push = none ∧
    r.popped = false ∧ 0 < s.fifoCount s.cur p ∧ p < 17 ∧
    ((s.setFifo s.cur p (s.fifoCount s.cur p - 1)).setCore
      { acquired s.core with rider := some { r with popped := true } }).loadScalar s.cur
        (accessAddr (s.x a) off size) size = (t, .ok v) := by
  obtain ⟨t, v, e, _⟩ := ok_of (x := ((popping.setFifo 0 0 1).setCore
    { acquired popping.core with rider := some { popper with popped := true } }).loadScalar 0 0x2004 4)
    (p := fun _ _ => true) (by decide)
  exact ⟨.ldS32 1 3 0 1, popping, t, popper, 0, 1, 3, 4, v, 1, _, rfl,
    ⟨by decide, rfl, by decide, by decide, by decide, rfl, by decide⟩, rfl, by decide, rfl, rfl, rfl, by decide,
    by decide, e⟩

/-- A rider that pops FIFO 0 and pushes FIFO 8. -/
def rider : Rider := ⟨0xFFC, 0, some 0, some 8, none, false⟩

theorem witness_RiderPopsAndPushes : ∃ i s r p h d v fl, scalarResult s.x i = some (d, v, fl) ∧ ClearButRider i s ∧
    s.core.rider = some r ∧ badCarrier r i = false ∧ r.pop = some p ∧ r.push = some h ∧ r.popped = false ∧ p ≠ h ∧
    p < 32 ∧ h < 32 ∧ 0 < s.fifoCount s.cur p ∧ s.fifoCount s.cur h < 15 :=
  ⟨.xAdd 1 2 3 true, { hart fun c => { c with rider := some rider } with
      clusters := [(0, { Cluster.reset with fifos := [(32, 2)] })] }, rider, 0, 8, 1, _, _, rfl,
    ⟨by decide, rfl, by decide, by decide, by decide, rfl, by decide⟩, rfl, by decide, rfl, rfl, rfl, by decide,
    by decide, by decide, by decide, by decide⟩

theorem witness_HubTrapRegisters : ∃ (s : State) (n cause : Nat) (l : Level), kindOf n = .hub ∧
    busyUp (s.coreAt n) (entryLevel cause (s.coreAt n).level) = some l :=
  ⟨hub id id [], 7200, 18, .h, by decide, by decide⟩

theorem witness_TrapWithEveryLevelBusy : ∃ (s : State) (n cause p : Nat), kindOf n = .hub ∧ s.partOf n = some p ∧
    busyUp (s.coreAt n) (entryLevel cause (s.coreAt n).level) = none :=
  ⟨hub (fun c => { c with level := .m, trapM := ⟨0, 0, 0, 0, 0x80⟩ }) id [], 7200, 10, 0, by decide, by decide, by decide⟩

theorem witness_ClusterTrapEntry : ∃ n, kindOf n ≠ .hub := ⟨0, by decide⟩

theorem witness_CallsAndBreakpoints : (∃ s, Clear .zCall s) ∧ (∃ s, Clear .zBrk s) ∧ ∃ s, Clear .yEnd s ∧ s.kind = .hub :=
  ⟨⟨hart id, clear_of (by decide)⟩, ⟨hart id, clear_of (by decide)⟩, ⟨hub id id [], clear_of (by decide), rfl⟩⟩

theorem witness_TrapReturnRestores : ∃ s, Clear .zRet s ∧
    rankOf (statPlv (regsOf s.core s.core.level).stat) ≤ rankOf s.core.level :=
  ⟨hub id id [], clear_of (by decide), by decide⟩

theorem witness_TrapReturnUpwardIllegal : ∃ s, Clear .zRet s ∧
    rankOf s.core.level < rankOf (statPlv (regsOf s.core s.core.level).stat) :=
  ⟨hub (fun c => { c with trapS := ⟨0, 0x500, 0, 0, 0xA0⟩ }) id [], clear_of (by decide), by decide⟩

theorem witness_SupervisorInstructionsNeedS : ∃ (i : Instr) (s : State), (i = .zRet ∨ (∃ d a, i = .zHres d a) ∨ (∃ d a, i = .zHstop d a) ∨
      (∃ a, i = .zInva a) ∨ (∃ a b, i = .zInvs a b) ∨ i = .zInvp ∨ (∃ d a, i = .zWsopen d a) ∨
      ∃ d a, i = .zWsclose d a) ∧
    (s.kind ≠ .hub ∨ s.core.level = .u) ∧ WellFormed i = true ∧ s.serviceHeld s.cur = false ∧ s.core.resume = none ∧
    s.core.rider = none ∧ ∀ f, s.masked s.cur f = false :=
  ⟨.zRet, hart id, .inl rfl, .inl (by decide), by decide, by decide, rfl, rfl, fun _ => rfl⟩

theorem witness_ResumeStatus :
    (∃ d a s, Clear (.zHres d a) s ∧ s.targetCore s.cur (s.x a) = none) ∧
    (∃ d a s m, Clear (.zHres d a) s ∧ s.targetCore s.cur (s.x a) = some m ∧ (s.coreAt m).win.cmdstat = 1) ∧
    (∃ d a s m, Clear (.zHres d a) s ∧ s.targetCore s.cur (s.x a) = some m ∧ (s.coreAt m).win.cmdstat ≠ 1 ∧
      (s.coreAt m).win.kind = .running) ∧
    (∃ d a s m, Clear (.zHres d a) s ∧ s.targetCore s.cur (s.x a) = some m ∧ (s.coreAt m).win.cmdstat ≠ 1 ∧
      (s.coreAt m).win.kind ≠ .running) :=
  ⟨⟨1, 2, hub id id [], clear_of (by decide), by decide⟩,
    ⟨1, 0, hub id (fun c => { c with win := { c.win with cmdstat := 1 } }) [], 0, clear_of (by decide), by decide, rfl⟩,
    ⟨1, 0, hub id id [], 0, clear_of (by decide), by decide, by decide, rfl⟩,
    ⟨1, 0, hub id (fun c => { c with win := { c.win with kind := .lead } }) [], 0, clear_of (by decide), by decide,
      by decide, by decide⟩⟩

theorem witness_HaltStatus :
    (∃ d a s, Clear (.zHstop d a) s ∧ s.targetCore s.cur (s.x a) = none) ∧
    (∃ d a s m, Clear (.zHstop d a) s ∧ s.targetCore s.cur (s.x a) = some m ∧ (s.coreAt m).run = .absent) ∧
    (∃ d a s m, Clear (.zHstop d a) s ∧ s.targetCore s.cur (s.x a) = some m ∧ (s.coreAt m).run ≠ .absent ∧
      (s.coreAt m).win.kind ≠ .running) ∧
    (∃ d a s m, Clear (.zHstop d a) s ∧ s.targetCore s.cur (s.x a) = some m ∧ (s.coreAt m).run ≠ .absent ∧
      (s.coreAt m).win.kind = .running) :=
  ⟨⟨1, 2, hub id id [], clear_of (by decide), by decide⟩,
    ⟨1, 1, hub id id [], 5, clear_of (by decide), by decide, by decide⟩,
    ⟨1, 0, hub id (fun c => { c with win := { c.win with kind := .lead } }) [], 0, clear_of (by decide), by decide,
      by decide, by decide⟩,
    ⟨1, 0, hub id id [], 0, clear_of (by decide), by decide, by decide, rfl⟩⟩

theorem witness_InvalidationsDrop : ∃ s p, s.partOf s.cur = some p ∧ (∀ e ∈ s.clusters, e.2.cmds = []) ∧
    (∃ a, Clear (.zInva a) s ∧ (s.x a).toNat < 2 ^ 16) ∧
    (∃ a b, Clear (.zInvs a b) s ∧ (s.x a).toNat < 2 ^ 16 ∧ (s.x b).toNat < 2 ^ 57) ∧ Clear .zInvp s :=
  ⟨hub id id [], 0, by decide, nofun, ⟨1, clear_of (by decide), by decide⟩,
    ⟨1, 3, clear_of (by decide), by decide, by decide⟩, clear_of (by decide)⟩

/-- Partition 0 with its root region, and a block of a group at 0x2000, which the page tables put at 0x62000. -/
def spawning (m : List Host.Cell) : State :=
  withMem (hub id id [Region.make 0 0 Rcb.zero .group 0 0]) (tables ++ m)

theorem witness_SpawnAnswers : (∃ d a p s t b, Clear (.zSpawn d a) s ∧ (s.x a).toNat % 64 = 0 ∧
      s.loadBlock s.cur (s.x a).toNat 32 = (t, .ok b) ∧ t.partOf s.cur = some p ∧
      spawnCode (t.partAt p) (t.spawnRoot s.cur) (t.onlineClusters p) b = 0) ∧
    ∃ d a p s t b, Clear (.zSpawn d a) s ∧ (s.x a).toNat % 64 = 0 ∧
      s.loadBlock s.cur (s.x a).toNat 32 = (t, .ok b) ∧ t.partOf s.cur = some p ∧
      spawnCode (t.partAt p) (t.spawnRoot s.cur) (t.onlineClusters p) b = 1 := by
  constructor
  · obtain ⟨t, v, e, h⟩ := ok_of
      (x := (spawning [(0x62000, 9), (0x62001, 0x42), (0x62002, 0x43), (0x62003, 0x52)]).loadBlock 7200 0x2000 32)
      (p := fun t b => decide (t.partOf 7200 = some 0) &&
        decide (spawnCode (t.partAt 0) (t.spawnRoot 7200) (t.onlineClusters 0) b = 0)) (by decide +kernel)
    rw [Bool.and_eq_true, decide_eq_true_eq, decide_eq_true_eq] at h
    exact ⟨1, 3, 0, spawning _, t, v, clear_of (by decide), by decide, e, h.1, h.2⟩
  · obtain ⟨t, v, e, h⟩ := ok_of (x := (spawning []).loadBlock 7200 0x2000 32)
      (p := fun t b => decide (t.partOf 7200 = some 0) &&
        decide (spawnCode (t.partAt 0) (t.spawnRoot 7200) (t.onlineClusters 0) b = 1)) (by decide +kernel)
    rw [Bool.and_eq_true, decide_eq_true_eq, decide_eq_true_eq] at h
    exact ⟨1, 3, 0, spawning _, t, v, clear_of (by decide), by decide, e, h.1, h.2⟩

theorem witness_KillAnswers : ∃ d a b p s, Clear (.zKill d a b) s ∧ s.partOf s.cur = some p ∧ s.kind = .hub ∧
    s.regionAt p (s.x a).toNat = none :=
  ⟨1, 1, 1, 0, hub id id [], clear_of (by decide), by decide, rfl, by decide⟩

theorem witness_KillAnswersInRoot : ∃ d a b p s, Clear (.zKill d a b) s ∧ s.partOf s.cur = some p ∧ s.kind = .hub ∧
    s.regionAt p (s.x a).toNat ≠ none ∧ below (s.partAt p).regions 0 (s.x a).toNat = true :=
  ⟨1, 1, 1, 0, hub (fun c => { c with x := [(1, 1)] }) id [Region.make 0 0 Rcb.zero .group 0 0, launch],
    clear_of (by decide), by decide, rfl, by decide, by decide⟩

/-- A launch like region 1 as region 2, a region that region 1's cores may kill where SROOT is r. -/
def lower (r : Nat) : List Region :=
  [{ launch with regid := 2, rcb := { launch.rcb with parent := r }, phase := .ready, clusters := [] }]

theorem witness_KillBelowSroot :
    (∃ d a b p s r, Clear (.zKill d a b) s ∧ s.partOf s.cur = some p ∧ s.kind ≠ .hub ∧ s.launchOf s.cur = some r ∧
      s.regionAt p (s.x a).toNat = none) ∧
    (∃ d a b p s r, Clear (.zKill d a b) s ∧ s.partOf s.cur = some p ∧ s.kind ≠ .hub ∧ s.launchOf s.cur = some r ∧
      s.regionAt p (s.x a).toNat ≠ none ∧
      ¬((s.x a).toNat = r.regid ∨ (r.rcb.sroot ≠ 0 ∧ below (s.partAt p).regions r.rcb.sroot (s.x a).toNat = true))) ∧
    ∃ d a b p s r, Clear (.zKill d a b) s ∧ s.partOf s.cur = some p ∧ s.kind ≠ .hub ∧ s.launchOf s.cur = some r ∧
      s.regionAt p (s.x a).toNat ≠ none ∧ r.rcb.sroot ≠ 0 ∧
      below (s.partAt p).regions r.rcb.sroot (s.x a).toNat = true ∧
      below (s.partAt p).regions (s.x a).toNat r.regid = false :=
  ⟨⟨1, 1, 1, 0, placed id launch [], launch, clear_of (by decide), by decide, by decide, by decide, by decide⟩,
    ⟨1, 1, 1, 0, placed (fun c => { c with x := [(1, 2)] }) launch (lower 0), launch, clear_of (by decide), by decide,
      by decide, by decide, by decide, by decide⟩,
    ⟨1, 1, 1, 0, placed (fun c => { c with x := [(1, 2)] }) { launch with rcb := { launch.rcb with sroot := 1 } }
        (lower 1), { launch with rcb := { launch.rcb with sroot := 1 } }, clear_of (by decide), by decide, by decide,
      by decide, by decide, by decide, by decide, by decide⟩⟩

theorem witness_SpawnNeedsSroot : ∃ d a p s t r b, Clear (.zSpawn d a) s ∧ s.kind ≠ .hub ∧ s.launchOf s.cur = some r ∧
    r.rcb.sroot = 0 ∧ (s.x a).toNat % 64 = 0 ∧ s.loadBlock s.cur (s.x a).toNat 32 = (t, .ok b) ∧
    t.partOf s.cur = some p ∧ t.launchOf s.cur = some r := by
  obtain ⟨t, v, e, h⟩ := ok_of (x := (withMem (placed id launch []) tables).loadBlock 0 0x2000 32)
    (p := fun t _ => decide (t.partOf 0 = some 0) && decide (t.launchOf 0 = some launch)) (by decide +kernel)
  rw [Bool.and_eq_true, decide_eq_true_eq, decide_eq_true_eq] at h
  exact ⟨1, 3, 0, withMem (placed id launch []) tables, t, launch, v, clear_of (by decide), by decide, by decide, rfl,
    by decide, e, h.1, h.2⟩

/-- A launch that waits, of a higher priority, as region 2. -/
def ready : Region := { launch with
  regid := 2, rcb := { launch.rcb with prio := 5 }, phase := .ready, clusters := [], started := false, order := 2 }

theorem witness_YieldMakesRoom :
    (∃ s p r, Clear .zYield s ∧ s.launchOf s.cur = some r ∧ s.partOf s.cur = some p ∧ s.yieldsTo p r = none) ∧
    ∃ s p r h, Clear .zYield s ∧ s.launchOf s.cur = some r ∧ s.partOf s.cur = some p ∧ s.yieldsTo p r = some h ∧
      r.phase = .placed :=
  ⟨⟨placed id launch [], 0, launch, clear_of (by decide), by decide, by decide, by decide⟩,
    ⟨placed id launch [ready], 0, launch, ready, clear_of (by decide), by decide, by decide, by decide, rfl⟩⟩

theorem witness_WriteWindows : ∃ d a p s, s.partOf s.cur = some p ∧ (∀ e ∈ s.clusters, e.2.cmds = []) ∧
    (∀ r ∈ (s.partAt p).regions, ∀ c ∈ r.saved, c.cmds = []) ∧ Clear (.zWsopen d a) s ∧ Clear (.zWsclose d a) s ∧
    s.core.wait ≠ .wsclose :=
  ⟨1, 0, 0, hub id id [], by decide, nofun, nofun, clear_of (by decide), clear_of (by decide), by decide⟩

theorem witness_WindowCloseWaits : ∃ d a p s, Clear (.zWsclose d a) s ∧ s.partOf s.cur = some p ∧
    s.core.wait ≠ .wsclose ∧ s.core.preempt = none ∧ (s.x a).toNat < 8 ∧ bitOf (s.partAt p).wsdies (s.x a).toNat = true ∧
    s.hub.windows.get false (s.x a).toNat = true ∧
    ∃ e ∈ s.clusters, ∃ m ∈ e.2.cmds, m.kind = .wsl ∧ m.part = p :=
  ⟨1, 0, 0, { hub id id [] with
      hub := { hubOn with windows := [(0, true)] }
      clusters := [(0, { Cluster.reset with cmds := [{ copyCmd with kind := .wsl }] })] }, clear_of (by decide),
    by decide, by decide, rfl, by decide, by decide, by decide, _, List.mem_singleton.2 rfl, _, List.mem_singleton.2 rfl,
    rfl, rfl⟩


/-! ### Vectors, masks, intervals -/

/-- Registers for the vector statements: v1, v2 S32, v3 IX, v4 and v5 FP32; k1 with two ones; q1 and q2. -/
def filled (c : Core) : Core := { c with
  vec := { c.vec with
    elems := [(512, 3), (513, 0xFFFFFFFE), (1024, 5), (1536, 8), (1537, 16), (2048, 0x3F800000), (2560, 0x40000000)]
    tags := [(1, .s32), (2, .s32), (3, .ix), (4, .fp32), (5, .fp32)]
    masks := [(512, true), (514, true)]
    pairs := [(512, 0x400000003F800000), (1024, 0x4080000040000000)] } }

theorem whole_of {s : State} (h : s.core.preempt = none ∧ (s.clusterAt (clusterOf s.cur)).badSlots = [] ∧
    s.core.stopMask = 0) : WholeStrip s := ⟨h.1, h.2.1, h.2.2⟩

theorem witness_VectorElementResults : ∃ (i : Instr) (s : State) (d : Nat) (t : Tag) (sel : Nat → Bool)
    (f : Nat → Half × Flags), vectorResult s.core i = some (d, t, sel, f) ∧ Clear i s ∧ WholeStrip s :=
  ⟨.vAdd 6 1 2 1 true, hart filled, 6, .s32, _, _, rfl, clear_of (by decide), whole_of (by decide)⟩

theorem witness_TagTraps : ∃ i s, tagChecked s.core i = true ∧ Clear i s :=
  ⟨.vAdd 6 1 4 0 false, hart filled, by decide, clear_of (by decide)⟩

theorem witness_VectorCompare : ∃ d a b km cond r s, Clear (.vCmp d a b km cond) s ∧ WholeStrip s ∧
    opRow false false (s.core.tag a) (s.core.tag b) = some r :=
  ⟨1, 1, 2, 0, .lt, _, hart filled, clear_of (by decide), whole_of (by decide), rfl⟩

theorem witness_VectorPermutations : ∃ (i : Instr) (s : State) (d : Nat) (t : Tag) (l : List (Nat × Half)),
    permuted s.core s.core.strip.len.toNat i = some (d, t, l) ∧ Clear i s ∧ WholeStrip s :=
  ⟨.vPerm 6 1 3 0, hart filled, 6, .s32, _, rfl, clear_of (by decide), whole_of (by decide)⟩

theorem witness_VectorToScalar : ∃ d a b s, Clear (.vMvx d a b) s ∧ WholeStrip s :=
  ⟨1, 1, 0, hart filled, clear_of (by decide), whole_of (by decide)⟩

theorem witness_ReductionTree : ∃ c : Core, c.stopMask = 0 := ⟨filled hartCore, by decide⟩

theorem witness_ReductionResults : ∃ (i : Instr) (s : State) (op : RedOp) (d a km : Nat) (t : Tag),
    reduction i = some (op, d, a, km) ∧ Clear i s ∧ WholeStrip s ∧ redTag op (s.core.tag a) = some t ∧
    s.core.tag d = t :=
  ⟨.vrSum 2 1 0, hart filled, .sum, 2, 1, 0, .s32, rfl, clear_of (by decide), whole_of (by decide), by decide,
    by decide⟩

theorem witness_MaskResults : ∃ (i : Instr) (s : State) (d : Nat) (bit : Nat → Bool),
    maskBits s.core s.core.strip.len.toNat i = some (d, bit) ∧ Clear i s ∧ WholeStrip s :=
  ⟨.kBrka 2 1, hart filled, 2, _, rfl, clear_of (by decide), whole_of (by decide)⟩

theorem witness_MaskCounts : ∃ d a s, WholeStrip s ∧ Clear (.kCnt d a) s ∧ Clear (.kFirst d a) s :=
  ⟨1, 1, hart filled, whole_of (by decide), clear_of (by decide), clear_of (by decide)⟩

theorem witness_IntervalForward : ∃ i s op d a b, intervalForm s.core i = some (op, d, a, b, false) ∧ Clear i s ∧
    WholeStrip s :=
  ⟨.qAdd 3 1 2 false, hart filled, .add, 3, 1, 2, rfl, clear_of (by decide), whole_of (by decide)⟩

theorem witness_IntervalContractors : ∃ i s op d a b, intervalForm s.core i = some (op, d, a, b, true) ∧ Clear i s ∧
    WholeStrip s :=
  ⟨.qMul 3 1 2 true, hart filled, .mul, 3, 1, 2, rfl, clear_of (by decide), whole_of (by decide)⟩

theorem witness_IntervalResults : ∃ i s c, intervalResult s.core s.core.strip.len.toNat i = some c ∧ Clear i s ∧
    WholeStrip s :=
  ⟨.qMk 3 4 5, hart filled, _, rfl, clear_of (by decide), whole_of (by decide)⟩

/-! ### Memory instructions of the lanes -/

/-- An option that is there, with a value that meets a condition. -/
theorem some_of {x : Option α} {p : α → Bool} (h : (x.map p).getD false = true) : ∃ v, x = some v ∧ p v = true := by
  cases x with
  | none => cases h
  | some v => exact ⟨v, rfl, h⟩

/-- A run over elements that stops at none. -/
def doneWith (x : State × List α × Option β) (p : State → List α → Bool) : Bool := match x with
  | (t, l, none) => p t l
  | (_, _, some _) => false

theorem done_of {x : State × List α × Option β} {p : State → List α → Bool} (h : doneWith x p = true) :
    ∃ t l, x = (t, l, none) ∧ p t l = true := by
  obtain ⟨t, l, v | v⟩ := x
  · exact ⟨t, l, rfl, h⟩
  · cases h

/-- A run over elements that stops at none and misses none. -/
def cleanWith (x : State × List α × Option β × List γ) (p : State → List α → Bool) : Bool := match x with
  | (t, l, none, []) => p t l
  | _ => false

theorem clean_of {x : State × List α × Option β × List γ} {p : State → List α → Bool} (h : cleanWith x p = true) :
    ∃ t l, x = (t, l, none, []) ∧ p t l = true := by
  obtain ⟨t, l, v | v, m⟩ := x
  · cases m
    · exact ⟨t, l, rfl, h⟩
    · cases h
  · cases h

/-- A location in memory. -/
def memLoc : Loc → Bool
  | .mem _ _ _ => true
  | _ => false

theorem memLoc_of {l : Loc} (h : memLoc l = true) : ∃ runs io w, l = .mem runs io w := by
  cases l with
  | mem r i w => exact ⟨r, i, w, rfl⟩
  | host _ => cases h
  | regs _ _ => cases h
  | split _ _ => cases h

theorem inMemory_of {l : List (Nat × Elem × Loc)} (h : (l.all fun e => memLoc e.2.2) = true) : inMemory l :=
  fun e he => memLoc_of (List.all_eq_true.1 h e he)

theorem witness_VectorLoads : ∃ (i : Instr) (s t u : State) (km : Nat) (elem : Nat → Elem)
    (write : List (Nat × Nat) → Core → Core) (l : List (Nat × Elem × Loc)) (vals : List (Nat × Nat)),
    loadStripForm s.core i = some (km, elem, write) ∧ Clear i s ∧ WholeStrip s ∧
    checks (s.core.mask km) (fun s' k => s'.checkElem (s.who s.cur) .read (elem k)) s.core.strip.len.toNat 0 s =
      (t, l, none) ∧ inMemory l ∧
    performs (fun s' _ x => s'.p0Load s.cur (s.who s.cur) x) l t = (u, vals, none) := by
  obtain ⟨t, l, e1, h⟩ := done_of (x := checks ((hart filled).core.mask 1)
    (fun s' k => s'.checkElem ((hart filled).who 0) .read (elemOf .s16 0x2000 k)) 8 0 (hart filled))
    (p := fun t l => (l.all fun e => memLoc e.2.2) &&
      doneWith (performs (fun s' _ x => s'.p0Load 0 ((hart filled).who 0) x) l t) fun _ _ => true) (by decide)
  rw [Bool.and_eq_true] at h
  obtain ⟨u, vals, e2, -⟩ := done_of h.2
  exact ⟨.vldUn 6 3 1 .s16, hart filled, t, u, 1, _, _, l, vals, rfl, clear_of (by decide), whole_of (by decide), e1,
    inMemory_of h.1, e2⟩

/-- A run over elements that comes to a condition. -/
def foundWith (x : State × List α × Option (Nat × Hit)) (j : Nat) (h : Hit) (p : State → List α → Bool) : Bool :=
  match x with
  | (t, l, some f) => decide (f = (j, h)) && p t l
  | (_, _, none) => false

theorem found_of {x : State × List α × Option (Nat × Hit)} {j : Nat} {h : Hit} {p : State → List α → Bool}
    (e : foundWith x j h p = true) : ∃ t l, x = (t, l, some (j, h)) ∧ p t l = true := by
  obtain ⟨t, l, v | v⟩ := x
  · cases e
  · simp only [foundWith, Bool.and_eq_true, decide_eq_true_eq] at e
    exact ⟨t, l, by rw [e.1], e.2⟩

/-- A hart whose divisions by zero stop. -/
def dividing : State := hart fun c => { filled c with modes := { c.modes with vcfg := 8 } }

theorem witness_FlagsStopElements : ∃ (i : Instr) (s : State) (d : Nat) (t : Tag) (sel : Nat → Bool)
    (f : Nat → Half × Flags) (j : Nat), vectorResult s.core i = some (d, t, sel, f) ∧ Clear i s ∧
    (∀ b, (s.core.preempt.bind fun p => p.bound) = some b → j ≤ b) ∧ (s.clusterAt (clusterOf s.cur)).badSlots = [] ∧ j < s.core.strip.len.toNat ∧ sel j = true ∧
    (f j).2 &&& s.core.stopMask ≠ 0 ∧ (∀ k < j, sel k = true → (f k).2 &&& s.core.stopMask = 0) ∧ s.core.moved j ≠ 0 :=
  ⟨.vDiv 6 1 2 0, dividing, 6, .s32, _, _, 1, rfl, clear_of (by decide), nofun, by decide, by decide, by decide,
    by decide, by decide, by decide⟩

/-- Hart 0 with 40 elements, asked to leave at row 1. -/
def cutting : State := hart fun c => { filled c with
  strip := { c.strip with len := 40, granted := 40 }, preempt := some ⟨some 32, 0⟩ }

theorem witness_PreemptsCut : ∃ (s : State) (b : Nat), (s.clusterAt (clusterOf s.cur)).badSlots = [] ∧
    (s.core.preempt.bind fun p => p.bound) = some b ∧ b < s.core.strip.len.toNat ∧ s.core.moved b ≠ 0 ∧
    (∃ i d t sel f, Clear i s ∧ vectorResult s.core i = some (d, t, sel, f) ∧
      ∀ k ≤ b, sel k = true → (f k).2 &&& s.core.stopMask = 0) ∧
    (∃ i d t l, Clear i s ∧ permutedBelow s.core s.core.strip.len.toNat (s.core.moved b) i = some (d, t, l)) ∧
    ∃ i d bit, Clear i s ∧ maskBits s.core s.core.strip.len.toNat i = some (d, bit) :=
  ⟨cutting, 32, rfl, rfl, by decide, by decide,
    ⟨.vMov 6 1 0, 6, .s32, _, _, clear_of (by decide), rfl, fun _ _ _ => by simp⟩,
    ⟨.vComp 6 1 1, 6, .s32, _, clear_of (by decide), rfl⟩, ⟨.kNot 2 1, 2, _, clear_of (by decide), rfl⟩⟩
/-- The launch of hart 0 whose pages from 0x20000 on are not present. -/
def halfMapped : State := withMem (placed (fun c => { filled c with x := [(1, 0x8000), (3, 0x8000)] }) launch []) tables

theorem witness_ConditionsStopLoads : ∃ (i : Instr) (s t u : State) (km : Nat) (elem : Nat → Elem)
    (write : List (Nat × Nat) → Core → Core) (l : List (Nat × Elem × Loc)) (found : Option (Nat × Hit)) (j : Nat) (h : Hit)
    (vals : List (Nat × Nat)), loadStripForm s.core i = some (km, elem, write) ∧ Clear i s ∧
    (s.clusterAt (clusterOf s.cur)).badSlots = [] ∧
    checks (s.core.mask km) (fun s' k => s'.checkElem (s.who s.cur) .read (elem k)) s.core.strip.len.toNat 0 s =
      (t, l, found) ∧ cutAt s.core s.core.strip.len.toNat found = some (j, h) ∧ t.fate s.cur h.cond = .stop h.cond ∧ s.core.moved j ≠ 0 ∧
    inMemory (l.filter fun x => x.1 < s.core.moved j) ∧
    performs (fun s' _ x => s'.p0Load s.cur (s.who s.cur) x) (l.filter fun x => x.1 < s.core.moved j) t =
      (u, vals, none) := by
  obtain ⟨t, l, e1, h⟩ := found_of (x := checks (halfMapped.core.mask 0)
    (fun s' k => s'.checkElem (halfMapped.who 0) .read (elemAt .s32 ((0x8000 : Word) + .ofNat 64 k * 0x8000).toNat)) 8 0
    halfMapped) (j := 3) (h := ⟨.notPresent, 0x20000⟩) (p := fun t l => decide (t.fate 0 .notPresent = .stop .notPresent) &&
      (((l.filter fun x => x.1 < 3).all fun e => memLoc e.2.2) &&
      doneWith (performs (fun s' _ x => s'.p0Load 0 (halfMapped.who 0) x) (l.filter fun x => x.1 < 3) t) fun _ _ => true))
    (by decide +kernel)
  simp only [Bool.and_eq_true, decide_eq_true_eq] at h
  obtain ⟨u, vals, e2, -⟩ := done_of h.2.2
  exact ⟨.vldSd 6 3 1 0 .s32, halfMapped, t, u, 0, _, _, l, _, 3, ⟨.notPresent, 0x20000⟩, vals, rfl, clear_of (by decide),
    rfl, e1, rfl, h.1, by decide, inMemory_of h.2.1, e2⟩

/-- The same where the first element's page is not present. -/
def unmapped : State := withMem (placed (fun c => { filled c with x := [(1, 0x20000), (3, 0x20000)] }) launch []) tables

theorem witness_ConditionsStopStores : ∃ (i : Instr) (s t u : State) (km : Nat) (elem : Nat → Elem) (code : Nat → Nat)
    (l : List (Nat × Elem × Loc)) (found : Option (Nat × Hit)) (j : Nat) (h : Hit) (vals : List (Nat × Unit)),
    storeStripForm s.core i = some (km, elem, code) ∧ Clear i s ∧ (s.clusterAt (clusterOf s.cur)).badSlots = [] ∧
    checks (s.core.mask km) (fun s' k => s'.checkElem (s.who s.cur) .write (elem k)) s.core.strip.len.toNat 0 s =
      (t, l, found) ∧ cutAt s.core s.core.strip.len.toNat found = some (j, h) ∧ t.fate s.cur h.cond = .stop h.cond ∧
    s.core.moved j ≠ 0 ∧ inMemory (l.filter fun x => x.1 < s.core.moved j) ∧
    performs (fun s' k x => s'.p0Store s.cur (s.who s.cur) x (code k)) (l.filter fun x => x.1 < s.core.moved j)
      (t.windowRepair (l.filter fun x => x.1 < s.core.moved j)) = (u, vals, none) := by
  obtain ⟨t, l, e1, h⟩ := found_of (x := checks (halfMapped.core.mask 0)
    (fun s' k => s'.checkElem (halfMapped.who 0) .write (elemAt .s32 ((0x8000 : Word) + .ofNat 64 k * 0x8000).toNat)) 8 0
    halfMapped) (j := 3) (h := ⟨.notPresent, 0x20000⟩) (p := fun t l => decide (t.fate 0 .notPresent = .stop .notPresent) &&
      (((l.filter fun x => x.1 < 3).all fun e => memLoc e.2.2) &&
      doneWith (performs (fun s' k x => s'.p0Store 0 (halfMapped.who 0) x (narrow .s32 .s32 (halfMapped.core.elem 1 k)))
        (l.filter fun x => x.1 < 3) (t.windowRepair (l.filter fun x => x.1 < 3))) fun _ _ => true))
    (by decide +kernel)
  simp only [Bool.and_eq_true, decide_eq_true_eq] at h
  obtain ⟨u, vals, e2, -⟩ := done_of h.2.2
  exact ⟨.vstSd 1 3 1 0 .s32, halfMapped, t, u, 0, _, _, l, _, 3, ⟨.notPresent, 0x20000⟩, vals, rfl, clear_of (by decide),
    rfl, e1, rfl, h.1, by decide, inMemory_of h.2.1, e2⟩

/-- A run over elements checked all, that comes to a condition. -/
def missedWith (x : State × List α × Option (Nat × Hit) × List γ) (j : Nat) (h : Hit) (p : State → List α → Bool) : Bool :=
  match x with
  | (t, l, some f, _) => decide (f = (j, h)) && p t l
  | (_, _, none, _) => false

theorem missed_of {x : State × List α × Option (Nat × Hit) × List γ} {j : Nat} {h : Hit} {p : State → List α → Bool}
    (e : missedWith x j h p = true) : ∃ t l m, x = (t, l, some (j, h), m) ∧ p t l = true := by
  obtain ⟨t, l, v | v, m⟩ := x
  · cases e
  · simp only [missedWith, Bool.and_eq_true, decide_eq_true_eq] at e
    exact ⟨t, l, m, by rw [e.1], e.2⟩

/-- The same hart with an index register whose element 1 leads to a page not present. -/
def scattered : State := withMem (placed (fun c => { filled c with
  x := [(3, 0x8000)], vec := { (filled c).vec with elems := [(1537, 0x6000)] } }) launch []) tables

theorem witness_ConditionsStopGathers : ∃ (s s0 t u : State) (d a b km : Nat) (f : Fmt) (l : List (Nat × Elem × Loc))
    (found : Option (Nat × Hit)) (miss : List (Nat × Nat)) (j : Nat) (h : Hit) (vals : List (Nat × Nat)),
    let n := s.core.strip.len.toNat
    let w := s.who s.cur
    let elem := indexedElem s.core a b f
    let low := l.filter fun x => x.1 < s.core.moved j
    Clear (.vldX d a b km f) s ∧ (s.clusterAt (clusterOf s.cur)).badSlots = [] ∧ Tag.isIndex (s.core.tag b) = true ∧
    s.budgeted s.cur 4 1 = some s0 ∧
    checksAll (s.core.mask km) (indexedCheck w .read false elem) (indexedPages w .read elem) n 0 s0 =
      (t, l, found, miss) ∧ cutAt s.core n found = some (j, h) ∧ t.fate s.cur h.cond = .stop h.cond ∧
    s.core.moved j ≠ 0 ∧ inMemory low ∧
    performs (fun s' _ x => s'.loadElem w x) low (broadcast s.cur low t) = (u, vals, none) := by
  obtain ⟨s0, e0, h⟩ := some_of (x := scattered.budgeted 0 4 1) (p := fun s0 =>
    missedWith (checksAll (scattered.core.mask 0) (indexedCheck (scattered.who 0) .read false (indexedElem scattered.core 3 3 .s32))
      (indexedPages (scattered.who 0) .read (indexedElem scattered.core 3 3 .s32)) 8 0 s0) 1 ⟨.notPresent, 0x20000⟩
      fun t l => decide (t.fate 0 .notPresent = .stop .notPresent) && (((l.filter fun x => x.1 < 1).all fun e => memLoc e.2.2) &&
        doneWith (performs (fun s' _ x => s'.loadElem (scattered.who 0) x) (l.filter fun x => x.1 < 1)
          (broadcast 0 (l.filter fun x => x.1 < 1) t)) fun _ _ => true)) (by decide +kernel)
  obtain ⟨t, l, m, e1, h⟩ := missed_of h
  simp only [Bool.and_eq_true, decide_eq_true_eq] at h
  obtain ⟨u, vals, e2, -⟩ := done_of h.2.2
  exact ⟨scattered, s0, t, u, 6, 3, 3, 0, .s32, l, _, m, 1, _, vals, clear_of (by decide), rfl, by decide, e0, e1, rfl, h.1,
    by decide, inMemory_of h.2.1, e2⟩

theorem witness_ConditionsStopScatters : ∃ (i : Instr) (s s0 t u : State) (d a b km : Nat) (f : Fmt)
    (new : Nat → Nat → Nat) (back rmw : Bool) (l : List (Nat × Elem × Loc)) (found : Option (Nat × Hit))
    (miss : List (Nat × Nat)) (j : Nat) (h : Hit) (olds : List (Nat × Nat)),
    let n := s.core.strip.len.toNat
    let w := s.who s.cur
    let elem := indexedElem s.core a b f
    let low := l.filter fun x => x.1 < s.core.moved j
    indexedForm s.core i = some (d, a, b, km, f, new, back, rmw) ∧ Clear i s ∧
    (s.clusterAt (clusterOf s.cur)).badSlots = [] ∧ Tag.isIndex (s.core.tag b) = true ∧
    s.budgeted s.cur 4 1 = some s0 ∧
    checksAll (s.core.mask km) (indexedCheck w .write rmw elem) (indexedPages w .write elem) n 0 s0 =
      (t, l, found, miss) ∧ cutAt s.core n found = some (j, h) ∧ t.fate s.cur h.cond = .stop h.cond ∧
    s.core.moved j ≠ 0 ∧ inMemory low ∧
    performs (indexedAct w rmw new) low
      (if rmw then broadcast s.cur low t else (broadcast s.cur low t).windowRepair low) = (u, olds, none) := by
  obtain ⟨s0, e0, h⟩ := some_of (x := scattered.budgeted 0 4 1) (p := fun s0 =>
    missedWith (checksAll (scattered.core.mask 0) (indexedCheck (scattered.who 0) .write true (indexedElem scattered.core 3 3 .s32))
      (indexedPages (scattered.who 0) .write (indexedElem scattered.core 3 3 .s32)) 8 0 s0) 1 ⟨.notPresent, 0x20000⟩
      fun t l => decide (t.fate 0 .notPresent = .stop .notPresent) && (((l.filter fun x => x.1 < 1).all fun e => memLoc e.2.2) &&
        doneWith (performs (indexedAct (scattered.who 0) true
            fun k old => (BitVec.ofNat 32 old + scattered.core.elem 1 k).toNat) (l.filter fun x => x.1 < 1)
          (broadcast 0 (l.filter fun x => x.1 < 1) t)) fun _ _ => true)) (by decide +kernel)
  obtain ⟨t, l, m, e1, h⟩ := missed_of h
  simp only [Bool.and_eq_true, decide_eq_true_eq] at h
  obtain ⟨u, vals, e2, -⟩ := done_of h.2.2
  exact ⟨.vamAdd 1 3 3 0, scattered, s0, t, u, 1, 3, 3, 0, .s32, _, true, true, l, _, m, 1, _, vals, rfl, clear_of (by decide),
    rfl, by decide, e0, e1, rfl, h.1, by decide, inMemory_of h.2.1, e2⟩

theorem witness_StopsAtFirst :
    (∃ (i : Instr) (s t : State) (km : Nat) (elem : Nat → Elem) (code : Nat → Nat) (l : List (Nat × Elem × Loc))
      (found : Option (Nat × Hit)) (j : Nat) (h : Hit), storeStripForm s.core i = some (km, elem, code) ∧ Clear i s ∧
      checks (s.core.mask km) (fun s' k => s'.checkElem (s.who s.cur) .write (elem k)) s.core.strip.len.toNat 0 s =
        (t, l, found) ∧ cutAt s.core s.core.strip.len.toNat found = some (j, h) ∧ t.fate s.cur h.cond = .stop h.cond ∧
      s.core.moved j = 0) ∧
    ∃ (s s0 t : State) (d a b km : Nat) (f : Fmt) (l : List (Nat × Elem × Loc)) (found : Option (Nat × Hit))
      (miss : List (Nat × Nat)) (j : Nat) (h : Hit),
      let elem := indexedElem s.core a b f
      Clear (.vldX d a b km f) s ∧ Tag.isIndex (s.core.tag b) = true ∧ s.budgeted s.cur 4 1 = some s0 ∧
      checksAll (s.core.mask km) (indexedCheck (s.who s.cur) .read false elem) (indexedPages (s.who s.cur) .read elem)
        s.core.strip.len.toNat 0 s0 = (t, l, found, miss) ∧ cutAt s.core s.core.strip.len.toNat found = some (j, h) ∧
      t.fate s.cur h.cond = .stop h.cond ∧ s.core.moved j = 0 := by
  constructor
  · obtain ⟨t, l, e1, h⟩ := found_of (x := checks (unmapped.core.mask 0)
      (fun s' k => s'.checkElem (unmapped.who 0) .write (elemOf .s32 0x20000 k)) 8 0 unmapped) (j := 0)
      (h := ⟨.notPresent, 0x20000⟩) (p := fun t _ => decide (t.fate 0 .notPresent = .stop .notPresent))
      (by decide +kernel)
    exact ⟨.vstUn 1 3 0 .s32, unmapped, t, 0, _, _, l, _, 0, ⟨.notPresent, 0x20000⟩, rfl, clear_of (by decide), e1, rfl,
      of_decide_eq_true h, by decide⟩
  · obtain ⟨s0, e0, h⟩ := some_of (x := unmapped.budgeted 0 4 1) (p := fun s0 =>
      missedWith (checksAll (unmapped.core.mask 0)
        (indexedCheck (unmapped.who 0) .read false (indexedElem unmapped.core 3 3 .s32))
        (indexedPages (unmapped.who 0) .read (indexedElem unmapped.core 3 3 .s32)) 8 0 s0) 0 ⟨.notPresent, 0x20020⟩
        fun t _ => decide (t.fate 0 .notPresent = .stop .notPresent)) (by decide +kernel)
    obtain ⟨t, l, m, e1, h⟩ := missed_of h
    exact ⟨unmapped, s0, t, 6, 3, 3, 0, .s32, l, _, m, 0, _, clear_of (by decide), by decide, e0, e1, rfl,
      of_decide_eq_true h, by decide⟩

theorem witness_BatchRecords : (∃ (s : State) (core : Nat), s.demand core = true) ∧ ∃ (s : State) (core : Nat), s.demand core = false :=
  ⟨⟨halfMapped, 0, by decide⟩, ⟨hart id, 0, by decide⟩⟩

theorem witness_ReductionsStop : ∃ (i : Instr) (s : State) (op : RedOp) (d a km j : Nat) (t : Tag) (h : Hit),
    let n := s.core.strip.len.toNat
    reduction i = some (op, d, a, km) ∧ Clear i s ∧ (s.clusterAt (clusterOf s.cur)).badSlots = [] ∧
    redTag op (s.core.tag a) = some t ∧ s.core.tag d = t ∧
    cutAt s.core n (s.core.reduce (s.core.tag a) (redOp op s.core.ftz s.core.vrm t) a km n
      ((min n ((s.core.preempt.bind fun p => p.bound).getD n) + 31) / 32) 0 (s.core.elem d 0) 0).2.2 = some (j, h) ∧
    s.core.moved j ≠ 0 :=
  ⟨.vrSum 2 1 0, cutting, .sum, 2, 1, 0, 32, .s32, ⟨.preempt, 0⟩, rfl, clear_of (by decide), rfl, by decide, by decide,
    by decide, by decide⟩
theorem witness_ConditionsStopFirst : ∃ (i : Instr) (s t : State) (km : Nat) (elem : Nat → Elem)
    (write : List (Nat × Nat) → Core → Core) (l : List (Nat × Elem × Loc)) (found : Option (Nat × Hit)) (j : Nat) (h : Hit),
    loadStripForm s.core i = some (km, elem, write) ∧ Clear i s ∧ (s.clusterAt (clusterOf s.cur)).badSlots = [] ∧
    checks (s.core.mask km) (fun s' k => s'.checkElem (s.who s.cur) .read (elem k)) s.core.strip.len.toNat 0 s =
      (t, l, found) ∧ cutAt s.core s.core.strip.len.toNat found = some (j, h) ∧ t.fate s.cur h.cond = .stop h.cond ∧ s.core.moved j = 0 := by
  obtain ⟨t, l, e1, h⟩ := found_of (x := checks (unmapped.core.mask 0)
    (fun s' k => s'.checkElem (unmapped.who 0) .read (elemOf .s32 0x20000 k)) 8 0 unmapped) (j := 0)
    (h := ⟨.notPresent, 0x20000⟩) (p := fun t _ => decide (t.fate 0 .notPresent = .stop .notPresent))
    (by decide +kernel)
  exact ⟨.vldUn 6 3 0 .s32, unmapped, t, 0, _, _, l, _, 0, ⟨.notPresent, 0x20000⟩, rfl, clear_of (by decide), rfl, e1, rfl,
    of_decide_eq_true h, by decide⟩

theorem witness_EmptyStripsRetire : ∃ (i : Instr) (s : State), reachesLanes (firstWord i) = true ∧ s.core.strip.len = 0 ∧
    s.serviceHeld s.cur = false ∧ s.core.resume = none ∧ s.decodeCause s.cur i = none ∧ s.core.rider = none :=
  ⟨.vMvx 5 1 6, hart fun c => { c with strip := { c.strip with len := 0 } }, by decide, rfl, by decide, rfl, by decide, rfl⟩

theorem witness_EmptyKStripsRetire : ∃ (d a b pp : Nat) (s : State), s.core.strip.len = 0 ∧ Clear (.mOp d a b pp) s ∧
    Clear (.mOpc d a b pp) s :=
  ⟨0, 1, 1, 0, treadle fun c => { c with strip := { c.strip with len := 0 } }, rfl, clear_of (by decide),
    clear_of (by decide)⟩

theorem witness_VectorStores : ∃ (i : Instr) (s t u : State) (km : Nat) (elem : Nat → Elem) (code : Nat → Nat)
    (l : List (Nat × Elem × Loc)) (vals : List (Nat × Unit)),
    storeStripForm s.core i = some (km, elem, code) ∧ Clear i s ∧ WholeStrip s ∧
    checks (s.core.mask km) (fun s' k => s'.checkElem (s.who s.cur) .write (elem k)) s.core.strip.len.toNat 0 s =
      (t, l, none) ∧ inMemory l ∧
    performs (fun s' k x => s'.p0Store s.cur (s.who s.cur) x (code k)) l (t.windowRepair l) = (u, vals, none) := by
  obtain ⟨t, l, e1, h⟩ := done_of (x := checks ((hart filled).core.mask 1)
    (fun s' k => s'.checkElem ((hart filled).who 0) .write (elemOf .s16 0x2000 k)) 8 0 (hart filled))
    (p := fun t l => (l.all fun e => memLoc e.2.2) &&
      doneWith (performs (fun s' k x => s'.p0Store 0 ((hart filled).who 0) x
        (narrow .s16 .s32 ((hart filled).core.elem 1 k))) l (t.windowRepair l)) fun _ _ => true) (by decide)
  rw [Bool.and_eq_true] at h
  obtain ⟨u, vals, e2, -⟩ := done_of h.2
  exact ⟨.vstUn 1 3 1 .s16, hart filled, t, u, 1, _, _, l, vals, rfl, clear_of (by decide), whole_of (by decide), e1,
    inMemory_of h.1, e2⟩

theorem witness_Gathers : ∃ (s s0 t u : State) (d a b km : Nat) (f : Fmt) (l : List (Nat × Elem × Loc))
    (vals : List (Nat × Nat)), Clear (.vldX d a b km f) s ∧ WholeStrip s ∧ Tag.isIndex (s.core.tag b) = true ∧
    s.budgeted s.cur 4 1 = some s0 ∧
    checksAll (s.core.mask km) (indexedCheck (s.who s.cur) .read false (indexedElem s.core a b f))
      (indexedPages (s.who s.cur) .read (indexedElem s.core a b f)) s.core.strip.len.toNat 0 s0 = (t, l, none, []) ∧
    inMemory l ∧ performs (fun s' _ x => s'.loadElem (s.who s.cur) x) l (broadcast s.cur l t) = (u, vals, none) := by
  obtain ⟨t, l, e1, h⟩ := clean_of (x := checksAll ((hart filled).core.mask 1)
    (indexedCheck ((hart filled).who 0) .read false (indexedElem (hart filled).core 3 3 .s32))
    (indexedPages ((hart filled).who 0) .read (indexedElem (hart filled).core 3 3 .s32)) 8 0 (hart filled))
    (p := fun t l => (l.all fun e => memLoc e.2.2) &&
      doneWith (performs (fun s' _ x => s'.loadElem ((hart filled).who 0) x) l (broadcast 0 l t)) fun _ _ => true)
    (by decide)
  rw [Bool.and_eq_true] at h
  obtain ⟨u, vals, e2, -⟩ := done_of h.2
  exact ⟨hart filled, hart filled, t, u, 6, 3, 3, 1, .s32, l, vals, clear_of (by decide), whole_of (by decide),
    by decide, rfl, e1, inMemory_of h.1, e2⟩

/-- Hypotheses of ScattersAndVectorAtomics on an instruction of hart 0 with the registers above. -/
def scatters (i : Instr) (f : Fmt) (new : Nat → Nat → Nat) (back rmw : Bool) : Prop :=
  ∃ (s s0 t u : State) (d a b km : Nat) (l : List (Nat × Elem × Loc)) (olds : List (Nat × Nat)),
    indexedForm s.core i = some (d, a, b, km, f, new, back, rmw) ∧ Clear i s ∧ WholeStrip s ∧
    Tag.isIndex (s.core.tag b) = true ∧ s.budgeted s.cur 4 1 = some s0 ∧
    checksAll (s.core.mask km) (indexedCheck (s.who s.cur) .write rmw (indexedElem s.core a b f))
      (indexedPages (s.who s.cur) .write (indexedElem s.core a b f)) s.core.strip.len.toNat 0 s0 = (t, l, none, []) ∧
    inMemory l ∧ performs (indexedAct (s.who s.cur) rmw new) l
      (if rmw then broadcast s.cur l t else (broadcast s.cur l t).windowRepair l) = (u, olds, none)

theorem witness_ScattersAndVectorAtomics : ∃ i f new, scatters i f new true true := by
  obtain ⟨t, l, e1, h⟩ := clean_of (x := checksAll ((hart filled).core.mask 1)
    (indexedCheck ((hart filled).who 0) .write true (indexedElem (hart filled).core 3 3 .s32))
    (indexedPages ((hart filled).who 0) .write (indexedElem (hart filled).core 3 3 .s32)) 8 0 (hart filled))
    (p := fun t l => (l.all fun e => memLoc e.2.2) &&
      doneWith (performs (indexedAct ((hart filled).who 0) true
        fun k old => (BitVec.ofNat 32 old + (hart filled).core.elem 1 k).toNat) l (broadcast 0 l t)) fun _ _ => true)
    (by decide)
  rw [Bool.and_eq_true] at h
  obtain ⟨u, vals, e2, -⟩ := done_of h.2
  exact ⟨.vamAdd 1 3 3 1, .s32, _, hart filled, hart filled, t, u, 1, 3, 3, 1, l, vals, rfl, clear_of (by decide),
    whole_of (by decide), by decide, rfl, e1, inMemory_of h.1, e2⟩

theorem witness_Scatters : ∃ i f new, scatters i f new false false := by
  obtain ⟨t, l, e1, h⟩ := clean_of (x := checksAll ((hart filled).core.mask 1)
    (indexedCheck ((hart filled).who 0) .write false (indexedElem (hart filled).core 3 3 .s16))
    (indexedPages ((hart filled).who 0) .write (indexedElem (hart filled).core 3 3 .s16)) 8 0 (hart filled))
    (p := fun t l => (l.all fun e => memLoc e.2.2) &&
      doneWith (performs (indexedAct ((hart filled).who 0) false
        fun k _ => narrow .s16 .s32 ((hart filled).core.elem 1 k)) l ((broadcast 0 l t).windowRepair l)) fun _ _ => true)
    (by decide)
  rw [Bool.and_eq_true] at h
  obtain ⟨u, vals, e2, -⟩ := done_of h.2
  exact ⟨.vstX 1 3 3 1 .s16, .s16, _, hart filled, hart filled, t, u, 1, 3, 3, 1, l, vals, rfl, clear_of (by decide),
    whole_of (by decide), by decide, rfl, e1, inMemory_of h.1, e2⟩

/-! ### Streams -/

/-- A stream of 64 BF16 elements at an address, bound for reading or writing. -/
def bound (k : StreamState) (at_ : Word) (f : Fmt) (n : Nat) : Stream :=
  { Stream.reset with
    state := k, desc := ⟨at_, 0, 0, 0, 0, false, false, f, [n, 0, 0, 0], [1, 0, 0, 0]⟩ }

/-- Streams 1, bound for reading at 0x2000, and 2, for writing at 0x3000. -/
def streaming (c : Core) : Core :=
  { filled c with streams := [(1, bound .read 0x2000 .s16 64), (2, bound .write 0x3000 .s16 64)] }

theorem witness_StreamPositions : ∃ d a s, Clear (.sRel d) s ∧ Clear (.sSkip d a) s ∧
    (s.core.stream d).state ≠ .unbound ∧ Clear (.sPos d a) s :=
  ⟨1, 1, hart streaming, clear_of (by decide), clear_of (by decide), by decide, clear_of (by decide)⟩

/-- A descriptor of 64 BF16 elements at 0x4000. -/
def descBytes : List Host.Cell := [(0x2001, 0x40), (0x2010, 8), (0x2018, 64), (0x2028, 1)]

theorem witness_StreamBind : ∃ d a s t b, Clear (.sBind d a) s ∧ (s.x a).toNat % 64 = 0 ∧
    s.loadBlock s.cur (s.x a).toNat 8 = (t, .ok b) ∧ bindCause (t.masked s.cur) b = .inl none := by
  obtain ⟨t, b, e, h⟩ := ok_of (x := (withMem (hart id) descBytes).loadBlock 0 0x2000 8)
    (p := fun t b => decide (bindCause (t.masked 0) b = .inl none)) (by decide)
  exact ⟨1, 3, withMem (hart id) descBytes, t, b, clear_of (by decide), by decide, e, of_decide_eq_true h⟩

theorem witness_UnboundStreamsTrap : ∃ d a km s, Clear (.sSkip d a) s ∧ (s.core.stream d).state = .unbound ∧
    Clear (.vldSm d a km) s ∧ (s.core.stream a).state ≠ .read ∧ Clear (.vstSm d a km) s ∧
    (s.core.stream a).state ≠ .write :=
  ⟨3, 3, 0, hart streaming, clear_of (by decide), by decide, clear_of (by decide), by decide, clear_of (by decide),
    by decide⟩

theorem witness_StreamTagTraps : ∃ d a km s, Clear (.vstSm d a km) s ∧ (s.core.stream a).state = .write ∧
    storeAccepts (s.core.stream a).desc.fmt (s.core.tag d) = false :=
  ⟨4, 2, 0, hart streaming, clear_of (by decide), by decide, by decide⟩

/-- Positions in memory, with their scale bytes. -/
def readyB (l : List (Nat × Option Ready)) : Bool := l.all fun e => match e.2 with
  | none => true
  | some r => memLoc r.loc && (match r.scale with
    | none => true
    | some sl => memLoc sl)

theorem ready_of {l : List (Nat × Option Ready)} (h : readyB l = true) : ∀ e ∈ l, ∀ r, e.2 = some r →
    (∃ runs io w, r.loc = .mem runs io w) ∧ ∀ sl, r.scale = some sl → ∃ runs io w, sl = .mem runs io w := by
  intro e he r hr
  have h := List.all_eq_true.1 h e he
  rw [hr] at h
  simp only [Bool.and_eq_true] at h
  exact ⟨memLoc_of h.1, fun sl hs => memLoc_of (by simpa [hs] using h.2)⟩

theorem witness_StreamLoads : ∃ (d a km : Nat) (s u : State) (vals : List (Nat × Option (Nat × Nat))),
    let loc := s.consume s.cur a km (s.core.stream a) (s.takes s.cur a 0 d)
    Clear (.vldSm d a km) s ∧ WholeStrip s ∧ (s.core.stream a).state = .read ∧ loc.found = none ∧
    performs (streamRead s.cur) loc.elems loc.s = (u, vals, none) ∧
    ∀ e ∈ loc.elems, ∀ r, e.2 = some r → ∃ runs io w, r.loc = .mem runs io w := by
  obtain ⟨u, vals, e2, -⟩ := done_of (x :=
    let loc := (hart streaming).consume 0 1 1 ((hart streaming).core.stream 1) ((hart streaming).takes 0 1 0 6)
    performs (streamRead 0) loc.elems loc.s) (p := fun _ _ => true) (by decide)
  exact ⟨6, 1, 1, hart streaming, u, vals, clear_of (by decide), whole_of (by decide), by decide, by decide, e2,
    fun e he r hr => (ready_of (by decide) e he r hr).1⟩

theorem witness_StreamStores : ∃ (d a km : Nat) (s u : State) (vals : List (Nat × Unit)),
    let c := s.core
    let st := c.stream a
    let loc := s.consume s.cur a km st (s.takes s.cur a 0 d)
    Clear (.vstSm d a km) s ∧ WholeStrip s ∧ st.state = .write ∧ storeAccepts st.desc.fmt (c.tag d) = true ∧
    loc.found = none ∧
    writeRun (s.who s.cur) st.desc (fun k => slotVal (c.tag d) (c.elem d k))
      (fun k => narrow st.desc.fmt (c.tag d) (c.elem d k)) loc.elems loc.s = (u, vals, none) ∧
    ∀ e ∈ loc.elems, ∀ r, e.2 = some r → (∃ runs io w, r.loc = .mem runs io w) ∧
      ∀ sl, r.scale = some sl → ∃ runs io w, sl = .mem runs io w := by
  obtain ⟨u, vals, e2, -⟩ := done_of (x :=
    let c := (hart streaming).core
    let loc := (hart streaming).consume 0 2 0 (c.stream 2) ((hart streaming).takes 0 2 0 1)
    writeRun ((hart streaming).who 0) (c.stream 2).desc (fun k => slotVal (c.tag 1) (c.elem 1 k))
      (fun k => narrow (c.stream 2).desc.fmt (c.tag 1) (c.elem 1 k)) loc.elems loc.s)
    (p := fun _ _ => true) (by decide)
  exact ⟨1, 2, 0, hart streaming, u, vals, clear_of (by decide), whole_of (by decide), by decide, by decide, by decide,
    e2, ready_of (by decide)⟩

/-- Streams of five elements each, bound as above. -/
def ending (c : Core) : Core :=
  { filled c with streams := [(1, bound .read 0x2000 .s16 5), (2, bound .write 0x3000 .s16 5)] }

theorem witness_ConditionsStopStreams :
    (∃ (d a km j : Nat) (s u : State) (h : Hit) (vals : List (Nat × Option (Nat × Nat))),
      let st := s.core.stream a
      let loc := s.consume s.cur a km st (s.takes s.cur a 0 d)
      let low := loc.elems.filter fun x => x.1 < s.core.moved j
      (s.clusterAt (clusterOf s.cur)).badSlots = [] ∧ cutAt s.core s.core.strip.len.toNat loc.found = some (j, h) ∧
      loc.s.fate s.cur h.cond = .stop h.cond ∧ Clear (.vldSm d a km) s ∧ st.state = .read ∧ s.core.moved j ≠ 0 ∧
      (∀ x ∈ low, ∀ r, x.2 = some r → ∃ runs io w, r.loc = .mem runs io w) ∧
      performs (streamRead s.cur) low loc.s = (u, vals, none)) ∧
    ∃ (d a km j : Nat) (s u : State) (h : Hit) (vals : List (Nat × Unit)),
      let c := s.core
      let st := c.stream a
      let loc := s.consume s.cur a km st (s.takes s.cur a 0 d)
      let low := loc.elems.filter fun x => x.1 < c.moved j
      (s.clusterAt (clusterOf s.cur)).badSlots = [] ∧ cutAt c c.strip.len.toNat loc.found = some (j, h) ∧
      loc.s.fate s.cur h.cond = .stop h.cond ∧ Clear (.vstSm d a km) s ∧ st.state = .write ∧
      storeAccepts st.desc.fmt (c.tag d) = true ∧ c.moved j ≠ 0 ∧
      (∀ x ∈ low, ∀ r, x.2 = some r → (∃ runs io w, r.loc = .mem runs io w) ∧
        ∀ sl, r.scale = some sl → ∃ runs io w, sl = .mem runs io w) ∧
      writeRun (s.who s.cur) st.desc (fun k => slotVal (c.tag d) (c.elem d k))
        (fun k => narrow st.desc.fmt (c.tag d) (c.elem d k)) low loc.s = (u, vals, none) := by
  constructor
  · obtain ⟨u, vals, e2, -⟩ := done_of (x :=
      let loc := (hart ending).consume 0 1 1 ((hart ending).core.stream 1) ((hart ending).takes 0 1 0 6)
      performs (streamRead 0) (loc.elems.filter fun x => x.1 < (hart ending).core.moved 5) loc.s) (p := fun _ _ => true)
      (by decide)
    exact ⟨6, 1, 1, 5, hart ending, u, ⟨.streamEnd 1 5, endValue 1 5⟩, vals, rfl, by decide, by decide, clear_of (by decide),
      by decide, by decide, fun e he r hr => (ready_of (by decide) e he r hr).1, e2⟩
  · obtain ⟨u, vals, e2, -⟩ := done_of (x :=
      let c := (hart ending).core
      let loc := (hart ending).consume 0 2 0 (c.stream 2) ((hart ending).takes 0 2 0 1)
      writeRun ((hart ending).who 0) (c.stream 2).desc (fun k => slotVal (c.tag 1) (c.elem 1 k))
        (fun k => narrow (c.stream 2).desc.fmt (c.tag 1) (c.elem 1 k)) (loc.elems.filter fun x => x.1 < c.moved 5) loc.s)
      (p := fun _ _ => true) (by decide)
    exact ⟨1, 2, 0, 5, hart ending, u, ⟨.streamEnd 2 5, endValue 2 5⟩, vals, rfl, by decide, by decide, clear_of (by decide),
      by decide, by decide, by decide, ready_of (by decide), e2⟩

/-! ### Tiles and engine commands -/

/-- A treadle with a tile of one row and two columns in BF16; streams 1 and 2 bound for reading, 3 for writing; x3 is
0x2000. -/
def tiled : State := { treadle fun c => { c with
    strip := { c.strip with len := 2, granted := 2 }
    streams := [(1, bound .read 0x3000 .bf16 8), (2, bound .read 0x3100 .bf16 8), (3, bound .write 0x3200 .f32 8)] } with
  clusters := [(0, { Cluster.reset with enable := true, cfg := 0x100, acc := [(0, 0x3F800000)] })] }

theorem witness_TileConfiguration : (∃ a s, Clear (.mCfg a) s ∧ (∀ f, s.masked s.cur f = false) ∧
      goodCfg (s.x a).toNat = true) ∧
    ∃ a s, Clear (.mCfg a) s ∧ (∀ f, s.masked s.cur f = false) ∧ goodCfg (s.x a).toNat = false :=
  ⟨⟨3, tiled, clear_of (by decide), fun _ => rfl, by decide⟩, ⟨2, tiled, clear_of (by decide), fun _ => rfl, by decide⟩⟩

theorem witness_TileZero : ∃ d s, Clear (.mZero d) s ∧ d < 8 := ⟨7, tiled, clear_of (by decide), by decide⟩

theorem witness_TilePatterns : (∃ a b s, Clear (.mInv a b) s) ∧ (∃ a s, Clear (.mPrep a) s ∧ (s.x a).toNat % 64 ≠ 0) ∧
    ∃ a s t f, Clear (.mPrep a) s ∧ (s.x a).toNat % 64 = 0 ∧ s.lookup s.cur (s.x a).toNat = (t, f) := by
  refine ⟨⟨3, 1, tiled, clear_of (by decide)⟩, ⟨1, tiled, clear_of (by decide), by decide⟩, ?_⟩
  cases e : tiled.lookup tiled.cur (tiled.x 3).toNat with
  | mk t f => exact ⟨3, tiled, t, f, clear_of (by decide), by decide, e⟩

theorem witness_TileGroups : ∃ (cells : Cells) (a r c : Nat), cells.Nodup ∧ (∀ e ∈ cells, e.1 < 64 ∧ e.2 < 64) ∧ r < 64 ∧
    c < 64 ∧ (r, c) ∈ cells ∧ a = 0 :=
  ⟨[(0, 0), (63, 63)], 0, 63, 63, by decide, by decide, by decide, by decide, by decide, rfl⟩

/-- The k-steps of a tile instruction checked. -/
def stepsWith (x : State × List (Nat × List (List Ready)) × Option (Nat × FeedHit))
    (p : State → List (Nat × List (List Ready)) → Bool) : Bool := match x with
  | (t, l, none) => p t l
  | (_, _, some _) => false

theorem steps_of {x : State × List (Nat × List (List Ready)) × Option (Nat × FeedHit)}
    {p : State → List (Nat × List (List Ready)) → Bool} (h : stepsWith x p = true) :
    ∃ t l, x = (t, l, none) ∧ p t l = true := by
  obtain ⟨t, l, v | v⟩ := x
  · exact ⟨t, l, rfl, h⟩
  · cases h

/-- Hypotheses of DenseProducts on an instruction of the treadle above. -/
def dense (i : Instr) : Prop :=
  ∃ (s s1 t u : State) (d pp rate : Nat) (fs : List Feed) (f : Option (Nat → List Val))
    (l : List (Nat × List (List Ready))) (vals : List (Nat × KStep)),
    denseForm s i = some (d, pp, fs, f, rate) ∧ Clear i s ∧ s.core.strip.len.toNat ≠ 0 ∧ s.core.preempt = none ∧
    s.tile.badAcc = [] ∧ s.tile.softAcc = [] ∧ s.budgeted s.cur 0 ((s.core.strip.len.toNat + rate - 1) / rate) = some s1 ∧
    checkSteps (s1.who s.cur) 0 fs s.core.strip.len.toNat 0 s1 = (t, l, none) ∧
    performs (stepRead (s1.who s.cur) fs f) l t = (u, vals, none)

theorem witness_DenseProducts : dense (.mOp 0 1 2 0) ∧ dense (.mOpc 1 0 2 0) := by
  constructor
  · obtain ⟨t, l, e1, h⟩ := steps_of (x := checkSteps (tiled.who 8) 0
      [⟨1, tiled.core.stream 1, 1⟩, ⟨2, tiled.core.stream 2, 2⟩] 2 0 tiled)
      (p := fun t l => doneWith (performs (stepRead (tiled.who 8)
        [⟨1, tiled.core.stream 1, 1⟩, ⟨2, tiled.core.stream 2, 2⟩] none) l t) fun _ _ => true) (by decide)
    obtain ⟨u, vals, e2, -⟩ := done_of h
    exact ⟨tiled, tiled, t, u, 0, 0, 1, _, none, l, vals, rfl, clear_of (by decide), by decide, rfl, rfl, rfl, rfl, e1, e2⟩
  · obtain ⟨t, l, e1, h⟩ := steps_of (x := checkSteps (tiled.who 8) 0 [⟨2, tiled.core.stream 2, 2⟩] 2 0 tiled)
      (p := fun t l => doneWith (performs (stepRead (tiled.who 8) [⟨2, tiled.core.stream 2, 2⟩]
        (some (chained tiled 0))) l t) fun _ _ => true) (by decide)
    obtain ⟨u, vals, e2, -⟩ := done_of h
    exact ⟨tiled, tiled, t, u, 1, 0, 1, _, _, l, vals, rfl, clear_of (by decide), by decide, rfl, rfl, rfl, rfl, e1, e2⟩

/-- The tile above with 16 k-steps, stopped by its streams' ends, at the ninth. -/
def short : State := { treadle fun c => { c with
    strip := { c.strip with len := 16, granted := 16 }
    streams := [(1, bound .read 0x3000 .bf16 9), (2, bound .read 0x3100 .bf16 18)] } with
  clusters := [(0, { Cluster.reset with enable := true, cfg := 0x100, acc := [(0, 0x3F800000)] })] }

/-- The k-steps of a tile instruction checked, up to a condition. -/
def stepFound (x : State × List (Nat × List (List Ready)) × Option (Nat × FeedHit)) (j : Nat) (h : Hit)
    (p : State → List (Nat × List (List Ready)) → Bool) : Bool := match x with
  | (t, l, some f) => decide ((f.1, f.2.1) = (j, h)) && p t l
  | (_, _, none) => false

theorem step_found {x : State × List (Nat × List (List Ready)) × Option (Nat × FeedHit)} {j : Nat} {h : Hit}
    {p : State → List (Nat × List (List Ready)) → Bool} (e : stepFound x j h p = true) :
    ∃ t l f, x = (t, l, some f) ∧ (f.1, f.2.1) = (j, h) ∧ p t l = true := by
  obtain ⟨t, l, v | v⟩ := x
  · cases e
  · simp only [stepFound, Bool.and_eq_true, decide_eq_true_eq] at e
    exact ⟨t, l, v, rfl, e.1, e.2⟩

theorem witness_ProductsShorten : ∃ (i : Instr) (s s1 t u : State) (d pp rate j : Nat) (fs : List Feed)
    (f : Option (Nat → List Val)) (l : List (Nat × List (List Ready))) (found : Option (Nat × FeedHit)) (h : Hit)
    (vals : List (Nat × KStep)),
    let n := s.core.strip.len.toNat
    denseForm s i = some (d, pp, fs, f, rate) ∧ Clear i s ∧ n ≠ 0 ∧ s.core.strip.gran = 8 ∧ s.core.ident.hidx = 8 ∧
    s.tile.badAcc = [] ∧ s.tile.softAcc = [] ∧ s.budgeted s.cur 0 ((n + rate - 1) / rate) = some s1 ∧
    checkSteps (s1.who s.cur) 0 fs n 0 s1 = (t, l, found) ∧
    cutAt s.core n (found.map fun x => (x.1, x.2.1)) = some (j, h) ∧ t.fate s.cur h.cond = .stop h.cond ∧
    8 * (j / 8) ≠ 0 ∧ performs (stepRead (s1.who s.cur) fs f) (l.filter fun x => x.1 < 8 * (j / 8)) t = (u, vals, none) := by
  obtain ⟨t, l, v, e1, e, h⟩ := step_found (x := checkSteps (short.who 8) 0
    [⟨1, short.core.stream 1, 1⟩, ⟨2, short.core.stream 2, 2⟩] 16 0 short) (j := 9) (h := ⟨.streamEnd 1 9, endValue 1 9⟩)
    (p := fun t l => decide (t.fate 8 (.streamEnd 1 9) = .stop (.streamEnd 1 9)) &&
      doneWith (performs (stepRead (short.who 8)
        [⟨1, short.core.stream 1, 1⟩, ⟨2, short.core.stream 2, 2⟩] none) (l.filter fun x => x.1 < 8) t) fun _ _ => true)
    (by decide +kernel)
  rw [Bool.and_eq_true, decide_eq_true_eq] at h
  obtain ⟨u, vals, e2, -⟩ := done_of h.2
  exact ⟨.mOp 0 1 2 0, short, short, t, u, 0, 0, 1, 9, _, none, l, _, _, vals, rfl, clear_of (by decide), by decide, rfl, rfl,
    rfl, rfl, rfl, e1, congrArg some e, h.1, by decide, e2⟩

/-- A compiled tile at 0x2000 without a non-zero. -/
def emptyTile : Pattern := ⟨16, 1, 0x2000, 0, 576, .bf16, List.replicate 64 0, 0, false, none⟩

/-- The treadle above with that tile in its pattern cache and a stream long enough for its 64 rows. -/
def sparse : State := { tiled with
  cores := [(8, { tiled.core with streams := [(2, bound .read 0x3100 .bf16 64)] })]
  clusters := [(0, { Cluster.reset with enable := true, cfg := 0, patterns := [emptyTile] })] }

/-- The state in which an m.ops of a tile, found in a state, has been counted and charged. -/
def charged (s s1 : State) (p : Pattern) : State :=
  let s1 := if s.core.wait = .compile then s1 else s1.countCluster (clusterOf s.cur) 0 1
  match s1.launchOf s.cur, s1.partOf s.cur with
  | some r, some q => s1.charge q r.regid 0 p.cycles
  | _, _ => s1

/-- What a lookup and the reads of the tile's values and the stream's elements come to. -/
def sparseB : Bool := match sparse.lookup 8 0x2000 with
  | (s1, .hit p) => okWith ((charged sparse s1 p).readTile ((charged sparse s1 p).who 8) 129 ((0x2000 + 576) % 2 ^ 64)
      (Fmt.arrayBytes p.fmt p.nnz)) fun s3 bytes =>
    decide (s3.tile.badAcc = []) && decide (s3.tile.softAcc = []) &&
    stepsWith (checkSteps (s3.who 8) 0 [⟨2, s3.core.stream 2, cfgCols sparse.tile.cfg.toNat⟩] 64 0 s3) fun t l =>
      doneWith (performs (stepRead (s3.who 8) [⟨2, s3.core.stream 2, cfgCols sparse.tile.cfg.toNat⟩]
        (some fun k => (List.range (cfgRows sparse.tile.cfg.toNat)).map fun r =>
          p.value (rowStarts p.rows 0) bytes r k)) l t) fun _ _ => true
  | _ => false

theorem witness_SparseProducts : ∃ (d a b pp : Nat) (s s1 s2 s3 t u : State) (p : Pattern) (bytes : List Byte)
    (l : List (Nat × List (List Ready))) (vals : List (Nat × KStep)),
    let w := s.tile.cfg.toNat
    let fs : List Feed := [⟨b, s3.core.stream b, cfgCols w⟩]
    Clear (.mOps d a b pp) s ∧ (s.core.stream b).feedsAny = true ∧ (s.x a).toNat % 64 = 0 ∧ s.opsHeld s.cur = false ∧
    s.lookup s.cur (s.x a).toNat = (s1, .hit p) ∧ s2 = charged s s1 p ∧
    s2.readTile (s2.who s.cur) 129 (((s.x a).toNat + 576) % 2 ^ 64) (Fmt.arrayBytes p.fmt p.nnz) = (s3, .ok bytes) ∧
    s3.tile.badAcc = [] ∧ s3.tile.softAcc = [] ∧ checkSteps (s3.who s.cur) 0 fs 64 0 s3 = (t, l, none) ∧
    performs (stepRead (s3.who s.cur) fs (some fun k =>
      (List.range (cfgRows w)).map fun r => p.value (rowStarts p.rows 0) bytes r k)) l t = (u, vals, none) := by
  have h : sparseB = true := by decide +kernel
  unfold sparseB at h
  generalize e0 : sparse.lookup 8 0x2000 = x at h
  obtain ⟨s1, f⟩ := x
  cases f with
  | hit p =>
    obtain ⟨s3, bytes, e1, h⟩ := ok_of h
    simp only [Bool.and_eq_true, decide_eq_true_eq] at h
    obtain ⟨t, l, e2, h'⟩ := steps_of h.2
    obtain ⟨u, vals, e3, -⟩ := done_of h'
    exact ⟨0, 3, 2, 0, sparse, s1, _, s3, t, u, p, bytes, l, vals, clear_of (by decide), by decide, by decide, by decide,
      e0, rfl, e1, h.1.1, h.1.2, e2, e3⟩
  | _ => cases h

theorem witness_TileTransfers :
    (∃ (d a : Nat) (s t u : State) (l : List (Nat × Option Ready)) (vals : List (Nat × Half)),
      let st := s.core.stream a
      s.tileElems s.cur a st 0 (cfgRows s.tile.cfg.toNat * cfgCols s.tile.cfg.toNat) = ⟨t, l, none⟩ ∧
      tileFmt st.desc.fmt = true ∧ Clear (.mLd d a) s ∧ st.state = .read ∧
      performs (fun s' _ (o : Option Ready) => match o with
        | none => (s', .ok 0)
        | some r => match s'.readStream (s'.who s.cur) r with
          | (s'', .error h) => (s'', .error h)
          | (s'', .ok x) => (s'', .ok (st.desc.slot x))) l t = (u, vals, none)) ∧
    ∃ (d a : Nat) (s t u : State) (l : List (Nat × Option Ready)) (vals : List (Nat × Unit)),
      let w := s.tile.cfg.toNat
      let st := s.core.stream a
      s.tileElems s.cur a st 0 (cfgRows w * cfgCols w) = ⟨t, l, none⟩ ∧ tileFmt st.desc.fmt = true ∧
      Clear (.mSt d a) s ∧ st.state = .write ∧ s.tile.badAcc = [] ∧ s.tile.softAcc = [] ∧
      writeRun (s.who s.cur) st.desc (fun k => slotVal .fp32 (s.tile.accAt d (k / cfgCols w) (k % cfgCols w)))
        (fun k => drainCode st.desc.fmt (s.tile.accAt d (k / cfgCols w) (k % cfgCols w))) l t = (u, vals, none) := by
  constructor
  · have e : (tiled.tileElems 8 1 (tiled.core.stream 1) 0 2).found = none := by decide
    obtain ⟨u, vals, e2, -⟩ := done_of (x := performs (fun s' _ (o : Option Ready) => match o with
        | none => (s', .ok 0)
        | some r => match s'.readStream (s'.who 8) r with
          | (s'', .error h) => (s'', .error h)
          | (s'', .ok x) => (s'', .ok ((tiled.core.stream 1).desc.slot x)))
      (tiled.tileElems 8 1 (tiled.core.stream 1) 0 2).elems (tiled.tileElems 8 1 (tiled.core.stream 1) 0 2).s)
      (p := fun _ _ => true) (by decide)
    exact ⟨0, 1, tiled, _, u, _, vals, by
      show tiled.tileElems 8 1 (tiled.core.stream 1) 0 2 = ⟨_, _, none⟩
      rw [← e], by decide, clear_of (by decide), by decide, e2⟩
  · have e : (tiled.tileElems 8 3 (tiled.core.stream 3) 0 2).found = none := by decide
    obtain ⟨u, vals, e2, -⟩ := done_of (x := writeRun (tiled.who 8) (tiled.core.stream 3).desc
      (fun k => slotVal .fp32 (tiled.tile.accAt 0 (k / 2) (k % 2)))
      (fun k => drainCode (tiled.core.stream 3).desc.fmt (tiled.tile.accAt 0 (k / 2) (k % 2)))
      (tiled.tileElems 8 3 (tiled.core.stream 3) 0 2).elems (tiled.tileElems 8 3 (tiled.core.stream 3) 0 2).s)
      (p := fun _ _ => true) (by decide)
    exact ⟨0, 3, tiled, _, u, _, vals, by
      show tiled.tileElems 8 3 (tiled.core.stream 3) 0 2 = ⟨_, _, none⟩
      rw [← e], by decide, clear_of (by decide), by decide, rfl, rfl, e2⟩

/-- Hart 0 and its treadle with a tile, their launch placed. -/
def crewed : State := { placed filled launch [] with
  cores := [(0, filled hartCore), (8, treadleCore)]
  clusters := [(0, { Cluster.reset with enable := true, acc := [(0, 0x3F800000)] })] }

theorem witness_TileSlices : ∃ d a b km s, WholeStrip s ∧ s.tile.badAcc = [] ∧ s.tile.softAcc = [] ∧ Clear (.vTr d a b km) s ∧
    Clear (.vTc d a b km) s :=
  ⟨6, 0, 0, 1, crewed, whole_of (by decide), rfl, rfl, clear_of (by decide), clear_of (by decide)⟩

/-- A block at 0x2000 that copies eight S8 elements from 0x3000 to 0x4000. -/
def blockBytes : List Host.Cell := [(0x2001, 0x30), (0x2009, 0x40), (0x2020, 8)]

theorem witness_CommandsAccepted : ∃ i s t k d a bs, commandForm i = some (k, d, a) ∧ Clear i s ∧
    (s.x a).toNat % 64 = 0 ∧ s.loadBlock s.cur (s.x a).toNat 24 = (t, .ok bs) ∧ (blockOf bs).illegal k bs = false ∧
    (blockOf bs).maskedBy k (t.masked s.cur) = false ∧ t.tile.cmds.length < 32 := by
  obtain ⟨t, b, e, h⟩ := ok_of (x := (withMem tiled blockBytes).loadBlock 8 0x2000 24)
    (p := fun t b => !(blockOf b).illegal .cpy b && !(blockOf b).maskedBy .cpy (t.masked 8) &&
      decide (t.tile.cmds.length < 32)) (by decide)
  simp only [Bool.and_eq_true, Bool.not_eq_true', decide_eq_true_eq] at h
  exact ⟨.eCpy 1 3, withMem tiled blockBytes, t, .cpy, 1, 3, b, rfl, clear_of (by decide), by decide, e, h.1.1, h.1.2,
    h.2⟩

theorem witness_CommandsAwaited : (∃ d a k s, Clear (.eWait d a) s ∧ later? s s.cur ((s.x a).setWidth 32) = some k) ∧
    ∃ (d a k : Nat) (s t : State) (n : Nat), (s.coreAt n).wait = .engine ∧ s.fetch n = (t, .ok (.eWait d a)) ∧ (t.coreAt n).rider = none ∧
      later? t n (((t.coreAt n).xreg a).setWidth 32) = some k := by
  refine ⟨⟨1, 1, 0, tiled, clear_of (by decide), by decide⟩, ?_⟩
  obtain ⟨t, i, e, h⟩ := ok_of (x := (withMem (treadle fun c => { c with wait := .engine }) (codeAt (.eWait 1 1))).fetch 8)
    (p := fun t i => decide (i = .eWait 1 1) && (t.coreAt 8).rider == none &&
      decide (later? t 8 (((t.coreAt 8).xreg 1).setWidth 32) = some 0)) (by decide)
  simp only [Bool.and_eq_true, beq_iff_eq, decide_eq_true_eq] at h
  obtain ⟨⟨rfl, h1⟩, h2⟩ := h
  exact ⟨1, 1, 0, _, t, 8, by decide, e, h1, h2⟩

/-- A started copy of the treadle's. -/
def copyOne : Cmd := { copyCmd with core := 8, part := 16 }

/-- A cluster's queue with one command of its treadle, started or not. -/
def queueOf (m : Cmd) : State := { tiled with clusters := [(0, { Cluster.reset with cmds := [m] })] }

/-- The same copy, not started. -/
def copyLater : Cmd := { copyOne with started := false }

theorem witness_CommandsStart : (∃ (s : State) (c k : Nat) (m : Cmd), (s.clusterAt c).cmds[k]? = some m ∧ m.started = true) ∧
    (∃ (s : State) (c k : Nat) (m : Cmd), (s.clusterAt c).cmds[k]? = some m ∧ m.started = false ∧ clusterOf m.core = c ∧
      (∀ x ∈ (s.clusterAt c).cmds.take k, Cmd.blockedBy m x = false) ∧
      (∀ r, s.regionAt m.part m.regid = some r → ∀ c ∈ r.saved, c.crew = (s.coreAt m.core).ident.crew.toNat →
        ∀ x ∈ c.cmds, x.order < m.order → Cmd.blockedBy m x = false) ∧ (s.partAt m.part).stopped = false ∧
      (m.block.waitt = true → 0 < s.fifoCount m.core 16) ∧ s.budgetLeft m.part m.regid (Cmd.charge m).1 = true) ∧
    ∃ (s : State) (c k : Nat) (m : Cmd), (s.clusterAt c).cmds[k]? = some m ∧ (s.partAt m.part).stopped = true :=
  ⟨⟨queueOf copyOne, 0, 0, copyOne, by decide, by decide⟩, ⟨queueOf copyLater, 0, 0, copyLater, by decide, by decide,
    by decide, by decide, fun _ h => (nomatch (show none = some _ from h)), by decide,
    by decide, by decide⟩,
    ⟨{ queueOf copyLater with parts := [(16, { Part.free with stopped := true })] }, 0, 0, copyLater, by decide,
      by decide⟩⟩

/-- A run that comes to no failure. -/
def stillWith (x : State × Option β) (p : State → Bool) : Bool := match x with
  | (t, none) => p t
  | (_, some _) => false

theorem still_of {x : State × Option β} {p : State → Bool} (h : stillWith x p = true) :
    ∃ t, x = (t, none) ∧ p t = true := by
  obtain ⟨t, v | v⟩ := x
  · exact ⟨t, rfl, h⟩
  · cases h

theorem witness_CommandsComplete : ∃ (s : State) (c k : Nat) (m : Cmd) (l : Layout) (t u : State),
    (s.clusterAt c).cmds[k]? = some m ∧ (s.partAt m.part).stopped = false ∧ m.started = true ∧ m.prog = 0 ∧
    CmdKind.fabric m.kind = false ∧ m.block.push = false ∧ m.block.layout = some l ∧ copyFrom m l l.length 0 s = (t, none) ∧
    t.writeStatus m (l.length * 2 ^ 32 + 2 ^ 31) = (u, none) := by
  have h : (match copyOne.block.layout with
    | some l => stillWith (copyFrom copyOne l l.length 0 (queueOf copyOne)) fun t =>
      stillWith (t.writeStatus copyOne (l.length * 2 ^ 32 + 2 ^ 31)) fun _ => true
    | none => false) = true := by decide +kernel
  cases e0 : copyOne.block.layout with
  | none => rw [e0] at h; cases h
  | some l =>
    rw [e0] at h
    obtain ⟨t, e1, h⟩ := still_of h
    obtain ⟨u, e2, -⟩ := still_of h
    exact ⟨queueOf copyOne, 0, 0, copyOne, l, t, u, by decide, by decide, rfl, rfl, rfl, rfl, e0, e1, e2⟩

theorem witness_CommandsCompleteNot : (∃ (s : State) (c k : Nat) (m : Cmd), (s.clusterAt c).cmds[k]? = some m ∧
      m.started = false) ∧
    ∃ (s : State) (c k : Nat) (m : Cmd), (s.clusterAt c).cmds[k]? = some m ∧ (s.partAt m.part).stopped = true :=
  ⟨⟨queueOf copyLater, 0, 0, copyLater, by decide, rfl⟩, ⟨{ queueOf copyOne with
      parts := [(16, { Part.free with stopped := true })] }, 0, 0, copyOne, by decide, by decide⟩⟩

/-! ### Rows that no word carries -/

theorem witness_TrappingWords : ∃ s : State, s.serviceHeld s.cur = false ∧ s.core.resume = none ∧ s.core.rider = none :=
  ⟨hart id, by decide, rfl, rfl⟩

theorem witness_WordReread : ∃ (n d a b v : Nat) (s t u : State), (s.coreAt n).wait = .word ∧ s.fetch n = (t, .ok (.yWait d a b)) ∧
    t.loadDirect n ((t.coreAt n).xreg a).toNat = (u, .ok v) ∧ ((t.coreAt n).xreg b).toNat ≤ v ∧
    (u.coreAt n).rider = none := by
  obtain ⟨t, i, e, h⟩ := ok_of
    (x := (withMem (hart fun c => { c with wait := .word }) (codeAt (.yWait 1 3 1) ++ [(0x2000, 9)])).fetch 0)
    (p := fun t i => decide (i = .yWait 1 3 1) && okWith (t.loadDirect 0 ((t.coreAt 0).xreg 3).toNat) fun u v =>
      decide (((t.coreAt 0).xreg 1).toNat ≤ v) && (u.coreAt 0).rider == none) (by decide)
  rw [Bool.and_eq_true, decide_eq_true_eq] at h
  obtain ⟨rfl, h⟩ := h
  obtain ⟨u, v, e2, h⟩ := ok_of h
  simp only [Bool.and_eq_true, beq_iff_eq, decide_eq_true_eq] at h
  exact ⟨0, 1, 3, 1, v, _, t, u, by decide, e, e2, h.1, h.2⟩

theorem witness_TokensResume : (∃ (n id : Nat) (r : Rider) (s : State), (s.coreAt n).wait = .pop ∧
      (s.coreAt n).rider = some r ∧ r.pop = some id ∧ r.popped = false ∧ id < 32 ∧ 0 < s.fifoCount n id) ∧
    ∃ (n id : Nat) (s : State), (s.coreAt n).push = some id ∧ s.halted n = false ∧ id < 32 ∧ s.fifoCount n id < 15 :=
  ⟨⟨0, 0, rider, { hart fun c => { c with wait := .pop, rider := some rider } with
      clusters := [(0, { Cluster.reset with fifos := [(32, 2)] })] }, rfl, rfl, rfl, rfl, by decide, by decide⟩,
    ⟨0, 8, hart fun c => { c with push := some 8 }, rfl, by decide, by decide, by decide⟩⟩

theorem witness_BarrierAndEndRows : (∃ (n : Nat) (s : State), (s.coreAt n).wait = .barrier ∧ s.barrierFull n = true) ∧
    ∃ (n : Nat) (s : State), (s.coreAt n).wait = .ending ∧ s.drained n = true ∧ (s.coreAt n).rider = none :=
  ⟨⟨0, hart fun c => { c with wait := .barrier, arrived := true }, rfl, by decide⟩,
    ⟨0, hart fun c => { c with wait := .ending }, rfl, by decide, rfl⟩⟩

theorem witness_QueuesGoOn : (∃ (n : Nat) (s : State) (h : Held) (hs : List Held), (s.coreAt n).wait = .dispatch ∧
      (s.coreAt n).held = h :: hs ∧ h.pc = (s.coreAt n).pc ∧ (s.coreAt n).resume = none) ∧
    ∃ (n : Nat) (s : State) (r : Reply) (rs : List Reply), s.halted n = false ∧ (s.coreAt n).replies = r :: rs ∧
      .reply ∉ (s.coreAt n).badRegs :=
  ⟨⟨0, hart fun c => { c with wait := .dispatch, held := [⟨.kNot 1 2, ⟨8, .n32, .n32, .n32, 0, 0, 0, 0, 0, 0, false, false⟩, 0x1000⟩] }, _, _,
      rfl, rfl, rfl, rfl⟩,
    ⟨0, hart fun c => { c with replies := [⟨1, 7⟩] }, _, _, rfl, rfl, nofun⟩⟩

theorem witness_InvalidationEnds : ∃ (h p : Nat) (s t : State), (s.coreAt (7200 + h)).wait = .inval ∧
    s.fetch (7200 + h) = (t, .ok .zInvp) ∧ t.partOf (7200 + h) = some p ∧
    (∀ e ∈ t.clusters, ∀ m ∈ e.2.cmds, m.part = p → m.started = false) ∧ (t.coreAt (7200 + h)).rider = none := by
  obtain ⟨t, i, e, h⟩ := ok_of (x := (withMem (hub (fun c => { c with wait := .inval }) id [])
      (tables ++ [(0x61000, 0x38), (0x61003, 0x3C)])).fetch 7200)
    (p := fun t i => decide (i = .zInvp) && (decide (t.partOf 7200 = some 0) && (decide (t.clusters = []) &&
      (t.coreAt 7200).rider == none))) (by decide)
  simp only [Bool.and_eq_true, beq_iff_eq, decide_eq_true_eq] at h
  obtain ⟨rfl, h1, h2, h3⟩ := h
  exact ⟨0, 0, _, t, by decide, e, h1, by rw [h2]; nofun, h3⟩

/-! ### Streams ahead, compiles, interrupts -/

/-- An operation that ends with a condition. -/
def failWith [DecidableEq ε] (x : State × Except ε α) (c : ε) (p : State → Bool) : Bool := match x with
  | (t, .error e) => decide (e = c) && p t
  | (_, .ok _) => false

theorem fail_of [DecidableEq ε] {x : State × Except ε α} {c : ε} {p : State → Bool} (h : failWith x c p = true) :
    ∃ t, x = (t, .error c) ∧ p t = true := by
  obtain ⟨t, v | v⟩ := x
  · simp only [failWith, Bool.and_eq_true, decide_eq_true_eq] at h
    exact ⟨t, by rw [h.1], h.2⟩
  · cases h

/-- Hart 0 of the launch, whose page tables map nothing, with a stream bound to read. -/
def ahead : State := withMem (placed (fun c => { c with streams := [(1, bound .read 0x2000 .s16 64)] }) launch [])
  [(8, 1), (9, 0x80)]

theorem witness_StreamsAhead : (∃ (n : Nat) (s : State), s.halted n = true) ∧ (∃ (n sr e page : Nat) (s t : State),
      let st := (s.coreAt n).stream sr
      s.halted n = false ∧ st.state ≠ .unbound ∧ st.desc.scratch = false ∧
      st.desc.pagesFrom (st.desc.length - st.pos) st.pos 3 [] = [(e, page)] ∧
      locateBlock s ((s.who n).forStream sr) (if st.state = .write then .write else .read) page 1 =
        (t, .error .notPresent) ∧
      t.demand n = true ∧ page ∉ st.noticed) ∧
    ∃ (n sr : Nat) (s t u : State) (r : Ready) (v : Nat × Nat),
      let st := (s.coreAt n).stream sr
      s.halted n = false ∧
      st.state = .read ∧ s.checkStream ((s.who n).forStream sr) sr st (st.pos + st.ahead.length) = (t, .ok r) ∧
      r.isIo = false ∧ r.held = none ∧ t.readStream ((s.who n).forStream sr) r = (u, .ok v) := by
  refine ⟨⟨0, { ahead with parts := [(0, { part [launch] with stopped := true })] }, by decide⟩, ?_, ?_⟩
  · obtain ⟨t, e, h⟩ := fail_of (x := locateBlock ahead ((ahead.who 0).forStream 1) .read 0 1) (c := .notPresent)
      (p := fun t => t.demand 0) (by decide)
    exact ⟨0, 1, 0, 0, ahead, t, by decide, by decide, by decide, by decide, e, h, by decide⟩
  · obtain ⟨t, r, e, h⟩ := ok_of (x := (hart streaming).checkStream (((hart streaming).who 0).forStream 1) 1
      ((hart streaming).core.stream 1) 0)
      (p := fun t r => !r.isIo && (r.held == none && okWith (t.readStream (((hart streaming).who 0).forStream 1) r) fun _ _ => true))
      (by decide)
    simp only [Bool.and_eq_true, beq_iff_eq, Bool.not_eq_true'] at h
    obtain ⟨u, v, e2, -⟩ := ok_of h.2.2
    exact ⟨0, 1, hart streaming, t, u, r, v, by decide, by decide, e, h.1, h.2.1, e2⟩

theorem witness_CompileEnds : ∃ (c k : Nat) (e : Compile) (s : State), (s.clusterAt c).compiles[k]? = some e :=
  ⟨0, 0, ⟨emptyTile, false⟩, { treadle id with
    clusters := [(0, { Cluster.reset with compiles := [⟨emptyTile, false⟩] })] }, by decide⟩

/-- A hart stopped for a masked feature, its hub hart's H registers letting interrupt 3 in. -/
def latched : State := hub (fun c => { c with trapH := ⟨0, 0, 0, 0x9000, 5⟩ })
  (fun c => { c with run := .stopped, win := { c.win with kind := .lead, cause := 12, latch := true } }) []

theorem witness_InterruptEntry : ∃ (h code : Nat) (l : Level) (s : State), (s.coreAt (7200 + h)).run = .running ∧
    (s.coreAt (7200 + h)).wait ≠ .inval ∧ s.interrupt (7200 + h) = some (code, l) :=
  ⟨0, 3, .h, latched, by decide, by decide, by decide⟩

/-! ### Windows -/

/-- Hart 0 of the launch stopped, with a window command in progress; its window and the rest changed by f. -/
def stopped (cmd : Nat) (f : Core → Core) : State := placed (fun c => f { c with
  run := .stopped, win := { c.win with kind := .lead, cause := 1, cmd := cmd, cmdstat := 1 } }) launch []

theorem witness_WindowWrites : (∃ (n r : Nat) (v : Word), n < 7200 ∧ r < 32 ∧ v.toNat % 4 = 0 ∧ 1 ≤ v.toNat ∧
      v.toNat ≤ 7 ∧ kindOf n ≠ .treadle ∧ (∃ s : State, (s.coreAt n).win.kind ≠ .running) ∧
      (∃ s : State, (s.coreAt n).win.kind = .running) ∧ (∃ s : State, (s.coreAt n).win.cmdstat ≠ 1) ∧
      ∃ s : State, (s.coreAt n).win.cmdstat = 1) ∧
    ∃ (n : Nat) (v : Word) (s : State), n < 7200 ∧ 1 ≤ v.toNat ∧ v.toNat ≤ 3 ∧ kindOf n = .treadle ∧
      (s.coreAt n).win.cmdstat ≠ 1 :=
  ⟨⟨0, 31, 4, by decide, by decide, by decide, by decide, by decide, by decide, ⟨stopped 0 id, by decide⟩,
    ⟨hart id, rfl⟩, ⟨hart id, by decide⟩, ⟨stopped 0 id, by decide⟩⟩,
    ⟨8, 3, treadle id, by decide, by decide, by decide, by decide, by decide⟩⟩

/-- A window whose hart holds no lanes, so that a save area is 2,048 bytes. -/
def laneless (cmd : Nat) : State := stopped cmd fun c => { c with ident := { c.ident with lanes := 0 } }

theorem witness_SaveVectors : ∃ (n : Nat) (s t : State), doing (s.coreAt n) 1 ∧ kindOf n = .hart ∧
    (s.coreAt n).win.varea.toNat % 64 = 0 ∧ (s.coreAt n).held = [] ∧ s.halted n = false ∧
    (s.clusterAt (clusterOf n)).badSlots = [] ∧
    s.writeParts (s.areaPart n) (s.coreAt n).win.varea.toNat ((s.coreAt n).areaParts (s.coreAt n).vlmax s.free) =
      (t, true) := by
  have h : ((laneless 1).writeParts ((laneless 1).areaPart 0) ((laneless 1).coreAt 0).win.varea.toNat
    (((laneless 1).coreAt 0).areaParts ((laneless 1).coreAt 0).vlmax (laneless 1).free)).2 = true := by decide +kernel
  refine ⟨0, laneless 1, ((laneless 1).writeParts ((laneless 1).areaPart 0) ((laneless 1).coreAt 0).win.varea.toNat
    (((laneless 1).coreAt 0).areaParts ((laneless 1).coreAt 0).vlmax (laneless 1).free)).1, ⟨rfl, rfl⟩, by decide,
    by decide, by decide, by decide, by decide, ?_⟩
  rw [← h]

/-- The same hart where VSAVE has written address 0. -/
def savedArea : State := { laneless 2 with hub := { hubOn with areas := [(0, [])] } }

theorem witness_LoadVectors : ∃ (n : Nat) (s s1 t : State) (head b : List Byte) (key : Nat),
    doing (s.coreAt n) 2 ∧ kindOf n = .hart ∧ (s.coreAt n).win.varea.toNat % 64 = 0 ∧
    s.physRead (s.areaPart n) (s.coreAt n).win.varea.toNat 2048 = (s1, .ok head) ∧
    natIn head 0 4 ≤ (s.coreAt n).vlmax ∧
    s1.physRead (s.areaPart n) (s.coreAt n).win.varea.toNat (2048 + 387 * natIn head 0 4) = (t, .ok b) ∧
    areaOk b 0 = true ∧ tableKey (s.areaPart n) (s.coreAt n).win.varea.toNat = some key ∧
    ((t.hub.areas.find? fun e => e.1 == key).map fun e => e.2) = some [] ∧ s.halted n = false ∧
    (s.clusterAt (clusterOf n)).badSlots = [] := by
  obtain ⟨s1, head, e1, h⟩ := ok_of (x := savedArea.physRead (savedArea.areaPart 0) 0 2048)
    (p := fun s1 head => decide (natIn head 0 4 ≤ (savedArea.coreAt 0).vlmax) &&
      okWith (s1.physRead (savedArea.areaPart 0) 0 (2048 + 387 * natIn head 0 4)) fun t b => areaOk b 0 &&
        decide (((t.hub.areas.find? fun e => e.1 == 0).map fun e => e.2) = some [])) (by decide +kernel)
  rw [Bool.and_eq_true, decide_eq_true_eq] at h
  obtain ⟨t, b, e2, h2⟩ := ok_of h.2
  rw [Bool.and_eq_true, decide_eq_true_eq] at h2
  exact ⟨0, savedArea, s1, t, head, b, 0, ⟨rfl, rfl⟩, rfl, rfl, e1, h.1, e2, h2.1, by decide, h2.2, by decide, rfl⟩

theorem witness_ClearVectors : ∃ (n : Nat) (s : State), doing (s.coreAt n) 3 ∧ kindOf n = .hart ∧ (s.coreAt n).held = [] ∧
    s.halted n = false ∧ (s.clusterAt (clusterOf n)).badSlots = [] :=
  ⟨0, stopped 3 id, ⟨rfl, rfl⟩, rfl, rfl, by decide, rfl⟩

theorem tileBytes_length (c : Cluster) : c.tileBytes.length = 131104 := by
  have h (n v : Nat) : (leBytes n v).length = n := by
    induction n generalizing v with
    | zero => rfl
    | succ n ih => simp [leBytes, ih]
  simp only [Cluster.tileBytes, List.length_append, List.length_flatMap, List.length_replicate, h]
  rfl

/-- The launch's cluster with its tile enabled. -/
def tileOn (cmd : Nat) : State :=
  { stopped cmd id with clusters := [(0, { Cluster.reset with enable := true })] }

theorem witness_TileCommands : (∃ (n : Nat) (s t : State), s.tileQueued n = false ∧ s.crewHasTreadle n = true ∧
      doing (s.coreAt n) 4 ∧ (s.clusterAt (clusterOf n)).enable = true ∧ (s.coreAt n).win.tarea.toNat % 64 = 0 ∧
      (s.clusterAt (clusterOf n)).badAcc = [] ∧ (s.clusterAt (clusterOf n)).softAcc = [] ∧ s.halted n = false ∧
      (s.clusterAt (clusterOf n)).badSlots = [] ∧
      s.physWrite (s.areaPart n) (s.coreAt n).win.tarea.toNat (s.clusterAt (clusterOf n)).tileBytes = (t, .ok ())) ∧
    (∃ (n : Nat) (s t : State) (b : List Byte), s.tileQueued n = false ∧ s.crewHasTreadle n = true ∧
      doing (s.coreAt n) 5 ∧ (s.coreAt n).win.tarea.toNat % 64 = 0 ∧
      s.physRead (s.areaPart n) (s.coreAt n).win.tarea.toNat 131104 = (t, .ok b)) ∧
    (∃ (n : Nat) (s : State), s.tileQueued n = false ∧ s.crewHasTreadle n = true ∧ doing (s.coreAt n) 6) ∧
    ∃ (n : Nat) (s : State), s.tileQueued n = false ∧ s.crewHasTreadle n = true ∧ doing (s.coreAt n) 7 := by
  have runs : ∃ runs, physRuns (part [launch]) (131104 / 4096 + 2) 0 131104 = some runs :=
    Option.isSome_iff_exists.1 (by decide +kernel)
  obtain ⟨runs, h⟩ := runs
  refine ⟨⟨0, tileOn 4, _, by decide, by decide, ⟨rfl, rfl⟩, rfl, rfl, rfl, rfl, by decide, rfl, State.physWrite_ok (runs := runs) ⟨rfl, rfl, rfl⟩ ?_⟩,
    ⟨0, tileOn 5, _, _, by decide, by decide, ⟨rfl, rfl⟩, rfl, State.physRead_ok (runs := runs) ⟨rfl, rfl, rfl⟩ h⟩,
    ⟨0, tileOn 6, by decide, by decide, ⟨rfl, rfl⟩⟩, ⟨0, tileOn 7, by decide, by decide, ⟨rfl, rfl⟩⟩⟩
  rw [tileBytes_length]
  exact h

theorem witness_CommandDone : ∃ (n : Nat) (s : State), (s.coreAt n).win.cmdstat = 1 ∧ 8 ≤ (s.coreAt n).win.cmd ∧
    s.halted n = false ∧ (s.clusterAt (clusterOf n)).badSlots = [] :=
  ⟨0, stopped 8 id, rfl, by decide, by decide, rfl⟩

/-! ### The surveyor -/

/-- The treadle of the launch asked to leave, where its page tables map nothing. -/
def crewAsked : State := { placed id launch [] with cores := [(8, { treadleCore with preempt := some ⟨none, 2⟩ })] }

/-- Hart 0 of the launch with a strip of a length and floor. -/
def atFloor (len floor : Half) (f : Core → Core) : State :=
  placed (fun c => f { c with strip := { c.strip with len := len, granted := len, floor := floor } }) launch []

theorem witness_Preemption : (∃ (n : Nat) (r : Region) (s : State) (p : Nat), s.launchOf n = some r ∧
      s.partOf n = some p ∧ s.hub.power.trip = false ∧ (s.partAt p).stopped = false ∧ (s.coreAt n).run = .running ∧
      Wait.yields (s.coreAt n).wait = false ∧ (kindOf n = .hart → (s.coreAt n).ident.lanes ≠ 0) ∧
      32 * ((s.coreAt n).strip.floor.toNat / 32 + 1) < (s.coreAt n).strip.len.toNat ∧ kindOf n ≠ .treadle) ∧
    (∃ (n : Nat) (r : Region) (s : State) (p : Nat), s.launchOf n = some r ∧ s.partOf n = some p ∧
      s.hub.power.trip = false ∧ (s.partAt p).stopped = false ∧ (s.coreAt n).run = .running ∧
      Wait.yields (s.coreAt n).wait = false ∧ (kindOf n = .hart → (s.coreAt n).ident.lanes ≠ 0) ∧
      (s.coreAt n).strip.len.toNat ≤ 32 * ((s.coreAt n).strip.floor.toNat / 32 + 1) ∧ kindOf n ≠ .treadle ∧
      (s.coreAt n).strip.floor.toNat = 0) ∧
    (∃ (n : Nat) (r : Region) (s : State) (p : Nat), s.launchOf n = some r ∧ s.partOf n = some p ∧
      s.hub.power.trip = false ∧ (s.partAt p).stopped = false ∧ (s.coreAt n).run = .running ∧
      Wait.yields (s.coreAt n).wait = false ∧ (kindOf n = .hart → (s.coreAt n).ident.lanes ≠ 0) ∧
      (s.coreAt n).strip.len.toNat ≤ 32 * ((s.coreAt n).strip.floor.toNat / 32 + 1) ∧ kindOf n ≠ .treadle ∧
      (s.coreAt n).strip.floor.toNat ≠ 0) ∧
    (∃ (n : Nat) (r : Region) (s : State) (p : Nat), s.launchOf n = some r ∧ s.partOf n = some p ∧
      s.hub.power.trip = false ∧ (s.partAt p).stopped = false ∧ (s.coreAt n).preempt ≠ none ∧
      (s.coreAt n).rider = none ∧ (s.coreAt n).replies = [] ∧ kindOf n ≠ .treadle) ∧
    ∃ (n : Nat) (r : Region) (s : State) (p : Nat), s.launchOf n = some r ∧ s.partOf n = some p ∧
      s.hub.power.trip = false ∧ (s.partAt p).stopped = false ∧ (s.coreAt n).preempt ≠ none ∧
      (s.coreAt n).rider = none ∧ (s.coreAt n).replies = [] ∧ kindOf n = .treadle ∧ inPlaceWhole n s :=
  ⟨⟨0, launch, atFloor 64 0 id, 0, by decide, by decide, rfl, by decide, rfl, rfl, by decide, by decide, by decide⟩,
    ⟨0, launch, atFloor 32 0 id, 0, by decide, by decide, rfl, by decide, rfl, rfl, by decide, by decide, by decide,
      by decide⟩,
    ⟨0, launch, atFloor 32 1 id, 0, by decide, by decide, rfl, by decide, rfl, rfl, by decide, by decide, by decide,
      by decide⟩,
    ⟨0, launch, atFloor 8 0 fun c => { c with preempt := some ⟨none, 2⟩ }, 0, by decide, by decide, rfl, by decide,
      by decide, rfl, rfl, by decide⟩,
    ⟨8, launch, crewAsked, 0, by decide, by decide, rfl, by decide, by decide, rfl, rfl, by decide, by
      have h : (match crewAsked.upcoming 8 with
        | .run .. => true
        | .done _ => false) = false := by decide +kernel
      intro _ _ t i lim e
      rw [e] at h
      cases h⟩⟩

theorem witness_Regrants : (∃ (n g : Nat) (r : Region) (s : State) (p : Nat), s.launchOf n = some r ∧
      s.partOf n = some p ∧ kindOf n = .hart ∧ (s.partAt p).stopped = false ∧ (s.coreAt n).run ≠ .absent ∧ (s.coreAt n).ident.lanes ≠ 0 ∧
      (s.coreAt n).strip.len.toNat ≤ 16 * g) ∧
    (∃ (n g : Nat) (r : Region) (s : State) (p : Nat), s.launchOf n = some r ∧ s.partOf n = some p ∧
      kindOf n = .hart ∧ (s.partAt p).stopped = false ∧ (s.coreAt n).run ≠ .absent ∧ (s.coreAt n).ident.lanes ≠ 0 ∧
      16 * g < (s.coreAt n).strip.len.toNat ∧ (s.coreAt n).strip.floor.toNat < 16 * g) ∧
    (∃ (n g : Nat) (r : Region) (s : State) (p : Nat), s.launchOf n = some r ∧ s.partOf n = some p ∧
      kindOf n = .hart ∧ (s.partAt p).stopped = false ∧ (s.coreAt n).run ≠ .absent ∧ (s.coreAt n).ident.lanes ≠ 0 ∧
      16 * g ≤ (s.coreAt n).strip.floor.toNat ∧ 16 * g < (s.coreAt n).strip.len.toNat) ∧
    ∃ (n g base p : Nat) (r : Region) (s : State), s.launchOf n = some r ∧ s.partOf n = some p ∧ kindOf n = .hart ∧ (s.partAt p).stopped = false ∧
      s.raiseOpen p n = some (g, base) :=
  ⟨⟨0, 4, launch, atFloor 64 0 id, 0, by decide, by decide, rfl, by decide, by decide, by decide, by decide⟩,
    ⟨0, 4, launch, atFloor 65 63 id, 0, by decide, by decide, rfl, by decide, by decide, by decide, by decide, by decide⟩,
    ⟨0, 4, launch, atFloor 65 64 id, 0, by decide, by decide, rfl, by decide, by decide, by decide, by decide, by decide⟩,
    ⟨0, 8, 0, 0, launch, atFloor 8 0 id, by decide, by decide, rfl, by decide, by decide⟩⟩

/-- Partition 0 with one launch ready and its cluster free. -/
def oneReady : State := { State.reset with parts := [(0, part [ready])], hub := hubOn }

/-- The same launch with a saved tile that cannot be read back. -/
def lostTile : Region := { ready with savedCrews := [⟨0, true, 0, [], [], [], true⟩] }

theorem witness_Placement : (∃ (p : Nat) (r : Region) (s : State) (w : List (Nat × List (Nat × Nat × Nat))),
      let q := s.partAt p
      let cs := (s.hub.clusterAtt.filter fun e => decide (e.2.part = p) && decide (e.2.state ≠ 0)).map fun e => e.1
      q.stopped = false ∧ q.recov.hold = false ∧ q.state = 2 ∧ readySet q.regions = [r] ∧
      (cs.foldl (fun s c => s.reclamp p c) s).fitsWithout p r [] = some w ∧ r.tileLost = false) ∧
    (∃ (p : Nat) (r : Region) (s : State) (w : List (Nat × List (Nat × Nat × Nat))),
      let q := s.partAt p
      let cs := (s.hub.clusterAtt.filter fun e => decide (e.2.part = p) && decide (e.2.state ≠ 0)).map fun e => e.1
      q.stopped = false ∧ q.recov.hold = false ∧ q.state = 2 ∧ readySet q.regions = [r] ∧
      (cs.foldl (fun s c => s.reclamp p c) s).fitsWithout p r [] = some w ∧ r.tileLost = true) ∧
    ∃ (p : Nat) (s : State), (s.partAt p).state ≠ 2 :=
  ⟨⟨0, ready, oneReady, [(0, [(0, 8, 0)])], rfl, rfl, rfl, by decide, by decide, by decide⟩,
    ⟨0, lostTile, { oneReady with parts := [(0, part [lostTile])] }, [(0, [(0, 8, 0)])], rfl, rfl, rfl, by decide,
      by decide, by decide⟩, ⟨0, State.reset, by decide⟩⟩

theorem witness_BudgetPeriods : (∃ (n p : Nat) (r : Region) (s t : State), s.partOf n = some p ∧ s.launchOf n = some r ∧
      exec .budgetPeriodStart s = .next t ∧ (s.coreAt n).services = 1 ∧ t.budgetLeft p r.regid 3 = true) ∧
    ∃ s : State, (∀ n, (s.coreAt n).services = 0) ∧ ∀ p, ∀ r ∈ (s.partAt p).regions, ∀ c ∈ r.saved, c.core.services = 0 :=
  ⟨⟨0, 0, launch, placed (fun c => { c with services := 1 }) launch [], _, by decide, by decide, rfl, rfl, by decide⟩,
    State.reset, fun n => by
      by_cases h : n = 7200
      · subst h; rfl
      · by_cases k : kindOf n = .treadle <;> simp [State.coreAt, State.reset, Tbl.get, h, k] <;> rfl,
    fun p r h => by simp [State.partAt, State.reset, Tbl.get, Part.free] at h⟩

theorem witness_RefreshTurns : ∃ (die : Nat) (s : State), (s.refreshAt die).busy = true :=
  ⟨0, { State.reset with hub := { Hub.reset with refresh := [(0, ⟨true, 3⟩)] } }, rfl⟩

/-- A launch of gang 1, of slices of 500 ns every 1,000 ns from 2,000 ns on. -/
def ganged : Region := { ready with rcb := { ready.rcb with gang := 1, glen := 500, gstart := 2000, gper := 1000 } }

/-- Partition 0 with that launch and a record of its gang. -/
def gangs (gs : List Gang) : State := { State.reset with
  parts := [(0, { part [ganged] with gangs := gs })], hub := hubOn }

/-- The gang's slice running with its crew still waiting for cluster 0. -/
def liveGang : Gang := ⟨1, 0, true, [⟨2, 0, 0⟩], [⟨2, 0, 0⟩], false, [], []⟩

theorem witness_GangSlices :
    (∃ (p g : Nat) (low : Region) (rs : List Region) (s s1 : State), gangRegions (s.partAt p) g = low :: rs ∧
      let k := s.gangAt p g low
      let seats := s.gangSeats p k (low :: rs)
      let out := (displaceable (s.partAt p) g (topPrio (low :: rs))).filter fun r =>
        r.clusters.any (seats.map fun w => w.cluster).contains
      s.surveyorIdle p = false ∧ k.live = false ∧
      s.advanceTo (low.rcb.gstart + k.slice * low.rcb.gper - out.foldl (fun m r => max m (classBound r.rcb.lclass)) 0) =
        some s1) ∧
    (∃ (p g : Nat) (low : Region) (rs : List Region) (s s1 : State), gangRegions (s.partAt p) g = low :: rs ∧
      let k := s.gangAt p g low
      s.surveyorIdle p = false ∧ k.live = false ∧ s.advanceTo (low.rcb.gstart + k.slice * low.rcb.gper) = some s1) ∧
    (∃ (p g : Nat) (low : Region) (rs : List Region) (s s2 : State) (l r : List GangSeat) (w : GangSeat),
      gangRegions (s.partAt p) g = low :: rs ∧
      let k := s.gangAt p g low
      k.live = true ∧ k.waiting.filter (fun x => x.crew == w.crew) = l ++ w :: r ∧
      (∀ x ∈ l, s.startGangCrew p x = none) ∧ s.startGangCrew p w = some s2) ∧
    ∃ (p g : Nat) (low : Region) (rs : List Region) (s s1 : State), gangRegions (s.partAt p) g = low :: rs ∧
      let k := s.gangAt p g low
      k.live = true ∧ (s.partAt p).stopped = false ∧
      s.advanceTo (low.rcb.gstart + k.slice * low.rcb.gper + low.rcb.glen) = some s1 := by
  refine ⟨?_, ?_, ?_, ?_⟩
  · obtain ⟨s1, h⟩ := Option.isSome_iff_exists.1 (show ((gangs []).advanceTo 2000).isSome = true by decide)
    exact ⟨0, 1, ganged, [], gangs [], s1, by decide, by decide, by decide, h⟩
  · obtain ⟨s1, h⟩ := Option.isSome_iff_exists.1 (show ((gangs []).advanceTo 2000).isSome = true by decide)
    exact ⟨0, 1, ganged, [], gangs [], s1, by decide, by decide, by decide, h⟩
  · obtain ⟨s2, h⟩ := Option.isSome_iff_exists.1
      (show ((gangs [liveGang]).startGangCrew 0 ⟨2, 0, 0⟩).isSome = true by decide)
    exact ⟨0, 1, ganged, [], gangs [liveGang], s2, [], [], ⟨2, 0, 0⟩, by decide, by decide, by decide, nofun, h⟩
  · obtain ⟨s1, h⟩ := Option.isSome_iff_exists.1 (show ((gangs [liveGang]).advanceTo 2500).isSome = true by decide)
    exact ⟨0, 1, ganged, [], gangs [liveGang], s1, by decide, by decide, by decide, h⟩

/-! ### Resources, recovery, the world outside -/

/-- Attach tables with cluster 3, hub hart 1 and channel 2 in a state. -/
def attached (st : Nat) : State := { State.reset with hub := { Hub.reset with
  clusterAtt := [(3, ⟨st, 0, 0⟩)], hubAtt := [(1, ⟨st, 0, 0⟩)], chanAtt := [(2, ⟨st, 0, 0⟩)] } }

theorem witness_ResourcesDrainAndScrub :
    (∃ (k : Nat) (s : State), (s.attachAt (.cluster k)).state = 3 ∧ s.clusterEmpty k = true) ∧
    (∃ (k : Nat) (s : State), (s.attachAt (.hubHart k)).state = 3 ∧ s.hubNamed k = false) ∧
    (∃ (k : Nat) (s : State), (s.attachAt (.cluster k)).state = 1 ∧ k < 800) ∧
    (∃ (k : Nat) (s : State), (s.attachAt (.hubHart k)).state = 1) ∧
    ∃ (k : Nat) (s : State), (s.attachAt (.channel k)).state = 1 ∧ k < 48 :=
  ⟨⟨3, attached 3, rfl, by decide⟩, ⟨1, attached 3, rfl, by decide⟩, ⟨3, attached 1, rfl, by decide⟩, ⟨1, attached 1, rfl⟩,
    ⟨2, attached 1, rfl, by decide⟩⟩

theorem witness_DeviceWrites : (∃ (p : Nat) (s : State), p < 16 ∧ (s.partAt p).state ≠ 2) ∧
    ∃ (p : Nat) (s : State), p < 16 ∧ (s.partAt p).state = 2 :=
  ⟨⟨15, State.reset, by decide, by decide⟩, ⟨0, oneReady, by decide, rfl⟩⟩

/-- Partition 0, held, with a recovery command, LPDDR-6 memory and an image at its start. -/
def recovering (cmd : Nat) : State := { State.reset with
  parts := [(0, { part [ready] with
    lsize := 0x100000
    recov := { Recovery.reset with hold := true, quiet := true, img := 0x1000000000000, cmd := cmd, stat := 1 } })]
  hub := { Hub.reset with images := [⟨0, 0, 0, [ready], []⟩] } }

theorem witness_RecoveryCommands : (∃ (p : Nat) (s : State), (s.partAt p).recov.hold = true ∧ s.busyRegions p = false) ∧
    (∃ (p : Nat) (s t : State) (k : Nat), (s.partAt p).recov.stat = 1 ∧ (s.partAt p).recov.cmd = 1 ∧
      s.saveImage p = (t, k)) ∧
    (∃ (p : Nat) (s t : State), (s.partAt p).recov.stat = 1 ∧ (s.partAt p).recov.cmd = 2 ∧ s.restoreImage p = (t, 0)) ∧
    ∃ (p : Nat) (s : State), (s.partAt p).recov.stat = 1 ∧ 8 ≤ (s.partAt p).recov.cmd := by
  refine ⟨⟨0, recovering 1, rfl, by decide⟩, ?_, ?_, ⟨0, recovering 16, rfl, by decide⟩⟩
  · cases e : (recovering 1).saveImage 0 with
    | mk t k => exact ⟨0, recovering 1, t, k, rfl, rfl, e⟩
  · cases e : (recovering 2).restoreImage 0 with
    | mk t k =>
      have h : ((recovering 2).restoreImage 0).2 = 0 := by decide
      rw [e] at h
      exact ⟨0, recovering 2, t, rfl, rfl, h ▸ e⟩

theorem witness_HostAccess : ∃ (vf off size p : Nat) (v : Word) (s : State), vf ≠ 16 ∧ s.partOfVf vf = some p ∧
    off + size ≤ (s.partAt p).nch * 6442450944 ∧
    (∃ t, s.physWrite (s.partAt p) off (leBytes size v.toNat) = (t, .ok ())) ∧
    ∃ t bs, s.physRead (s.partAt p) off size = (t, .ok bs) := by
  obtain ⟨t, v, e, -⟩ := ok_of (x := oneReady.physWrite (oneReady.partAt 0) 0x17FFFFFF8 (leBytes 8 7))
    (p := fun _ _ => true) (by decide)
  obtain ⟨t2, v2, e2, -⟩ := ok_of (x := oneReady.physRead (oneReady.partAt 0) 0x17FFFFFF8 8) (p := fun _ _ => true)
    (by decide)
  exact ⟨0, 0x17FFFFFF8, 8, 0, 7, oneReady, by decide, by decide, by decide, ⟨t, e⟩, ⟨t2, v2, e2⟩⟩

theorem witness_HostAccessOfPf : (∃ off size : Nat, off + size ≤ 16777216) ∧ (∃ off size : Nat, 16777216 < off + size) ∧
    ∃ q off : Nat, q < 16 ∧ off = Config.mirrorBase + 0x800 + 32 * q :=
  ⟨⟨0xFFFFF8, 8, by decide⟩, ⟨0xFFFFF9, 8, by decide⟩, ⟨15, _, by decide, rfl⟩⟩

theorem witness_HostAccessPastTheEnd : ∃ (vf off size : Nat) (s : State), vf ≠ 16 ∧ s.partOfVf vf = some 0 ∧
    ∀ p, s.partOfVf vf = some p → (s.partAt p).nch * 6442450944 < off + size := by
  refine ⟨0, 0x17FFFFFF9, 8, oneReady, by decide, by decide, fun p h => ?_⟩
  rw [show oneReady.partOfVf 0 = some 0 by decide] at h
  cases h
  decide

theorem witness_Boot : (∃ s : State, s.hub.firmware.recovery = true) ∧ (∃ s : State, s.hub.firmware.recovery = false) ∧
    ∃ s : State, s.hub.firmware.lowerLeaf < 1024 ∧ s.hub.firmware.running ≠ none :=
  ⟨⟨{ State.reset with hub := { Hub.reset with firmware := { Hub.reset.firmware with recovery := true } } }, rfl⟩,
    ⟨State.reset, rfl⟩,
    ⟨{ State.reset with hub := { Hub.reset with firmware := { Hub.reset.firmware with running := some 0 } } }, by decide,
      by decide⟩⟩

theorem witness_PortsAndTime : ∃ (p : Nat) (s : State), (s.hub.ports.get Port.reset p).down = false :=
  ⟨0, State.reset, rfl⟩

theorem witness_PowerAndHealth : (∃ (s : State) (watts celsius : Nat), s.hub.power.trip = false ∧ 4 ≤ s.hub.power.duty ∧
      s.hub.power.duty ≤ 8 ∧ celsius < 115 ∧ s.hub.power.pl < watts ∧ 105 < celsius ∧ s.hub.power.duty ≠ 4) ∧
    (∃ (s : State) (watts celsius : Nat), s.hub.power.trip = false ∧ 4 ≤ s.hub.power.duty ∧
      watts ≤ s.hub.power.pl ∧ celsius ≤ 105 ∧ s.hub.power.duty ≠ 8) ∧
    (∃ s : State, s.hub.power.trip = true ∧ s.hub.power.tj < 100) ∧ ∃ s : State, 100 ≤ s.hub.power.tj :=
  ⟨⟨State.reset, 2401, 114, rfl, by decide, by decide, by decide, by decide, by decide, by decide⟩,
    ⟨{ State.reset with hub := { Hub.reset with power := ⟨2400, 0, 0, 4, 0, false⟩ } }, 2400, 105, rfl, by decide,
      by decide, by decide, by decide⟩,
    ⟨{ State.reset with hub := { Hub.reset with power := ⟨2400, 0, 99, 0, 1, true⟩ } }, rfl, by decide⟩,
    ⟨{ State.reset with hub := { Hub.reset with power := ⟨2400, 0, 100, 0, 1, true⟩ } }, by decide⟩⟩

/-- A peer's put of one element to partition 0's region 2. -/
def peerPut : FabricReq := ⟨0, .put, 0, 2, false, 0, 0x2000, .s32, 0, 1, [7], 0, 0, 0⟩

theorem witness_PeerCommands : (∃ (q : FabricReq) (s : State),
      (q.kind ≠ .get ∨ Config.peerInDomain q.peer = false) ∧ (s.partAt q.part).stopped = false ∧
      s.regionAt q.part q.regid = none) ∧
    ∃ (q : FabricReq) (s t : State) (r : Region) (l : List Nat),
      (q.kind ≠ .get ∨ Config.peerInDomain q.peer = false) ∧ (s.partAt q.part).stopped = false ∧
      s.regionAt q.part q.regid = some r ∧
      peerElems q ⟨7200, some q.part, r.rcb.fasid, .u, some r.rcb.wsmask, .device⟩ q.count 0 s = (t, l, none) := by
  obtain ⟨t, l, e, -⟩ := done_of (x := peerElems peerPut ⟨7200, some 0, ready.rcb.fasid, .u, some ready.rcb.wsmask, .device⟩ 1 0
    (withMem oneReady tables)) (p := fun _ _ => true) (by decide)
  exact ⟨⟨peerPut, State.reset, .inl (by decide), by decide, by decide⟩, ⟨peerPut, withMem oneReady tables, t, ready, l,
    .inl (by decide), by decide, by decide, e⟩⟩

/-! ### The rest -/

theorem witness_TrapRegisterWrites : ∃ (d a cn k : Nat) (l : Level) (s : State), trapCr cn = some (l, k) ∧ s.kind = .hub ∧
    rankOf l ≤ rankOf s.core.level ∧ ∀ f ∈ crForms d a cn, Clear f.1 s :=
  ⟨1, 3, 0x104, 4, .s, hub id id [], by decide, rfl, by decide, forms_of (by decide)⟩

theorem witness_ClockReads : ∃ d, (∃ s, Clear (.crRd d 0x031) s) ∧ (∃ s, Clear (.crRd d 0x030) s ∧ s.kind = .hub) ∧
    (∃ s, Clear (.crRd d 0x030) s ∧ s.kind ≠ .hub) ∧ ∃ s, Clear (.crRd d 0x028) s ∧ s.kind ≠ .hub :=
  ⟨1, ⟨hart id, clear_of (by decide)⟩, ⟨hub id id [], clear_of (by decide), rfl⟩,
    ⟨hart id, clear_of (by decide), by decide⟩, ⟨hart id, clear_of (by decide), by decide⟩⟩

theorem witness_MemoryStaysCanonical : ∃ s t, State.canonical s ∧ step s = .next t := by
  cases e : step State.reset with
  | next t => exact ⟨State.reset, t, State.canonical_reset, e⟩
  | fault f =>
    have h : (match step State.reset with
      | .next _ => true
      | _ => false) = true := by decide
    rw [e] at h; cases h
  | refused r =>
    have h : (match step State.reset with
      | .next _ => true
      | _ => false) = true := by decide
    rw [e] at h; cases h

/-! ### Decode-time traps, conditions of scalar accesses -/

theorem at_of {i : Instr} {s : State} (h : encodeWords i ≠ [] ∧ WellFormed i = true ∧ s.serviceHeld s.cur = false ∧
    s.core.resume = none ∧ s.core.rider = none) (e : ∀ w, i ≠ .emulate w ∧ i ≠ .illegalWord w) : AtDecode i s :=
  ⟨h.1, h.2.1, e, h.2.2.1, h.2.2.2.1, h.2.2.2.2⟩

/-- A hart of the launch in a partition with every feature masked. -/
def allMasked : State := { placed id launch [] with parts := [(0, { part [launch] with feat := 255 })] }

theorem witness_EarlyChecks : (∃ i s, AtDecode i s ∧ ¬ lawful i s) ∧
    (∃ i s k, AtDecode i s ∧ lawful i s ∧ belongs i k = true ∧ s.masked s.cur k = true) ∧
    (∃ i s, AtDecode i s ∧ unmasked i s ∧ misplaced i s = true) ∧
    ∃ i s, AtDecode i s ∧ unmasked i s ∧ misplaced i s = false ∧ needsGrant i s = true ∧ s.core.ident.lanes = 0 :=
  ⟨⟨.sBind 8 1, treadle id, at_of (by decide) fun _ => ⟨nofun, nofun⟩, by unfold lawful; decide⟩,
    ⟨.fAdd 1 2 3 .f64 .rne, allMasked, 7, at_of (by decide) fun _ => ⟨nofun, nofun⟩, by unfold lawful; decide, by decide,
      by decide⟩,
    ⟨.mCfg 1, hart id, at_of (by decide) fun _ => ⟨nofun, nofun⟩, ⟨by unfold lawful; decide, fun _ _ => rfl⟩, by decide⟩,
    ⟨.lnSet 1 2 .g1 0 false, hart fun c => { c with ident := { c.ident with lanes := 0 } },
      at_of (by decide) fun _ => ⟨nofun, nofun⟩, ⟨by unfold lawful; decide, fun _ _ => rfl⟩, by decide, by decide, rfl⟩⟩

theorem witness_LateChecks :
    (∃ i s, AtDecode i s ∧ inPlace i s ∧ s.core.strip.len ≠ 0 ∧ laneMajor (major i) = true ∧
      s.core.win.ctx ≠ s.core.win.vown) ∧
    (∃ i s, AtDecode i s ∧ inPlace i s ∧ laneMajor (major i) = false ∧ needsTile i s.core.strip.len.toNat = true ∧
      (s.clusterAt (clusterOf s.cur)).enable = false) ∧
    ∃ i s r, AtDecode i s ∧ inPlace i s ∧ laneMajor (major i) = false ∧ needsTile i s.core.strip.len.toNat = false ∧
      r ∈ readsOf s.kind i ∧ r ≠ .x 0 ∧ r ∈ s.core.badRegs :=
  ⟨⟨.vMov 1 2 0, hart fun c => { c with win := { c.win with ctx := 1 } }, at_of (by decide) fun _ => ⟨nofun, nofun⟩,
      ⟨⟨by unfold lawful; decide, fun _ _ => rfl⟩, by decide, by decide⟩, by decide, by decide, by decide⟩,
    ⟨.mCfg 1, { treadle id with clusters := [] }, at_of (by decide) fun _ => ⟨nofun, nofun⟩,
      ⟨⟨by unfold lawful; decide, fun _ _ => rfl⟩, by decide, by decide⟩, by decide, by decide, by decide⟩,
    ⟨.xAdd 1 2 3 false, hart fun c => { c with badRegs := [.x 3] }, .x 3, at_of (by decide) fun _ => ⟨nofun, nofun⟩,
      ⟨⟨by unfold lawful; decide, fun _ _ => rfl⟩, by decide, by decide⟩, by decide, by decide, by decide, by decide, by decide⟩⟩

/-- Hart 0 with another vector owner in its window, resuming an instruction at a progress index. -/
def resuming (k : Nat) : State := hart fun c => { c with
  win := { c.win with ctx := 1 }, resume := some ⟨8, .n32, .n32, .n32, 0, 0, 0, k, 0, 0, false, false⟩ }

theorem witness_ResumedOwner : ∀ k : Nat, ∃ i s is, WellFormed i = true ∧ encodeWords i ≠ [] ∧
    s.serviceHeld s.cur = false ∧ s.core.resume = some is ∧ is.start = k ∧ inPlace i s ∧ laneMajor (major i) = true ∧
    s.core.win.ctx ≠ s.core.win.vown := fun k =>
  ⟨.vMov 1 2 0, resuming k, _, by decide, by decide, rfl, rfl, rfl, ⟨⟨nofun, fun _ _ => rfl⟩, rfl, fun _ => nofun⟩, by decide,
    nofun⟩

/-- A scalar access that comes to a condition, in a state of which p holds. -/
def metWith (x : Option (Nat × State × Option Cond)) (c : Cond) (p : State → Bool) : Bool := match x with
  | some (_, t, some d) => decide (d = c) && p t
  | _ => false

theorem met_of {x : Option (Nat × State × Option Cond)} {c : Cond} {p : State → Bool} (h : metWith x c p = true) :
    ∃ va t, x = some (va, t, some c) ∧ p t = true := by
  obtain _ | ⟨va, t, _ | d⟩ := x
  · cases h
  · cases h
  · simp only [metWith, Bool.and_eq_true, decide_eq_true_eq] at h
    exact ⟨va, t, by rw [h.1], h.2⟩

/-- The launch of hart 0 with a fault policy, x3 at a page that is not present. -/
def policy (f : Nat) : State :=
  withMem (placed (fun c => { c with x := [(3, 0x20000)] }) { launch with rcb := { launch.rcb with fpol := f } } []) tables

theorem witness_ScalarConditions : (∃ i s t va code c p r st, Clear i s ∧ scalarAccess s i = some (va, t, some c) ∧
      causeCode c = some code ∧ t.partOf s.cur = some p ∧ t.launchOf s.cur = some r ∧
      endsWith (some r.rcb.fpol) c = some st) ∧
    ∃ i s t va code c, Clear i s ∧ scalarAccess s i = some (va, t, some c) ∧ causeCode c = some code ∧
      endsWith ((t.launchOf s.cur).map fun r => r.rcb.fpol) c = none := by
  constructor
  · obtain ⟨va, t, e, h⟩ := met_of (x := scalarAccess (policy 1) (.ldX64 1 3 0 0)) (c := .notPresent)
      (p := fun t => decide (t.partOf 0 = some 0) && decide (t.launchOf 0 =
        some { launch with rcb := { launch.rcb with fpol := 1 } })) (by decide +kernel)
    rw [Bool.and_eq_true, decide_eq_true_eq, decide_eq_true_eq] at h
    exact ⟨.ldX64 1 3 0 0, policy 1, t, va, _, .notPresent, 0, _, 2, clear_of (by decide), e, rfl, h.1, h.2, rfl⟩
  · obtain ⟨va, t, e, h⟩ := met_of (x := scalarAccess (policy 0) (.ldX64 1 3 0 0)) (c := .notPresent)
      (p := fun t => decide (endsWith ((t.launchOf 0).map fun r => r.rcb.fpol) .notPresent = none)) (by decide +kernel)
    exact ⟨.ldX64 1 3 0 0, policy 0, t, va, _, .notPresent, clear_of (by decide), e, rfl, of_decide_eq_true h⟩

theorem witness_TranslationsWalk : ∃ (s : State) (w : Who) (p : Nat), s.errorFree ∧ s.tlb = [] ∧ s.walks = [] ∧
    w.part = some p ∧ walkOf s (s.partAt p) w .read 0x2000 = .ok (0x6003F, 0x40000, 0x60000) ∧
    walkOf s (s.partAt p) w .write 0x20000 = .error .notPresent :=
  ⟨policy 0, (policy 0).who 0, 0, ⟨rfl, rfl, rfl⟩, rfl, rfl, by decide, by decide +kernel, by decide +kernel⟩

/-- Tables whose first page is not present and whose second may not be read. -/
def unreadable : State := withMem (placed id launch []) [(8, 1), (9, 0x80), (0x8000, 1), (0x8002, 2), (0x20000, 1),
  (0x20002, 4), (0x40008, 3), (0x4000A, 6)]

theorem witness_ConditionsRank : ∃ (s : State) (w : Who) (va n align : Nat) (t u : State) (c d : Cond),
    va % align = 0 ∧ 4096 - va % 4096 < n ∧ locateBlock s w .read va (4096 - va % 4096) = (t, .error c) ∧
    locateBlock t w .read ((va + (4096 - va % 4096)) % 2 ^ 64) (n - (4096 - va % 4096)) = (u, .error d) ∧
    c = .notPresent ∧ d = .permission := by
  obtain ⟨t, e, h⟩ := fail_of (x := locateBlock unreadable (unreadable.who 0) .read 0x1FFFC 4) (c := .notPresent)
    (p := fun t => failWith (locateBlock t (unreadable.who 0) .read 0x20000 4) .permission fun _ => true)
    (by decide +kernel)
  obtain ⟨u, e2, _⟩ := fail_of h
  exact ⟨unreadable, unreadable.who 0, 0x1FFFC, 8, 4, t, u, _, _, by decide, by decide, e, e2, rfl, rfl⟩

/-- Hart 0, where the 16-byte word at 0x2000 cannot be corrected. -/
def badWord : State := { hart id with hub := { Hub.reset with badWords := [0x200] } }

theorem witness_BadWordsFail : ∃ (s t : State) (va size k b : Nat) (io win : Bool), s.hub.linkFails = [] ∧
    locate s (s.who s.cur) .read va size size = (t, .ok (.mem [(k, size)] io win)) ∧ t.hub.linkFails = [] ∧
    b ∈ t.hub.badWords ∧ 16 * b < k + size ∧ k < 16 * b + 16 := by
  obtain ⟨t, l, e, h⟩ := ok_of (x := locate badWord (badWord.who 0) .read 0x200F 1 1)
    (p := fun t l => decide (l = .mem [(0x200F, 1)] false false) && (decide (t.hub.linkFails = []) &&
      decide (0x200 ∈ t.hub.badWords))) (by decide)
  simp only [Bool.and_eq_true, decide_eq_true_eq] at h
  obtain ⟨rfl, h1, h2⟩ := h
  exact ⟨badWord, t, 0x200F, 1, 0x200F, 0x200, false, false, rfl, e, h1, h2, by decide, by decide⟩

/-! ### What the helpers compute -/

theorem witness_CodesDecode : ∀ f ∈ formats, 0 < infCode f ∧ infCode f < infCode f + 1 ∧ infCode f + 1 < signWeight f := by
  decide

theorem witness_SpecialOperands : (∃ a b : Val, a.isNan = true ∨ b.isNan = true) ∧ (∃ n1 n2 : Bool, n1 ≠ n2) ∧
    ∃ m : Nat, m ≠ 0 := ⟨⟨.nan true, .inf false, .inl rfl⟩, ⟨true, false, nofun⟩, 1, nofun⟩

theorem witness_QuotientsAndRoots : ∃ f ∈ formats, ∃ m1 m2 : Nat, 0 < m1 ∧ 0 < m2 :=
  ⟨Fl.bf16, by decide, 1, 3, by decide, by decide⟩

theorem witness_IntegersRound : ∃ lo hi : Int, lo ≤ hi := ⟨-128, -128, by decide⟩

theorem witness_PowersExact : ∃ (k : Int) (a : Nat) (e : Int), k.natAbs < 2 ^ 40 ∧ e + a = k :=
  ⟨-149, 3, -152, by decide, by decide⟩

theorem witness_ElementResultsRound : ∃ t ta tb td a b d x y z, Tag.isFloat t = true ∧ Tag.isFloat ta = true ∧
    Tag.isFloat tb = true ∧ Tag.isFloat td = true ∧ slotReal ta a = some x ∧ slotReal tb b = some y ∧
    slotReal td d = some z :=
  ⟨.fp32, .bf16, .fp32, .bf16, 0x3F800000, 0xFF7FFFFF, 0, _, _, _, rfl, rfl, rfl, rfl, rfl, rfl, rfl⟩

theorem witness_IntervalsEnclose : IvArith .div ∧ (∃ x y : Word, ¬ illPair x ∧ ¬ illPair y) ∧ (∃ x : Word, illPair x) ∧
    ∃ thr, thr < 0x7F800000 :=
  ⟨trivial, ⟨0x400000003F800000, emptyPair, by unfold illPair; decide, by unfold illPair; decide⟩,
    ⟨illWord, by unfold illPair; decide⟩, 0x7F7FFFFF, by decide⟩

/-! ### Record queues -/

/-- Hart 0 of the launch, each queue's control block at 0x1000, with memory. -/
def queues (m : List Host.Cell) : State := withMem { placed id launch [] with
  parts := [(0, { part [launch] with fqcb := 0x1000, tqcb := 0x1000, cacb := 0x1000 })] } m

/-- Blocks of rings of 2 ^ n entries from address 0 on, with the second byte of PROD. -/
def ringOf (n prod1 : Byte) : State := queues [(0x1008, n), (0x1011, prod1)]

theorem block_of {s : State} {p kc : Nat} {g : RingOf} (h : (s.hub.badWords = [] ∧ s.hub.softWords = [] ∧
      s.hub.linkFails = []) ∧ g.block (s.partAt p) % 64 = 0 ∧ tableKey (s.partAt p) (g.block (s.partAt p)) = some kc ∧
      tableKey (s.partAt p) (g.block (s.partAt p) + 16) = some (kc + 16) ∧
      tableKey (s.partAt p) (g.block (s.partAt p) + 32) = some (kc + 32)) : BlockAt s p g kc :=
  ⟨⟨h.1.1, h.1.2.1, h.1.2.2⟩, h.2.1, h.2.2.1, h.2.2.2.1, h.2.2.2.2⟩

theorem witness_TrapEntries : (∃ (s : State) (n cause p kc ke : Nat), kindOf n ≠ .hub ∧ s.partOf n = some p ∧ cause ≠ 12 ∧
      BlockAt s p trapRing kc ∧ blockUsable s trapRing kc ∧ ¬ ringFull s kc ∧ EntryAt s p trapRing kc ke) ∧
    (∃ (s : State) (p kc : Nat), BlockAt s p trapRing kc ∧ ringFull s kc) ∧
    ∃ (s : State) (p kc : Nat), BlockAt s p trapRing kc ∧ ¬ blockUsable s trapRing kc :=
  ⟨⟨ringOf 13 0, 0, 10, 0, 0x1000, 0, by decide, by decide, by decide, block_of (by decide),
      by unfold blockUsable; decide, by unfold ringFull; decide, ⟨by decide, by decide⟩⟩,
    ⟨ringOf 13 0x20, 0, 0x1000, block_of (by decide), by unfold ringFull; decide⟩,
    ⟨ringOf 12 0, 0, 0x1000, block_of (by decide), by unfold blockUsable; decide⟩⟩

theorem witness_FaultRecords : (∃ (s : State) (core p kc ke : Nat), s.partOf core = some p ∧ BlockAt s p faultRing kc ∧
      blockUsable s faultRing kc ∧ ¬ ringFull s kc ∧ EntryAt s p faultRing kc ke) ∧
    ∃ (s : State) (core p kc : Nat), s.partOf core = some p ∧ BlockAt s p faultRing kc ∧ ringFull s kc :=
  ⟨⟨ringOf 6 0, 0, 0, 0x1000, 0, by decide, block_of (by decide), by unfold blockUsable; decide,
      by unfold ringFull; decide, ⟨by decide, by decide⟩⟩,
    ⟨ringOf 8 1, 0, 0, 0x1000, by decide, block_of (by decide), by unfold ringFull; decide⟩⟩

theorem witness_CairnEntries : ∃ (s : State) (p kc ke : Nat), BlockAt s p cairnRing kc ∧ blockUsable s cairnRing kc ∧
    EntryAt s p cairnRing kc ke ∧ ringSize s kc ≤ prodOf s kc :=
  ⟨ringOf 8 1, 0, 0x1000, 0, block_of (by decide), by unfold blockUsable; decide, ⟨by decide, by decide⟩, by decide⟩

theorem witness_CompletionWordWritten : (∃ (s t : State) (p : Nat) (r : Region) (k : Nat), s.errorFree ∧ s.lag = none ∧
      locate s ⟨7200, some p, r.rcb.asid, .s, some r.rcb.wsmask, .device⟩ .write r.rcb.cword.toNat 8 8 =
        (t, .ok (.mem [(k, 8)] false false))) ∧
    ∃ (s t : State) (p : Nat) (r : Region) (c : Cond),
      locate s ⟨7200, some p, r.rcb.asid, .s, some r.rcb.wsmask, .device⟩ .write r.rcb.cword.toNat 8 8 = (t, .error c) := by
  constructor
  · obtain ⟨t, e⟩ := run_of (x := locate (policy 0) ⟨7200, some 0, 1, .s, some launch.rcb.wsmask, .device⟩ .write 0x100 8 8)
      (k := 0x60100) 8 (by decide +kernel)
    exact ⟨policy 0, t, 0, launch, 0x60100, ⟨rfl, rfl, rfl⟩, rfl, e⟩
  · obtain ⟨t, e, _⟩ := fail_of (x := locate (queues []) ⟨7200, some 0, 1, .s, some launch.rcb.wsmask, .device⟩ .write
      0x100 8 8) (c := .permission) (p := fun _ => true) (by decide +kernel)
    exact ⟨queues [], t, 0, launch, .permission, e⟩

/-! ### Invariants -/

/-- A step or an instruction that answers a next state of which p holds. -/
def nextWith (x : Host.Outcome State Fault Refusal) (p : State → Bool) : Bool := match x with
  | .next t => p t
  | _ => false

theorem next_of {x : Host.Outcome State Fault Refusal} {p : State → Bool} (h : nextWith x p = true) :
    ∃ t, x = .next t ∧ p t = true := by
  cases x with
  | next t => exact ⟨t, rfl, h⟩
  | fault _ => cases h
  | refused _ => cases h

theorem witness_StripLengthsHold : ∃ s t, coresInOrder s ∧ step s = .next t := by
  obtain ⟨t, e, _⟩ := next_of (x := step (hart id)) (p := fun _ => true) (by decide)
  exact ⟨hart id, t, ⟨by unfold coreInOrder; decide, by unfold coreInOrder; decide⟩, e⟩

theorem witness_StripRules : ∀ i ∈ [Instr.lnSet 1 3 .g1 0 false, .lnRel, .vstUn 1 3 0 .s16], ∃ s t, encodeWords i ≠ [] ∧
    s.core.run = .running ∧ (s.cur < 7200 → s.core.level = .u) ∧ exec i s = .next t ∧ t.core.run ≠ .absent := by
  have h : ∀ i ∈ [Instr.lnSet 1 3 .g1 0 false, .lnRel, .vstUn 1 3 0 .s16], encodeWords i ≠ [] ∧
    nextWith (exec i (hart filled)) (fun t => decide (t.core.run ≠ .absent)) = true := by decide
  intro i hi
  obtain ⟨t, e, h2⟩ := next_of (h i hi).2
  exact ⟨hart filled, t, (h i hi).1, rfl, fun _ => rfl, e, of_decide_eq_true h2⟩

theorem witness_LevelRisesByTrap : ∃ i s t, encodeWords i ≠ [] ∧ s.core.run = .running ∧ s.core.rider = none ∧
    (s.cur < 7200 → s.core.level = .u) ∧ exec i s = .next t ∧ t.core.run ≠ .absent ∧
    levelCode s.core.level < levelCode t.core.level := by
  obtain ⟨t, e, h⟩ := next_of (x := exec .zCall (hub id id [])) (p := fun t => decide (t.core.run ≠ .absent ∧
    levelCode .s < levelCode t.core.level)) (by decide)
  have h := of_decide_eq_true h
  exact ⟨.zCall, hub id id [], t, by decide, rfl, rfl, by decide, e, h.1, h.2⟩

/-! ## Words written out from the encoding tables (R42, R44 to R49) -/

/-- Each word decodes to what stands beside it. -/
def decodes (n : Nat) (l : List (Nat × Instr)) : Bool := l.all fun e => decide (decodeTableWord n e.1 = some e.2)

/-- Major 0x02, d 5, a 6, b 7, sat 1 where there is one. -/
theorem test_decode_x : decodes 32 [
    (0x08518704, .xAdd 5 6 7 true), (0x0851870C, .xSub 5 6 7 true), (0x08518710, .xAnd 5 6 7),
    (0x08518718, .xOr 5 6 7), (0x08518720, .xXor 5 6 7), (0x08518728, .xAndn 5 6 7), (0x08518734, .xShl 5 6 7 true),
    (0x08518738, .xShr 5 6 7), (0x08518740, .xSar 5 6 7), (0x0851874C, .xMul 5 6 7 true), (0x08518750, .xMulh 5 6 7),
    (0x08518758, .xMulhn 5 6 7), (0x08518760, .xDiv 5 6 7), (0x08518768, .xDivn 5 6 7), (0x08518770, .xRem 5 6 7),
    (0x08518778, .xRemn 5 6 7), (0x08518780, .xMin 5 6 7), (0x08518788, .xMax 5 6 7), (0x08518790, .xMinn 5 6 7),
    (0x08518798, .xMaxn 5 6 7), (0x085187A0, .xSlt 5 6 7), (0x085187A8, .xSltn 5 6 7), (0x085187B0, .xSeq 5 6 7),
    (0x085187B8, .xSel 5 6 7), (0x085180C0, .xClz 5 6), (0x085180C8, .xCtz 5 6),
    (0x085180D0, .xPopc 5 6)] = true := by decide

/-- Major 0x03, d 5, a 6, fn 13:11, immediate 10:0. -/
theorem test_decode_xi : decodes 32 [
    (0x0C5187FE, .xiAdd 5 6 (-2)), (0x0C518FFE, .xiAnd 5 6 (-2)), (0x0C5197FE, .xiOr 5 6 (-2)),
    (0x0C519FFE, .xiXor 5 6 (-2)), (0x0C51A03F, .xiShl 5 6 63), (0x0C51A83F, .xiShr 5 6 63),
    (0x0C51B03F, .xiSar 5 6 63), (0x0C51BBFF, .xiSlt 5 6 1023)] = true := by decide

/-- Major 0x05, fn 7:4, fm 3:2, rm 1:0; f.cvt with its kinds in 13:11 and 10:8. -/
theorem test_decode_f : decodes 32 [
    (0x14518707, .fAdd 5 6 7 .f32 .rup), (0x14518717, .fSub 5 6 7 .f32 .rup), (0x14518727, .fMul 5 6 7 .f32 .rup),
    (0x14518737, .fFma 5 6 7 .f32 .rup), (0x14518747, .fDiv 5 6 7 .f32 .rup), (0x14518059, .fSqrt 5 6 .bf16 .rtz),
    (0x14518762, .fMin 5 6 7 .f64 .rdn), (0x14518772, .fMax 5 6 7 .f64 .rdn), (0x14518787, .fCmp 5 6 7 .f32 .uo),
    (0x14518B91, .fCvt 5 6 .f32 .s64 .rtz), (0x145180A0, .fClass 5 6 .f64 .rne)] = true := by decide

/-- Majors 0x06, offset -4 in 25:20 and 7:3, and 0x07. -/
theorem test_decode_branch : decodes 32 [
    (0x1BF187E0, .bEq 6 7 (-4)), (0x1BF187E1, .bNe 6 7 (-4)), (0x1BF187E2, .bLt 6 7 (-4)),
    (0x1BF187E3, .bGe 6 7 (-4)), (0x1BF187E4, .bLtn 6 7 (-4)), (0x1BF187E5, .bGen 6 7 (-4)),
    (0x1C5FFFFC, .jLink 5 (-1)), (0x1C51A001, .jInd 5 6 (-2048))] = true := by decide

/-- Majors 0x08 and 0x09, fn in the lowest bits. -/
theorem test_decode_ln_cr : decodes 32 [
    (0x2051B090, .lnSet 5 6 .g32 4 true), (0x20518002, .lnTrim 5 6), (0x20000003, .lnRel), (0x24500014, .crRd 5 5),
    (0x2451BFFD, .crWr 5 6 0xFFF), (0x24518412, .crSet 5 6 0x104), (0x24518413, .crClr 5 6 0x104)] = true := by decide

/-- Majors 0x0A and 0x0B, sz 13:11, cls 10:7, offset 6:0. -/
theorem test_decode_ld_st : decodes 32 [
    (0x285184FF, .ldS8 5 6 9 (-1)), (0x28518CFF, .ldN8 5 6 9 (-1)), (0x285194FF, .ldS16 5 6 9 (-1)),
    (0x28519CFF, .ldN16 5 6 9 (-1)), (0x2851A4FF, .ldS32 5 6 9 (-1)), (0x2851ACFF, .ldN32 5 6 9 (-1)),
    (0x2851B4FF, .ldX64 5 6 9 (-1)), (0x2C5187BF, .stS8 5 6 15 63), (0x2C5197BF, .stS16 5 6 15 63),
    (0x2C51A7BF, .stS32 5 6 15 63), (0x2C51B7BF, .stX64 5 6 15 63)] = true := by decide

/-- Major 0x0C, fn 7:4, ord 3:2, sco 1:0. -/
theorem test_decode_am : decodes 32 [
    (0x3051870D, .amAdd 5 6 7 .ar .die), (0x3051871D, .amAnd 5 6 7 .ar .die), (0x3051872D, .amOr 5 6 7 .ar .die),
    (0x3051873D, .amXor 5 6 7 .ar .die), (0x3051874D, .amMax 5 6 7 .ar .die), (0x3051875D, .amMin 5 6 7 .ar .die),
    (0x3051876D, .amMaxn 5 6 7 .ar .die), (0x3051877D, .amMinn 5 6 7 .ar .die), (0x3051878D, .amSwap 5 6 7 .ar .die),
    (0x3051879D, .amCas 5 6 7 .ar .die), (0x305180A6, .amLd 5 6 .acq .pkg),
    (0x305180BB, .amSt 5 6 .rel .sys)] = true := by decide

/-- Majors 0x0D and 0x0E; the word 0x3A39C000 is the manual's own (R55). -/
theorem test_decode_y_ride : decodes 32 [
    (0x36000600, .yFence 0x8001 .sys), (0x34080481, .yXfence 2 1 .crew), (0x34000002, .yBar), (0x34000003, .yEnd),
    (0x34518704, .yWait 5 6 7), (0x3A39C000, .ride true 3 true 7 false 0),
    (0x38003E00, .ride false 0 false 0 true 15)] = true := by decide

/-- Major 0x0F, fn 7:3. -/
theorem test_decode_z : decodes 32 [
    (0x3C000000, .zCall), (0x3C000008, .zBrk), (0x3C000010, .zRet), (0x3C518018, .zHres 5 6),
    (0x3C518020, .zHstop 5 6), (0x3C018028, .zInva 6), (0x3C018730, .zInvs 6 7), (0x3C000038, .zInvp),
    (0x3C518040, .zSpawn 5 6), (0x3C518748, .zKill 5 6 7), (0x3C000050, .zYield), (0x3C518058, .zWsopen 5 6),
    (0x3C518060, .zWsclose 5 6)] = true := by decide

/-- Majors 0x10 (0x11 with sat) and 0x12, km 7:3, fn 2:0. -/
theorem test_decode_v : decodes 32 [
    (0x44518710, .vAdd 5 6 7 2 true), (0x44518711, .vSub 5 6 7 2 true), (0x44518712, .vMul 5 6 7 2 true),
    (0x43F187BB, .vFma 63 6 7 23), (0x43F187BC, .vFms 63 6 7 23), (0x43F187BD, .vDiv 63 6 7 23),
    (0x43F187BE, .vMin 63 6 7 23), (0x43F187BF, .vMax 63 6 7 23), (0x48518710, .vAnd 5 6 7 2),
    (0x48518711, .vOr 5 6 7 2), (0x48518712, .vXor 5 6 7 2), (0x48518713, .vShl 5 6 7 2), (0x48518714, .vShr 5 6 7 2),
    (0x48518715, .vSar 5 6 7 2), (0x48518716, .vSel 5 6 7 2), (0x48518717, .vSlide 5 6 7 2)] = true := by decide

/-- Majors 0x13 and 0x14. -/
theorem test_decode_v_perm : decodes 32 [
    (0x4C518710, .vPerm 5 6 7 2), (0x4C518011, .vComp 5 6 2), (0x4C518012, .vExpd 5 6 2), (0x4C518013, .vRev 5 6 2),
    (0x4C500014, .vIota 5 2), (0x4C518705, .vMvx 5 6 7), (0x4C518716, .vTr 5 6 7 2), (0x4C518717, .vTc 5 6 7 2),
    (0x50518716, .vCmp 5 6 7 2 .uo)] = true := by decide

/-- Major 0x15, fu 13:8, md 2:0, and 0x16. -/
theorem test_decode_v_unary : decodes 32 [
    (0x54518010, .vAbs 5 6 2), (0x54518110, .vNeg 5 6 2), (0x54518210, .vNot 5 6 2), (0x54518310, .vSqrt 5 6 2),
    (0x54518410, .vExp2 5 6 2), (0x54518510, .vLog2 5 6 2), (0x54518614, .vCvt 5 6 2 .ix),
    (0x54518715, .vTag 5 6 2 .pk), (0x54518810, .vMov 5 6 2), (0x54518913, .vSplat 5 6 2 .bf16),
    (0x58518010, .vrSum 5 6 2), (0x58518011, .vrMax 5 6 2), (0x58518012, .vrMin 5 6 2), (0x58518013, .vrAnd 5 6 2),
    (0x58518014, .vrOr 5 6 2)] = true := by decide

/-- Major 0x17, fn 7:3. -/
theorem test_decode_k : decodes 32 [
    (0x5C518700, .kAnd 5 6 7), (0x5C518708, .kOr 5 6 7), (0x5C518710, .kXor 5 6 7), (0x5C518718, .kAndn 5 6 7),
    (0x5C518020, .kNot 5 6), (0x5C518028, .kMov 5 6), (0x5C518730, .kWhile 5 6 7), (0x5C518038, .kBrka 5 6),
    (0x5C518040, .kBrkb 5 6), (0x5C518048, .kCnt 5 6), (0x5C518050, .kFirst 5 6)] = true := by decide

/-- Majors 0x18 to 0x29, km 7:3, fl 2:0; the word 0x64428010 is the manual's own (R42). -/
theorem test_decode_vm : decodes 32 [
    (0x64428010, .vldUn 4 10 2 .bf16), (0x60518017, .vldUn 5 6 2 .ix), (0x6C518711, .vldSd 5 6 7 2 .e4m3),
    (0x70518712, .vldX 5 6 7 2 .s16), (0x78518010, .vldSm 5 6 2), (0x7C518010, .qldUn 5 6 2),
    (0x7C518711, .qldSd 5 6 7 2), (0x84518015, .vstUn 5 6 2 .e2m1), (0x88518716, .vstSd 5 6 7 2 .f32),
    (0x94518717, .vstX 5 6 7 2 .pk), (0x98518715, .vstXa 5 6 7 2 .n32), (0x9C518010, .vstSm 5 6 2),
    (0xA0518010, .vstQun 5 6 2), (0xA0518711, .vstQsd 5 6 7 2), (0xA4518710, .vamAdd 5 6 7 2),
    (0xA4518711, .vamMin 5 6 7 2), (0xA4518712, .vamMax 5 6 7 2), (0xA4518713, .vamAnd 5 6 7 2),
    (0xA4518714, .vamOr 5 6 7 2), (0xA4518715, .vamXor 5 6 7 2), (0xA4518716, .vamSwap 5 6 7 2)] = true := by decide

/-- Major 0x2A, fn 7:5. -/
theorem test_decode_s : decodes 32 [
    (0xA8518000, .sBind 5 6), (0xA8500020, .sRel 5), (0xA8518040, .sSkip 5 6),
    (0xA8518060, .sPos 5 6)] = true := by decide

/-- Major 0x2B, fn 7:3, c 2, cq 1:0, and 0x2E with w 7:3. -/
theorem test_decode_q : decodes 32 [
    (0xAC518704, .qAdd 5 6 7 true), (0xAC51870C, .qSub 5 6 7 true), (0xAC518714, .qMul 5 6 7 true),
    (0xAC51871C, .qDiv 5 6 7 true), (0xAC518024, .qSqr 5 6 true), (0xAC51802C, .qSqrt 5 6 true),
    (0xAC518034, .qExp 5 6 true), (0xAC51803C, .qLog 5 6 true), (0xAC518740, .qMin 5 6 7 false),
    (0xAC518748, .qMax 5 6 7 false), (0xAC518750, .qHull 5 6 7), (0xAC518758, .qMeet 5 6 7),
    (0xAC518060, .qSplit 5 6), (0xAD61876B, .qCmp 22 6 7 .ne), (0xAC518770, .qMk 5 6 7), (0xAC518078, .qPt 5 6),
    (0xAC518080, .qLo 5 6), (0xAC518088, .qHi 5 6), (0xAC518090, .qWid 5 6), (0xAC518098, .qMid 5 6),
    (0xB85187FC, .qAxpy 5 6 7 31 true)] = true := by decide

/-- Majors 0x2C, fn 7:4, pp 3:0, and 0x2D, fn 7:5. -/
theorem test_decode_m_e : decodes 32 [
    (0xB0018000, .mCfg 6), (0xB0500010, .mZero 5), (0xB051872F, .mOp 5 6 7 15), (0xB0518731, .mOpc 5 6 7 1),
    (0xB0518740, .mOps 5 6 7 0), (0xB0018050, .mPrep 6), (0xB0518060, .mSt 5 6), (0xB0518070, .mLd 5 6),
    (0xB0018780, .mInv 6 7), (0xB4518000, .eCpy 5 6), (0xB4518020, .eWsl 5 6), (0xB4518040, .ePut 5 6),
    (0xB4518060, .eGet 5 6), (0xB4518080, .eRed 5 6), (0xB45180A0, .eWait 5 6)] = true := by decide

/-- Majors 0x01 and 0x30 to 0x3B (R51). -/
theorem test_decode_other : decodes 32 [
    (0x04000000, .hint 0), (0x07FFFFFF, .hint 0x3FFFFFF), (0xC0000000, .emulate 0xC0000000),
    (0xEC000001, .emulate 0xEC000001)] = true := by decide

/-- Majors 0x04 and 0x08 with an operand word. -/
theorem test_decode_two_words : decodes 64 [
    (0xFFFFFFFE10500000, .xlLd 5 (-2)), (0x8000000010500100, .xlHi 5 0x80000000),
    (0x29E8000020518791, .lnShuttle 5 6 7 4 true .b2 .b4 .b8 .mx (-524288))] = true := by decide

/-! ## What the encodings refuse -/

/-- For each check of WellFormed, a term that fails it alone (R43, R45, R49, R54, R198, R208). -/
theorem test_ill_formed : ([.xAdd 32 0 0 false, .xAdd 0 32 0 false, .xAdd 0 0 32 false, .xClz 0 32, .xlLd 32 0,
    .fCvt 1 2 .f32 .f32 .rne, .fCvt 1 2 .s64 .n32 .rne, .lnSet 1 2 .g1 5 false,
    .lnShuttle 1 2 0 5 false .b1 .b1 .b1 .b1 0, .lnShuttle 1 2 3 0 false .b1 .b1 .b1 .b1 0,
    .lnShuttle 1 2 0 1 false .b1 .b1 .b1 .b1 0, .lnShuttle 1 2 30 3 false .b1 .b1 .b1 .b1 0,
    .lnShuttle 1 2 0 0 false .b2 .b1 .b1 .b1 0, .lnShuttle 1 2 3 1 false .b1 .b2 .b1 .b1 0,
    .lnShuttle 1 2 3 2 false .b1 .b1 .b2 .b1 0, .lnShuttle 1 2 3 3 false .b1 .b1 .b1 .b2 0,
    .crRd 1 4096, .ldX64 1 2 16 0, .amLd 1 2 .rel .crew, .amLd 1 2 .ar .crew, .amSt 1 2 .acq .crew,
    .amSt 1 2 .ar .crew, .yXfence 0 1 .crew, .yXfence 1 0 .crew] : List Instr).all (fun i => !WellFormed i) = true := by
  decide

theorem test_ill_formed_lanes : ([.ride true 26 false 0 false 0, .ride false 0 true 26 false 0,
    .ride false 0 false 0 true 16, .ride false 1 true 0 false 0, .ride true 0 false 1 false 0,
    .ride true 0 false 0 false 1, .ride false 0 false 0 false 0, .vAdd 64 0 0 0 false, .vAdd 0 64 0 0 false,
    .vAdd 0 0 64 0 false, .vAdd 0 0 0 24 false, .vCmp 0 1 2 0 .eq, .vCmp 24 1 2 0 .eq, .vMvx 32 0 0, .vTr 0 8 0 0,
    .vCvt 1 2 0 .pk, .vSplat 1 2 0 .pk, .kAnd 0 1 2, .kAnd 24 1 2, .kAnd 1 24 2, .vldSd 1 2 3 0 .t6,
    .vldX 1 2 3 0 .e2m1, .vstSd 1 2 3 0 .e2m1, .vstX 1 2 3 0 .t6, .vstXa 1 2 3 0 .s16, .vldSm 1 16 0, .sBind 16 1,
    .sPos 1 16] : List Instr).all (fun i => !WellFormed i) = true := by
  decide

theorem test_ill_formed_rest : ([.qAdd 16 0 0 false, .qSplit 3 3, .qCmp 0 1 2 .lt, .qCmp 3 1 2 .lt, .qCmp 24 1 2 .lt,
    .qAxpy 1 2 3 32 false, .mOp 8 0 0 0, .mOp 0 8 0 0, .mOp 0 0 8 0, .mOp 0 0 0 16, .mSt 0 8, .emulate 0xBFFFFFFF,
    .emulate 0xF0000000, .illegalWord 0x100000000] : List Instr).all (fun i => !WellFormed i) = true := by
  decide

/-- Words that R42 to R51 make illegal, by major: a bit shown as 0 that is 1, an unlisted function code, a field value or
a combination of R43, R44, R49 and R54. -/
theorem test_illegal_words : ([
    0x00000000, 0xBC000000, 0xF0000000, 0xFFFFFFFF, 0x08518701, 0x08518702, 0x08518714, 0x08518764, 0x085187D8,
    0x085187C0, 0x0A018700, 0x08580700, 0x0851A000, 0x0C51A040, 0x0C51B400, 0x10518000, 0x10500200, 0x10500001,
    0x145187B0, 0x1451870C, 0x14518150, 0x145181A0, 0x1451B890, 0x14518F90, 0x14518894, 0x14519C90, 0x18018706,
    0x1C500002, 0x20518004, 0x20518008, 0x205180A0, 0x20518100, 0x20518012, 0x20500003, 0x20000102, 0x26000000,
    0x24518000, 0x2851B800, 0x2C518800, 0x2C51B800, 0x305187C0, 0x305180A8, 0x305180AC, 0x305180B4, 0x305180BC,
    0x305187A0, 0x34000280, 0x34000008, 0x34000401, 0x34040001, 0x34000005, 0x3400000A, 0x3451870C, 0x38000000,
    0x3BA00000, 0x380FC000, 0x3A004000, 0x3A000001, 0x38102000, 0x3C000068, 0x3C000001, 0x3C100000, 0x3C518718,
    0x405187C0, 0x44518703, 0x44518707, 0x4C518701, 0x4C504004, 0x4E018705, 0x4C51870D, 0x4C520706, 0x50018700,
    0x51818700, 0x50518707, 0x54518A00, 0x54518605, 0x54518706, 0x54518905, 0x54518001, 0x58518100, 0x58518005,
    0x5C018700, 0x5D818700, 0x5C560700, 0x5C518758, 0x5C518120, 0x5C518701, 0x60518100, 0x6C518704, 0x74518705,
    0x8C518705, 0x94518704, 0x98518703, 0x98518707, 0x78518001, 0x78540000, 0x9C518001, 0x7D018000, 0x7C518002,
    0xA0518700, 0xA0518002, 0xA4518707, 0xA8518700, 0xA8518080, 0xA8518001, 0xA9018000, 0xAC518754, 0xAC518701,
    0xAC514060, 0xAC518768, 0xAC018768, 0xAD818768, 0xAC5187A0, 0xAD018700, 0xAC518120, 0xB8518701, 0xB8519000,
    0xB0018001, 0xB0518790, 0xB0818720, 0xB0518820, 0xB0118000, 0xB45180C0, 0xB4518700,
    0xB4518001] : List Nat).all (fun w => decide (decodeTableWord 32 w = none)) = true := by decide

/-! ## Single steps, with results worked out by hand from the rules named -/

/-- The state an instruction or row leaves; reset where there is none. -/
def after (i : Instr) (s : State) : State := match exec i s with
  | .next t => t
  | _ => State.reset

/-- Hart 0 with values in x1 and x2. -/
def with12 (v w : Word) : State := hart fun c => { c with x := [(1, v), (2, w)] }

/-- R122, R83: a saturating sum above the largest S64 value is that value, and SAT (bit 5) is set. -/
theorem test_add_saturates : let t := after (.xAdd 4 1 2 true) (with12 0x7FFFFFFFFFFFFFFF 1)
    t.x 4 = 0x7FFFFFFFFFFFFFFF ∧ t.core.modes.stat = 0x20 := by decide

/-- R122: a wrapping sum sets no flag. -/
theorem test_add_wraps : let t := after (.xAdd 4 1 2 false) (with12 0x7FFFFFFFFFFFFFFF 1)
    t.x 4 = 0x8000000000000000 ∧ t.core.modes.stat = 0 := by decide

/-- R122: division by zero gives -1 and DZ (bit 3); the most negative value by -1 gives itself. -/
theorem test_div_by_zero : let t := after (.xDiv 4 1 0) (hart id)
    t.x 4 = 0xFFFFFFFFFFFFFFFF ∧ t.core.modes.stat = 8 := by decide
theorem test_div_overflow : (after (.xDiv 4 1 2) (with12 0x8000000000000000 (-1))).x 4 = 0x8000000000000000 := by decide

/-- R122: the remainder has the dividend's sign: -3 = 5 * 0 - 3. -/
theorem test_rem_sign : (after (.xRem 4 2 1) (hart id)).x 4 = 0xFFFFFFFFFFFFFFFD := by decide

/-- R122: bits 127:64 of 5 * -3 are all ones. -/
theorem test_mulh_sign : (after (.xMulh 4 1 2) (hart id)).x 4 = 0xFFFFFFFFFFFFFFFF := by decide

/-- R124: bits 63:32 are replaced, bits 31:0 stay. -/
theorem test_xl_hi : (after (.xlHi 1 0x80000000) (hart id)).x 1 = 0x8000000000000005 := by decide

/-- R84: a hint of two words moves the pc by 8 and writes nothing. -/
theorem test_xl_hint : let t := after (.xlLd 0 7) (hart id)
    t.core.pc = 0x1008 ∧ t.x 0 = 0 := by decide

/-- R125, R91: 1/3 rounded to nearest is 0x3EAAAAAB, upwards too, downwards 0x3EAAAAAA; inexact (bit 0). -/
theorem test_f_div : let t := after (.fDiv 4 1 2 .f32 .rne) (with12 0x3F800000 0x40400000)
    t.x 4 = 0x3EAAAAAB ∧ t.core.modes.stat = 1 := by decide +kernel
theorem test_f_div_down : (after (.fDiv 4 1 2 .f32 .rdn) (with12 0x3F800000 0x40400000)).x 4 = 0x3EAAAAAA := by
  decide +kernel

/-- R126: 2.5 is 2 to nearest (ties to even) and 3 upwards. -/
theorem test_f_cvt_even : (after (.fCvt 4 1 .s32 .f32 .rne) (with12 0x40200000 0)).x 4 = 2 := by decide
theorem test_f_cvt_up : (after (.fCvt 4 1 .s32 .f32 .rup) (with12 0x40200000 0)).x 4 = 3 := by decide

/-- R125: a NaN is unordered with anything. -/
theorem test_f_cmp_unordered : (after (.fCmp 4 1 2 .f32 .uo) (with12 0x7FC00000 0)).x 4 = 1 := by decide

/-- R128: -3 < 5 signed, so the branch goes four words back; unsigned it is not taken. -/
theorem test_branch_back : (after (.bLt 2 1 (-4)) (hart id)).core.pc = 0xFF0 := by decide
theorem test_branch_unsigned : (after (.bLtn 2 1 (-4)) (hart id)).core.pc = 0x1004 := by decide

/-- R129: the link is the address past the jump. -/
theorem test_link : let t := after (.jInd 3 3 1) (hart id)
    t.core.pc = 0x2004 ∧ t.x 3 = 0x1004 := by decide

/-- R130, R132: four lanes limit a strip to 64 elements; x[d] is the length. -/
theorem test_ln_set : let t := after (.lnSet 4 3 .g2 0 false) (hart id)
    t.core.strip.len = 64 ∧ t.core.strip.granted = 64 ∧ t.core.strip.gran = 2 ∧ t.x 4 = 64 := by decide

/-- R137: ld.s8 extends the sign, ld.n8 does not. -/
theorem test_load_signed : (after (.ldS8 4 3 0 (-1)) (withMem (hart id) [(0x1FFF, 0x80)])).x 4 = 0xFFFFFFFFFFFFFF80 := by
  decide
theorem test_load_unsigned : (after (.ldN8 4 3 0 (-1)) (withMem (hart id) [(0x1FFF, 0x80)])).x 4 = 0x80 := by decide

/-- R137, R5: a store is little-endian; -3 in 16 bits is FD FF. -/
theorem test_store : (after (.stS16 2 3 0 1) (hart id)).mem = [(0x2002, 0xFD), (0x2003, 0xFF)] := by decide

/-- R137, R366: a misaligned access stops the hart with cause 3 and its address. -/
theorem test_misaligned : let t := after (.stS32 2 1 0 0) (hart id)
    t.core.run = .stopped ∧ t.core.win.cause = 3 ∧ t.core.win.tval = 5 ∧ t.mem = [] := by decide

/-- R259: am.cas stores x[b] when memory holds x[d], which receives the old value. -/
theorem test_cas_stores : let t := after (.amCas 1 3 2 .rlx .pkg) (withMem (hart id) [(0x2000, 5)])
    t.x 1 = 5 ∧ t.mem.length = 8 := by decide
theorem test_cas_fails : let t := after (.amCas 1 3 2 .rlx .pkg) (withMem (hart id) [(0x2000, 6)])
    t.x 1 = 6 ∧ t.mem = [(0x2000, 6)] := by decide

/-- R151, R57: 3 + 5 in S32, and 1.0 + 2.0 in FP32. -/
theorem test_v_add_int : let t := after (.vAdd 6 1 2 0 false) (hart filled)
    t.core.elem 6 0 = 8 ∧ t.core.elem 6 1 = 0xFFFFFFFE ∧ t.core.tag 6 = .s32 := by decide
theorem test_v_add_float : let t := after (.vAdd 6 4 5 0 false) (hart filled)
    t.core.elem 6 0 = 0x40400000 ∧ t.core.tag 6 = .fp32 := by decide

/-- R57, R366: S32 with FP32 traps with cause tag (9); the word is the value. -/
theorem test_v_tag_trap : let t := after (.vAdd 6 1 4 0 false) (hart filled)
    t.core.win.cause = 9 ∧ t.core.win.tval = 0x40604400 ∧ t.core.tag 6 = .n32 := by decide

/-- R171: 3 < 5 and -2 < 0, but not 0 < 0. -/
theorem test_v_cmp : let t := after (.vCmp 2 1 2 0 .lt) (hart filled)
    t.core.mask 2 0 = true ∧ t.core.mask 2 1 = true ∧ t.core.mask 2 2 = false := by decide

/-- R157: 5 + (3 - 2) in element 0 of the destination. -/
theorem test_vr_sum : (after (.vrSum 2 1 0) (hart filled)).core.elem 2 0 = 6 := by decide

/-- R173: two ones; the first at 0. -/
theorem test_k_cnt : (after (.kCnt 4 1) (hart filled)).x 4 = 2 := by decide
theorem test_k_first : (after (.kFirst 4 1) (hart filled)).x 4 = 0 := by decide

/-- R198: [1, 2] + [2, 4] = [3, 6] and [1, 2] * [2, 4] = [2, 8], exactly. -/
theorem test_q_add : (after (.qAdd 3 1 2 false) (hart filled)).core.pairBits 3 0 = 0x40C0000040400000 := by decide +kernel
theorem test_q_mul : (after (.qMul 3 1 2 false) (hart filled)).core.pairBits 3 0 = 0x4100000040000000 := by decide +kernel

/-- R164: FE FF in S16 is -2. -/
theorem test_vld : let t := after (.vldUn 6 3 0 .s16) (withMem (hart filled) [(0x2000, 0xFE), (0x2001, 0xFF)])
    t.core.elem 6 0 = 0xFFFFFFFE ∧ t.core.elem 6 1 = 0 ∧ t.core.tag 6 = .s32 := by decide

/-- R164: -2 narrowed to S16 is FE FF; element 0 is 3; masked, element 1 is not stored. -/
theorem test_vst : (after (.vstUn 1 3 0 .s16) (hart filled)).mem = [(0x2000, 3), (0x2002, 0xFE), (0x2003, 0xFF)] := by
  decide
theorem test_vst_masked : (after (.vstUn 1 3 1 .s16) (hart filled)).mem = [(0x2000, 3)] := by decide

/-- R218: acc[0][0] = 1 + 1 * 1 + 2 * 3 = 8 and acc[0][1] = 0 + 1 * 2 + 2 * -1 = 0. -/
theorem test_m_op : let t := after (.mOp 0 1 2 0) (withMem tiled [(0x3000, 0x80), (0x3001, 0x3F), (0x3003, 0x40),
      (0x3100, 0x80), (0x3101, 0x3F), (0x3103, 0x40), (0x3104, 0x40), (0x3105, 0x40), (0x3106, 0x80), (0x3107, 0xBF)])
    t.tile.accAt 0 0 0 = 0x41000000 ∧ t.tile.accAt 0 0 1 = 0 := by decide +kernel

/-- R368, R369: an environment call of a hub hart at S goes to H: the pc at H's vector, S in PLV (bits 5:4), BUSY set. -/
theorem test_call_from_s : let t := after .zCall (hub id id [])
    t.core.level = .h ∧ t.core.pc = 0x9000 ∧ t.core.trapH.cause = 18 ∧ t.core.trapH.epc = 0x1000 ∧
    t.core.trapH.stat = 0x90 := by decide

/-- R291: a pop takes one token of FIFO 0 of region 1. -/
theorem test_pop : (after (.tokenPopResume 0) { hart fun c => { c with wait := .pop, rider := some rider } with
    clusters := [(0, { Cluster.reset with fifos := [(32, 2)] })] }).fifoCount 0 0 = 1 := by decide

/-- R367: the end of a window command with status 0 leaves CMDSTAT 0. -/
theorem test_command_done : (after (.windowCommandDone 0) (stopped 8 id)).core.win.cmdstat = 0 := by decide

/-- R409: a trip sets the duty to 0 and counts. -/
theorem test_trip : let t := after .thermalTrip State.reset
    t.hub.power.duty = 0 ∧ t.hub.power.trips = 1 := by decide

/-- R345: a budget period starts at the next multiple of 64,000 ns. -/
theorem test_period : (after .budgetPeriodStart State.reset).hub.clock.time = 64000 := by decide

/-- The first step after reset runs the instruction placed there: x5 takes 0 + (-1). -/
theorem test_first_step : (match step (State.reset.withFetchWord 32 0x0C5007FF) with
    | .next t => t.x 5
    | _ => 0) = 0xFFFFFFFFFFFFFFFF := by decide

/-- R406: the SHA-384 of 95 zero bytes and a byte 1, as FIPS 180-4 has it (worked out with Python's hashlib). -/
theorem test_sha384 : sha384 1 = 0xa4edf65737b90f219f86ef03fd4905d6fb899026bf4211d26b0b96f950fc83cdf54d55fc78b9f3bb2aa1fe1e29aeb104 := by decide +kernel

/-- Hart 0 before ld.s32 x4 from x3, with 9 there, in a turn whose accesses wait. -/
def beforeRead : State := { withMem (hart id) (codeAt (.ldS32 4 3 0 0) ++ [(0x2000, 9)]) with agenda := [.lag 0] }

/-- The state a step leaves; reset where there is none. -/
def stepped (s : State) : State := match step s with
  | .next t => t
  | _ => State.reset

/-- R269: a load issues and its read waits: the pc moves on and x4 stays. -/
theorem test_read_waits : let t := stepped beforeRead
    t.core.pc = 0x1004 ∧ t.x 4 = 0 ∧ t.late.length = 1 := by decide +kernel

/-- R269: the read takes effect after a later write to its bytes: x4 receives what memory then holds. -/
theorem test_read_late : let t := stepped { withMem (stepped beforeRead) [(0x2000, 7)] with agenda := [.effect 0] }
    t.x 4 = 7 ∧ t.core.pc = 0x1004 ∧ t.late = [] := by decide +kernel

/-- R413, R110: y.end leaves the scalar registers. -/
theorem test_end_keeps : (after .yEnd (hart id)).x 1 = 5 := by decide

/-- R401, R132: ln.set writes vl whole, which then holds no error. -/
theorem test_vl_good : (after (.lnSet 4 3 .g2 0 false) (hart fun c => { c with badRegs := [.ctl 0, .ctl 2] })).core.badRegs =
    [.ctl 2] := by decide

end Sys2Proof.Tests
end

section
/-!
SUPPORT. Scalar integers, branches and jumps: what each scalar operation computes, told apart from how it issues and
retires (spec/05_scalar_control.md R122 to R124, R128, R129), and the obligations of these instructions.
-/

namespace Sys2Proof.Proofs.ScalarControl

open Sys2Proof.Machine Sys2Proof.Claims

/-! ## What the scalar operations compute -/

/-- R83: clamping against the bounds as powers of two is clamping against them in decimal. -/
theorem wrap64_eq_satOrWrap (sat : Bool) (v : Int) : wrap64 sat v = satOrWrap sat v := by
  cases sat with
  | false => rfl
  | true =>
    have hmin : (-(2 ^ 63) : Int) = -9223372036854775808 := by decide
    have hmax : (2 ^ 63 ≤ v) ↔ 9223372036854775807 < v := by omega
    simp only [wrap64, clamp64, satOrWrap, hmin, hmax, if_true]
    rfl

theorem truth_of_iff {b : Bool} {p : Prop} [Decidable p] (h : b = true ↔ p) : truth b = if p then 1 else 0 :=
  if_congr h rfl rfl

theorem ushiftRight_eq_ofNat_div (v : Word) (k : Nat) : v >>> k = .ofNat 64 (v.toNat / 2 ^ k) := by
  rw [← Nat.shiftRight_eq_div_pow, ← BitVec.toNat_ushiftRight, BitVec.ofNat_toNat, BitVec.setWidth_eq]

theorem sshiftRight_eq_ofInt_div (v : Word) (k : Nat) : v.sshiftRight k = .ofInt 64 (v.toInt / 2 ^ k) := by
  rw [BitVec.sshiftRight, Int.shiftRight_eq_div_pow, Nat.cast_pow, Nat.cast_ofNat]

theorem shiftLeft_eq_ofNat_mul (v : Word) (k : Nat) : v <<< k = .ofNat 64 (v.toNat * 2 ^ k) :=
  congrArg (BitVec.ofNat 64) (Nat.shiftLeft_eq ..)

/-- R123: adding a sign-extended immediate adds the number it stands for. -/
theorem add_imm64 (v : Word) (imm : BitVec 11) : v + imm64 imm = .ofInt 64 (v.toInt + imm.toInt) := by
  rw [BitVec.ofInt_add, BitVec.ofInt_toInt]
  rfl

theorem toInt_imm64 (imm : BitVec 11) : (imm64 imm).toInt = imm.toInt :=
  BitVec.toInt_signExtend_of_le (by decide)

theorem slt_imm64_iff (v : Word) (imm : BitVec 11) : v.slt (imm64 imm) = true ↔ v.toInt < imm.toInt := by
  rw [BitVec.slt_iff_toInt_lt, toInt_imm64]

/-! ## Counts of bits

The model counts on the number, from its lowest bit or by its logarithm; the table of results counts single bits. -/

theorem popCount_succ_top (n m : Nat) : popCount (n + 1) m = (if m.testBit n then 1 else 0) + popCount n m := by
  induction n generalizing m with
  | zero => rcases Nat.mod_two_eq_zero_or_one m with h | h <;> simp [popCount, h]
  | succ n ih =>
    calc popCount (n + 2) m
      _ = m % 2 + popCount (n + 1) (m / 2) := rfl
      _ = (if m.testBit (n + 1) then 1 else 0) + (m % 2 + popCount n (m / 2)) := by
        rw [ih, Nat.testBit_add_one, Nat.add_left_comm]

theorem popCount_eq_onesIn (v : Word) (n : Nat) : popCount n v.toNat = onesIn v n := by
  induction n with
  | zero => rfl
  | succ n ih => rw [popCount_succ_top, ih]; rfl

theorem trailingZeros_div_eq_zerosFromBottom (v : Word) (n k : Nat) :
    trailingZeros n (v.toNat / 2 ^ k) = zerosFromBottom v n k := by
  induction n generalizing k with
  | zero => rfl
  | succ n ih =>
    have hbit : v.toNat / 2 ^ k % 2 = 1 ↔ v.getLsbD k = true := by
      rw [BitVec.getLsbD, Nat.testBit_eq_decide_div_mod_eq, decide_eq_true_eq]
    have hrest : v.toNat / 2 ^ k / 2 = v.toNat / 2 ^ (k + 1) := by rw [Nat.div_div_eq_div_mul, Nat.pow_succ]
    simp only [trailingZeros, zerosFromBottom, hbit, hrest, ih]

theorem trailingZeros_eq_zerosFromBottom (v : Word) (n : Nat) : trailingZeros n v.toNat = zerosFromBottom v n 0 := by
  rw [← trailingZeros_div_eq_zerosFromBottom, Nat.pow_zero, Nat.div_one]

/-- Zeros counted from the top of the low n bits of a value that has no bit above them. -/
theorem zerosFromTop_eq_log2 (v : Word) (n : Nat) (h : v.toNat < 2 ^ n) :
    zerosFromTop v n = if v.toNat = 0 then n else n - 1 - v.toNat.log2 := by
  induction n with
  | zero => simp [zerosFromTop]
  | succ n ih =>
    unfold zerosFromTop
    by_cases hbit : v.getLsbD n = true
    · have hge : 2 ^ n ≤ v.toNat := Nat.ge_two_pow_of_testBit hbit
      have hv : v.toNat ≠ 0 := by have := Nat.two_pow_pos n; omega
      have hlog : v.toNat.log2 = n := (Nat.log2_eq_iff hv).2 ⟨hge, h⟩
      rw [if_pos hbit, if_neg hv, hlog, Nat.add_sub_cancel, Nat.sub_self]
    · have hlt : v.toNat < 2 ^ n := by
        by_contra hge
        exact hbit (Nat.testBit_of_two_pow_le_and_two_pow_add_one_gt (Nat.le_of_not_lt hge) h)
      rw [if_neg hbit, ih hlt]
      by_cases hv : v.toNat = 0
      · rw [if_pos hv, if_pos hv, Nat.add_comm]
      · have := (Nat.log2_lt hv).2 hlt
        rw [if_neg hv, if_neg hv]
        omega

theorem leadingZeros64_eq_zerosFromTop (v : Word) : leadingZeros64 v.toNat = zerosFromTop v 64 :=
  (zerosFromTop_eq_log2 v 64 v.isLt).symm

/-! ## Scalar integer instructions -/

/-- An instruction whose meaning is a scalar operation retires with the result r that its table entry names. -/
theorem exec_of_scalarOp {i : Instr} {s : State} {d d' : Nat} {v : Word} {fl : Flags} {f : Core → Word × Flags}
    {r : Word × Flags} (harm : exec i s = scalarOp i s d' f) (hc : Clear i s)
    (hres : some (d', r) = some (d, v, fl)) (hf : f s.core = r) :
    exec i s = .next (s.retires i (if d = 0 then s.core else (s.core.setX d v).raise fl)) := by
  cases hres
  rw [harm, scalarOp_clear hc, hf]

/-- R51: a hint retires and changes nothing else. -/
theorem exec_hint {h : BitVec 26} {s : State} (hc : Clear (.hint h) s) :
    exec (.hint h) s = .next (s.retires (.hint h) s.core) :=
  issue_still hc (fun s => .retire s) rfl

/-- Settles O7, by cases on the instruction: each but the hint is a scalar operation, whose issue and retirement
`exec_of_scalarOp` gives, so that each case only has to show that its value is the one in the table of results. -/
theorem scalarIntegerResults : Obligations.ScalarIntegerResults := by
  intro i s d v fl hres hc
  cases i with
  | xAnd | xOr | xXor | xAndn | xMulh | xMulhn | xDiv | xDivn | xRem | xRemn | xSel | xiAnd | xiOr | xiXor | xlLd
  | xlHi => exact exec_of_scalarOp rfl hc hres rfl
  | xAdd | xSub | xMul => exact exec_of_scalarOp rfl hc hres (wrap64_eq_satOrWrap ..)
  | xShl => exact exec_of_scalarOp rfl hc hres ((wrap64_eq_satOrWrap ..).trans (by rw [Nat.cast_pow]; rfl))
  | xShr | xiShr => exact exec_of_scalarOp rfl hc hres (congrArg plain (ushiftRight_eq_ofNat_div ..))
  | xSar | xiSar => exact exec_of_scalarOp rfl hc hres (congrArg plain (sshiftRight_eq_ofInt_div ..))
  | xiShl => exact exec_of_scalarOp rfl hc hres (congrArg plain (shiftLeft_eq_ofNat_mul ..))
  | xMin | xMax => exact exec_of_scalarOp rfl hc hres (congrArg plain (if_congr BitVec.slt_iff_toInt_lt rfl rfl))
  | xMinn | xMaxn => exact exec_of_scalarOp rfl hc hres (congrArg plain (if_congr BitVec.ult_iff_lt rfl rfl))
  | xSlt => exact exec_of_scalarOp rfl hc hres (congrArg plain (truth_of_iff BitVec.slt_iff_toInt_lt))
  | xSltn => exact exec_of_scalarOp rfl hc hres (congrArg plain (truth_of_iff BitVec.ult_iff_lt))
  | xiSlt => exact exec_of_scalarOp rfl hc hres (congrArg plain (truth_of_iff (slt_imm64_iff ..)))
  | xSeq => exact exec_of_scalarOp rfl hc hres (congrArg plain (truth_of_iff beq_iff_eq))
  | xClz => exact exec_of_scalarOp rfl hc hres (congrArg (plain <| .ofNat 64 ·) (leadingZeros64_eq_zerosFromTop _))
  | xCtz => exact exec_of_scalarOp rfl hc hres (congrArg (plain <| .ofNat 64 ·) (trailingZeros_eq_zerosFromBottom ..))
  | xPopc => exact exec_of_scalarOp rfl hc hres (congrArg (plain <| .ofNat 64 ·) (popCount_eq_onesIn ..))
  | xiAdd => exact exec_of_scalarOp rfl hc hres (congrArg plain (add_imm64 ..))
  | hint => cases hres; exact exec_hint hc
  | _ => cases hres

/-! ## Branches and jumps -/

/-- An instruction that writes a link register and jumps. -/
theorem issue_link {i : Instr} {s : State} (hc : Clear i s) (body : State → Done) (d : Nat) (v pc : Word)
    (hb : body s = .jump (s.setX d v) pc) : issue i s body = .next (s.setCore ((s.core.setX d v).retired pc)) := by
  have hcore : (s.setX d v).coreAt s.cur = s.core.setX d v := State.coreAt_setCoreAt_same ..
  rw [issue_clear hc, hb, finish_jump pc (by rw [hcore, Core.setX_rider, hc.alone]), hcore]
  exact congrArg Host.Outcome.next (State.setCoreAt_setCoreAt ..)

theorem ite_bnot_of_iff {α : Type} {b : Bool} {p : Prop} [Decidable p] (h : b = true ↔ p) (t e : α) :
    (if (!b) = true then t else e) = if p then e else t := by
  rw [← if_congr h rfl rfl]
  cases b <;> rfl

/-- R128: an instruction whose meaning is a branch retires with the pc that its table entry names, and links nothing. -/
theorem exec_of_branch {i : Instr} {s : State} {a b d : Nat} {off : BitVec 11} {p pc v : Word}
    (cond : Word → Word → Bool) (harm : exec i s = branch i s a b off cond) (hc : Clear i s)
    (hres : some (p, 0, 0) = some (pc, d, v))
    (hp : (if cond (s.x a) (s.x b) then branchTarget s.core.pc off else s.core.pc + 4) = p) :
    exec i s = .next (s.setCore ((s.core.setX d v).retired pc)) := by
  cases hres
  rw [harm, branch_clear hc, hp, Core.setX_zero]

theorem exec_jLink {d : Nat} {off : BitVec 18} {s : State} (hc : Clear (.jLink d off) s) :
    exec (.jLink d off) s = .next (s.setCore
      ((s.core.setX d (s.core.pc + 4)).retired (s.core.pc + 4 * .ofInt 64 off.toInt))) :=
  issue_link hc _ d _ _ rfl

/-- R129: an offset in words keeps a target's place in its word. -/
theorem toNat_add_four_mul_mod (x y : Word) : (x + 4 * y).toNat % 4 = x.toNat % 4 := by
  rw [BitVec.toNat_add, BitVec.toNat_mul]
  change (x.toNat + 4 * y.toNat % 2 ^ 64) % 2 ^ 64 % 4 = x.toNat % 4
  omega

theorem exec_jInd {d a : Nat} {off : BitVec 12} {s : State} (hc : Clear (.jInd d a off) s)
    (ha : (s.x a).toNat % 4 = 0) :
    exec (.jInd d a off) s = .next (s.setCore
      ((s.core.setX d (s.core.pc + 4)).retired (s.x a + 4 * .ofInt 64 off.toInt))) := by
  have ht : (s.x a + 4 * off.signExtend 64).toNat % 4 = 0 := (toNat_add_four_mul_mod ..).trans ha
  exact issue_link hc _ d _ _ (if_neg (not_not.2 ht))

/-- Settles O9, by cases on the instruction: each branch is `branch` on its own condition, so that its case only has to
show what that condition says of the two registers; the jumps link, and j.ind has a table entry only where its target is
aligned. -/
theorem branchesAndJumps : Obligations.BranchesAndJumps := by
  intro i s pc d v hres hc
  cases i with
  | bEq => exact exec_of_branch (· == ·) rfl hc hres (if_congr beq_iff_eq rfl rfl)
  | bNe => exact exec_of_branch (· != ·) rfl hc hres (ite_bnot_of_iff beq_iff_eq ..)
  | bLt => exact exec_of_branch (·.slt ·) rfl hc hres (if_congr BitVec.slt_iff_toInt_lt rfl rfl)
  | bGe => exact exec_of_branch (!·.slt ·) rfl hc hres (ite_bnot_of_iff BitVec.slt_iff_toInt_lt ..)
  | bLtn => exact exec_of_branch (·.ult ·) rfl hc hres (if_congr BitVec.ult_iff_lt rfl rfl)
  | bGen => exact exec_of_branch (!·.ult ·) rfl hc hres (ite_bnot_of_iff BitVec.ult_iff_lt ..)
  | jLink => cases hres; exact exec_jLink hc
  | jInd d' a off =>
    by_cases ha : (s.x a).toNat % 4 = 0
    · rw [jumpResult, if_pos ha] at hres
      cases hres
      exact exec_jInd hc ha
    · rw [jumpResult, if_neg ha] at hres
      cases hres
  | _ => cases hres

end Sys2Proof.Proofs.ScalarControl
end

section
/-!
SUPPORT. A hub hart takes a trap or an interrupt: the level it is taken at, what the level's registers receive, the
partition that stops where every level is busy, and the rider that an interrupt goes before (spec/16_events.md R369,
R370, R376; R387, R55).
-/

namespace Sys2Proof.Proofs.HubEntry

open Sys2Proof.Machine Sys2Proof.Claims

/-! ## The level of an entry -/

/-- The model goes by the level first, R369's table by the code first. -/
theorem trapLevel_eq_entryLevel (cause : Nat) (l : Level) : trapLevel cause l = entryLevel cause l := by
  by_cases h12 : cause = 12
  · cases l <;> simp [trapLevel, entryLevel, h12]
  · by_cases h18 : cause = 18 <;> cases l <;> simp [trapLevel, entryLevel, h12, h18]

theorem freeLevel_eq_busyUp (c : Core) (l : Level) : c.freeLevel l = busyUp c l := by
  cases l <;> simp [Core.freeLevel, busyUp, statBusy]

/-- U has no trap registers, so that no trap is taken at it (R110, R369). -/
theorem busyUp_ne_u {c : Core} {l l' : Level} (h : busyUp c l = some l') : l' ≠ .u := by
  rintro rfl
  cases l <;> simp [busyUp, ite_eq_iff] at h

/-- R376: interrupts 1 and 2 are taken at S, interrupt 3 at H. -/
theorem interrupt_mem {s : State} {n code : Nat} {l : Level} (h : s.interrupt n = some (code, l)) :
    (code, l) ∈ [(1, Level.s), (2, Level.s), (3, Level.h)] := by
  simp only [State.interrupt] at h
  split at h
  · cases h
  · split_ifs at h <;> cases h <;> decide

/-! ## The status register -/

theorem levelCode_eq_bits (l : Level) :
    levelCode l = ((levelCode l).testBit 0).toNat + 2 * ((levelCode l).testBit 1).toNat := by
  cases l <;> rfl

/-- PLV, bits 5:4 of a status register, from its two bits (R368). -/
theorem plv_eq_bits (v : Word) : v.toNat / 16 % 4 = (v.getLsbD 4).toNat + 2 * (v.getLsbD 5).toNat := by
  simp only [BitVec.getLsbD, Nat.toNat_testBit]
  omega

theorem getLsbD_ofNat_high {n k : Nat} (hn : n < 2 ^ 8) (hk : 8 ≤ k) : (BitVec.ofNat 64 n).getLsbD k = false := by
  have hlt : n < 2 ^ k := Nat.lt_of_lt_of_le hn (Nat.pow_le_pow_right Nat.two_pos hk)
  rw [BitVec.getLsbD_ofNat, Nat.testBit_lt_two_pow hlt, Bool.and_false]

/-- The fields that entry writes: IE, PIE, PLV and BUSY (R368, R369). -/
theorem getLsbD_entryMask (k : Nat) : (0xB3 : Word).getLsbD k = decide (k = 0 ∨ k = 1 ∨ k = 4 ∨ k = 5 ∨ k = 7) := by
  rcases Nat.lt_or_ge k 8 with hk | hk
  · revert k
    decide
  · exact (getLsbD_ofNat_high (by decide) hk).trans (decide_eq_false (by omega)).symm

/-- What entry puts into them: PIE where IE was set, the level before, BUSY. -/
theorem getLsbD_entryBits (l : Level) (ie : Bool) (k : Nat) :
    (BitVec.ofNat 64 (128 + 16 * rankOf l + if ie then 2 else 0)).getLsbD k =
      if k = 1 then ie else if k = 4 then (levelCode l).testBit 0 else if k = 5 then (levelCode l).testBit 1
      else decide (k = 7) := by
  rcases Nat.lt_or_ge k 8 with hk | hk
  · cases l <;> cases ie <;> revert k <;> decide
  · have hlt : 128 + 16 * rankOf l + (if ie then 2 else 0) < 2 ^ 8 := by cases l <;> cases ie <;> decide
    rw [getLsbD_ofNat_high hlt hk, if_neg (by omega), if_neg (by omega), if_neg (by omega), decide_eq_false (by omega)]

/-- R369: PIE takes IE, IE becomes 0, PLV the level before, BUSY 1, and no other bit changes. -/
theorem getLsbD_statEnter (v : Word) (l : Level) (k : Nat) :
    (statEnter v l).getLsbD k = if k = 0 then false else if k = 1 then v.getLsbD 0
      else if k = 4 then (levelCode l).testBit 0 else if k = 5 then (levelCode l).testBit 1
      else if k = 7 then true else v.getLsbD k := by
  rw [statEnter, BitVec.getLsbD_or, BitVec.getLsbD_and, BitVec.getLsbD_not, getLsbD_entryMask, getLsbD_entryBits, statIe]
  by_cases hk : k = 0 ∨ k = 1 ∨ k = 4 ∨ k = 5 ∨ k = 7
  · rcases hk with rfl | rfl | rfl | rfl | rfl <;> simp
  · have hv : v.getLsbD k = true → k < 64 := BitVec.lt_of_getLsbD
    simp only [not_or] at hk
    simpa [hk] using hv

theorem plv_statEnter (v : Word) (l : Level) : (statEnter v l).toNat / 16 % 4 = levelCode l := by
  rw [plv_eq_bits, getLsbD_statEnter, getLsbD_statEnter]
  exact (levelCode_eq_bits l).symm

/-! ## Entry -/

section
variable (c : Core) (l : Level) (cause tval : Word)

theorem regsOf_enter_same : regsOf (c.enter l cause tval) l =
    ⟨cause, c.pc, tval, (regsOf c l).vec, statEnter (regsOf c l).stat c.level⟩ := by
  cases l <;> rfl

theorem enter_level : (c.enter l cause tval).level = l := rfl

theorem enter_pc : (c.enter l cause tval).pc = (regsOf c l).vec := by
  cases l <;> rfl

theorem enter_registers : (c.enter l cause tval).x = c.x ∧ (c.enter l cause tval).modes = c.modes ∧
    (c.enter l cause tval).strip = c.strip ∧ (c.enter l cause tval).win = c.win := by
  cases l <;> exact ⟨rfl, rfl, rfl, rfl⟩

variable {l}

/-- U reads the registers of S. -/
theorem regsOf_enter_other {l' : Level} (hu : l ≠ .u) (hl : l' ≠ l) (hus : ¬(l' = .u ∧ l = .s)) :
    regsOf (c.enter l cause tval) l' = regsOf c l' := by
  cases l with
  | u => exact absurd rfl hu
  | s =>
    cases l' with
    | u => exact absurd ⟨rfl, rfl⟩ hus
    | s => exact absurd rfl hl
    | h | m => rfl
  | h =>
    cases l' with
    | h => exact absurd rfl hl
    | u | s | m => rfl
  | m =>
    cases l' with
    | m => exact absurd rfl hl
    | u | s | h => rfl

end

/-! ## A synchronous trap -/

section
variable {s : State} {n cause tval : Nat}

theorem takeTrap_of_freeLevel {l : Level} (hn : kindOf n = .hub)
    (hl : busyUp (s.coreAt n) (entryLevel cause (s.coreAt n).level) = some l) :
    s.takeTrap n cause tval = s.setCoreAt n ((s.coreAt n).enter l (.ofNat 64 cause) (.ofNat 64 tval)) := by
  rw [← trapLevel_eq_entryLevel, ← freeLevel_eq_busyUp] at hl
  simp only [State.takeTrap, if_pos hn, State.trapHub, hl]

theorem takeTrap_of_allBusy {p : Nat} (hn : kindOf n = .hub) (hp : s.partOf n = some p)
    (hl : busyUp (s.coreAt n) (entryLevel cause (s.coreAt n).level) = none) :
    s.takeTrap n cause tval = s.stopPartition p := by
  rw [← trapLevel_eq_entryLevel, ← freeLevel_eq_busyUp] at hl
  simp only [State.takeTrap, if_pos hn, State.trapHub, hl, hp]

end

theorem hubTrapRegisters : HubTrapRegisters := by
  intro s n cause tval l hn hl c t e
  have ht : t = s.setCoreAt n (c.enter l (.ofNat 64 cause) (.ofNat 64 tval)) := takeTrap_of_freeLevel hn hl
  have he : e = c.enter l (.ofNat 64 cause) (.ofNat 64 tval) :=
    (congrArg (·.coreAt n) ht).trans (State.coreAt_setCoreAt_same ..)
  obtain ⟨hx, hmodes, hstrip, hwin⟩ := enter_registers c l (.ofNat 64 cause) (.ofNat 64 tval)
  rw [ht, he, regsOf_enter_same]
  exact ⟨rfl, rfl, rfl, rfl, enter_level .., enter_pc .., getLsbD_statEnter _ _,
    fun l' hne hus => regsOf_enter_other c _ _ (busyUp_ne_u hl) hne hus, hx, hmodes, hstrip, hwin,
    State.setCoreAt_mem .., fun m hm => State.coreAt_setCoreAt_other s _ hm⟩

/-! ## A partition stops -/

/-- A table whose values are changed key by key, where the change keeps the default at the key that is read. -/
theorem get_map {α : Type} (dflt : α) (f : Nat → α → α) (t : Tbl α) (k : Nat) (hf : f k dflt = dflt) :
    Tbl.get dflt (t.map fun e => (e.1, f e.1 e.2)) k = f k (t.get dflt k) := by
  induction t with
  | nil => exact hf.symm
  | cons e t ih =>
    simp only [List.map_cons, Tbl.get, ih]
    split
    · next h => rw [h]
    · rfl

/-- What the stop of a partition makes of the core at a number: a running core of it stops in place (R387). -/
def stoppedWith (s : State) (p n : Nat) (c : Core) : Core :=
  if s.partOf n = some p ∧ c.run = .running then { c with run := .stopped, wait := .none } else c

theorem stopPartition_cores (s : State) (p : Nat) :
    (s.stopPartition p).cores = s.cores.map fun e => (e.1, stoppedWith s p e.1 e.2) := by
  refine List.map_congr_left fun e _ => ?_
  simp only [stoppedWith, Bool.and_eq_true, decide_eq_true_eq]
  split <;> rfl

/-- A core that the table does not list is absent, and the stop leaves it so. -/
theorem coreAt_stopPartition (s : State) (p n : Nat) :
    (s.stopPartition p).coreAt n = stoppedWith s p n (s.coreAt n) := by
  unfold State.coreAt
  rw [stopPartition_cores]
  refine get_map _ _ _ _ (if_neg ?_)
  split <;> exact fun ⟨_, hrun⟩ => nomatch hrun

theorem stoppedWith_run {s : State} {p n : Nat} (hp : s.partOf n = some p) (c : Core) :
    (stoppedWith s p n c).run ≠ .running := by
  unfold stoppedWith
  split
  · exact nofun
  · next h => exact fun hrun => h ⟨hp, hrun⟩

theorem stoppedWith_other {s : State} {p n : Nat} (hp : s.partOf n ≠ some p) (c : Core) : stoppedWith s p n c = c :=
  if_neg fun h => hp h.1

theorem stopPartition_mem (s : State) (p : Nat) : (s.stopPartition p).mem = s.mem := rfl

theorem stopPartition_stopped (s : State) (p : Nat) : ((s.stopPartition p).partAt p).stopped = true :=
  congrArg Part.stopped (State.partAt_updPartAt_same s p fun q => { q with stopped := true })

theorem trapWithEveryLevelBusy : TrapWithEveryLevelBusy := by
  intro s n cause tval p hn hp hl t
  have ht : t = s.stopPartition p := takeTrap_of_allBusy hn hp hl
  rw [ht]
  refine ⟨stopPartition_stopped s p, stopPartition_mem s p, fun m hm => ?_, fun m hm => ?_⟩
  · rw [coreAt_stopPartition]
    exact stoppedWith_run hm _
  · rw [coreAt_stopPartition]
    exact stoppedWith_other hm _

/-! ## An interrupt -/

/-- R55: a core put back to a rider that waits for its carrier. -/
def atRider (c : Core) : Core := match c.rider, c.resume with
  | some r, none => { c with rider := none, pc := r.pc }
  | _, _ => c

theorem undoRider_mem (s : State) (n : Nat) : (s.undoRider n).mem = s.mem := by
  unfold State.undoRider
  split
  · split <;> rfl
  · rfl

theorem coreAt_undoRider (s : State) (n : Nat) : (s.undoRider n).coreAt n = atRider (s.coreAt n) := by
  cases hr : (s.coreAt n).rider with
  | none => simp only [State.undoRider, atRider, hr]
  | some r =>
    cases hs : (s.coreAt n).resume with
    | some is => simp only [State.undoRider, atRider, hr, hs]
    | none =>
      simp only [State.undoRider, atRider, hr, hs]
      rw [State.coreAt_updCoreAt_same, ← hs]
      split <;> rfl

/-- Back at its rider a core has its other registers as they were. -/
theorem atRider_registers (c : Core) :
    regsOf (atRider c) = regsOf c ∧ (atRider c).level = c.level ∧ (atRider c).x = c.x := by
  unfold atRider
  split
  · refine ⟨funext fun l => ?_, rfl, rfl⟩
    cases l <;> rfl
  · exact ⟨rfl, rfl, rfl⟩

theorem atRider_pc (c : Core) : (atRider c).pc = match c.rider, c.resume with
    | some r, none => r.pc
    | _, _ => c.pc := by
  cases hr : c.rider with
  | none => simp only [atRider, hr]
  | some r =>
    cases hs : c.resume with
    | none => simp only [atRider, hr, hs]
    | some is => simp only [atRider, hr, hs]

theorem exec_interruptTake {s : State} {h code : Nat} {l : Level} (hrun : (s.coreAt (7200 + h)).run = .running)
    (hwait : (s.coreAt (7200 + h)).wait ≠ .inval) (hi : s.interrupt (7200 + h) = some (code, l)) :
    exec (.interruptTake h) s = .next (s.enterInterrupt (7200 + h) code l) := by
  change execInterruptTake h s = _
  simp [execInterruptTake, hrun, hwait, hi]

theorem interruptEntry : InterruptEntry := by
  intro h code l s n c hrun hwait hi
  refine ⟨_, exec_interruptTake hrun hwait hi, interrupt_mem hi, ?_⟩
  intro e
  have he : e = (atRider c).enter l (.ofNat 64 (2 ^ 63 + code)) 0 := by
    rw [← coreAt_undoRider]
    exact State.coreAt_updCoreAt_same ..
  obtain ⟨hregs, hlevel, hx⟩ := atRider_registers c
  obtain ⟨hx', -, -, -⟩ := enter_registers (atRider c) l (.ofNat 64 (2 ^ 63 + code)) 0
  rw [he, regsOf_enter_same, enter_pc, hx', hx, hregs, hlevel]
  exact ⟨rfl, atRider_pc c, rfl, enter_level .., rfl, rfl, getLsbD_statEnter _ _ 0, getLsbD_statEnter _ _ 1,
    getLsbD_statEnter _ _ 7, plv_statEnter _ _, undoRider_mem s n⟩

/-- Settles O49: a trap and an interrupt are one entry, `Core.enter`, whose registers `regsOf_enter_same` and
`regsOf_enter_other` give, the interrupt's after the core is back at its rider; with every level busy the trap is
`stopPartition`, which works on each core by itself (`coreAt_stopPartition`). -/
theorem hubTrapEntry : Obligations.HubTrapEntry :=
  ⟨hubTrapRegisters, trapWithEveryLevelBusy, interruptEntry⟩

end Sys2Proof.Proofs.HubEntry
end
